-- ==== Sys2Proof/Word.lean ====
section
/-! DEFINITION. The word types of the register file and of memory. -/

namespace Sys2Proof

/-- A 32-bit register word (R5, R6). -/
abbrev Word := BitVec 32

/-- A byte of a memory structure (R5). -/
abbrev Byte := BitVec 8

/-- A byte string, lowest address first (R5). -/
abbrev Bytes := List Byte

end Sys2Proof
end

