-- ==== Sys2Proof/Syntax.lean ====
section
/-! DEFINITION. The commands the block takes, one constructor for each row of the table, and the operands they carry. -/

namespace Sys2Proof

/-- The path a register access arrives on (R12, R574): the service port, the PF's BAR0, or VF k+1's BAR0. -/
inductive Path where
  | svc
  | pf
  | vf (k : Fin 16)
  deriving DecidableEq, Repr

/-- An allocator of R33: KV pages or landing chunks of a partition, or the switch frames of the package. -/
inductive AllocId where
  | kv (p : Fin 16)
  | landing (p : Fin 16)
  | frame
  deriving DecidableEq, Repr

/-- One reading of the straps (R588). -/
structure Straps where
  x : BitVec 2
  y : BitVec 2
  z : BitVec 2
  leadN : Bool
  deriving DecidableEq, Repr

/-- A physical core: its partition and its local tile index (R17, R18). -/
structure CoreId where
  part : Fin 16
  tile : Fin 36
  deriving DecidableEq, Repr

/-- A group on a core: the core and the group slot (R139). -/
structure At where
  part : Fin 16
  tile : Fin 36
  slot : Fin 64
  deriving DecidableEq, Repr

/-- What a read-back of an accumulator tile finds wrong (a hardware upset): element and difference. -/
structure Upset where
  row : Fin 128
  col : Fin 128
  delta : Int
  deriving DecidableEq, Repr

/-- What the host's memory returned to the reads a step rests on: addresses (bit 63 set) and bytes (R244, R599). -/
abbrev HostData := List (Nat × Bytes)

/-- A device-produced ring (R318, R98). -/
inductive DevRing where
  | completion (p k : Fin 16)
  | receipt (p : Fin 16)
  | event (p : Fin 16)
  | progress (p : Fin 16)
  | seal (p : Fin 16)
  | pfEvent
  deriving DecidableEq, Repr

/-- An event ring: a partition's or the PF's (R342). -/
inductive EvRing where
  | part (p : Fin 16)
  | pf
  deriving DecidableEq, Repr

/-- Any ring with a host-written record (R318). -/
inductive RingId where
  | sub (p k : Fin 16)
  | dev (r : DevRing)
  deriving DecidableEq, Repr

/-- An agent without a cache, which issues only PkR and InvW (R251). -/
inductive Agent where
  | copy (p : Fin 16)
  | collective (p : Fin 16)
  | layering (p : Fin 16)
  | host
  | link (port : Fin 6)
  deriving DecidableEq, Repr

/-- A holding port of streams (R265). -/
inductive HoldPort where
  | hkl (port : Fin 6)
  | hub (die : Fin 4)
  | iod (i : Fin 16)
  | core (part : Fin 16) (tile : Fin 36)
  deriving DecidableEq, Repr

/-- An entry of the fabric state table (R496). -/
inductive FstEntry where
  | core (i : Fin 576)
  | part (n : Fin 16)
  | pkg (p : Fin 64)
  deriving DecidableEq, Repr

/-- What triggered a partition reset (R509, R522). -/
inductive ResetTrigger where
  | vfFlr
  | register
  | snoopTimeout
  deriving DecidableEq, Repr

/-- A message of a link: its 16-byte header slot and its data slots (R418). -/
structure Msg where
  hdr : Bytes
  data : Bytes
  deriving DecidableEq, Repr

/-- How a PMBus transaction ended (R541). -/
inductive PmbReply where
  | word (w : BitVec 16)
  | sent
  | nack
  | pec
  | timeout
  deriving DecidableEq, Repr

/-- The unit whose PCIe read got no completion (R311). -/
inductive HostWait where
  | load (at_ : At)
  | digest (cid : Nat)
  | source (cid : Nat)
  deriving DecidableEq, Repr

/-- The fields of a form R instruction (R169, Table: Instruction forms). -/
structure RForm where
  gn : Bool
  gp : BitVec 3
  dst : BitVec 8
  sa : BitVec 8
  sb : BitVec 8
  sc : BitVec 8
  ua : Bool
  ub : Bool
  uc : Bool
  rm : BitVec 3
  fmt : BitVec 4
  mods : BitVec 10
  deriving DecidableEq, Repr

/-- The fields of a form I instruction (R169, R171). -/
structure IForm where
  gn : Bool
  gp : BitVec 3
  dst : BitVec 8
  sa : BitVec 8
  imm : Word
  ua : Bool
  x : BitVec 3
  deriving DecidableEq, Repr

/-- The fields of a form M instruction (R169). -/
structure MForm where
  gn : Bool
  gp : BitVec 3
  dst : BitVec 8
  sa : BitVec 8
  sb : BitVec 8
  off : BitVec 14
  scope : BitVec 2
  hint : BitVec 2
  size : BitVec 3
  order : BitVec 2
  aop : BitVec 4
  ua : Bool
  deriving DecidableEq, Repr

/-- The fields of a form B instruction (R169): reserved bits [27:20] are kept so that a non-zero value can be refused. -/
structure BForm where
  gn : Bool
  gp : BitVec 3
  dst : BitVec 8
  rdist : BitVec 16
  res : BitVec 8
  tdist : BitVec 20
  deriving DecidableEq, Repr

/-- The fields of a form X instruction (R169, Table: Matrix instructions). -/
structure XForm where
  gn : Bool
  gp : BitVec 3
  dst : BitVec 8
  sa : BitVec 8
  sb : BitVec 8
  sc : BitVec 8
  mods : BitVec 20
  deriving DecidableEq, Repr

/-- One command of the block: one constructor for each row of the table of operations and events. -/
inductive Instr where
  /-- REGISTER_WRITE (R572): A write to a register that has no row of its own is range- and lock-checked, then applied or refused and captured. -/
  | registerWrite (path : Path) (off : Nat) (v : Word)
  /-- STAT_COUNTER_CLEAR (R9): Writing 0 to a statistics counter clears it and leaves its overflow bit unchanged; any other value is ignored. -/
  | statCounterClear (path : Path) (off : Nat) (v : Word)
  /-- COUNTER_LOW_READ (R12): A read of the low word of a wide counter latches its higher words into the shadow of that access path. -/
  | counterLowRead (path : Path) (off : Nat)
  /-- WERR_READ (R573): A read of GLB_WERR or PTN_WERR returns the last refusal captured on that path and clears the register. -/
  | werrRead (path : Path) (off : Nat)
  /-- ALLOCATOR_GRANT (R33): An allocator of KV pages, landing chunks or switch frames grants one request per fabric cycle, using rotating priority and then FIFO order from its wait list. -/
  | allocatorGrant (a : AllocId)
  /-- ALLOCATOR_WAIT_TIMEOUT (R33): A request waiting in an allocator's wait list times out and completes with resource-wait status. -/
  | allocatorWaitTimeout (a : AllocId) (req : Nat)
  /-- INTERNAL_RESET_RELEASE (R464): Once all twelve power-good inputs have been good together for 10 ms, the device releases internal reset and bring-up proceeds. -/
  | internalResetRelease (r1 : Straps) (r2 : Straps) (r3 : Straps) (t : Nat)
  /-- STRAP_DISAGREE_TIMEOUT (R588): After 1 ms in which the strap readings keep disagreeing, reset release goes ahead with the last reading. -/
  | strapDisagreeTimeout (last : Straps) (t : Nat)
  /-- HKL_IDENTITY_EXCHANGE (R26): At the end of link training the two ends exchange package ID and port; a mismatch holds the port down and raises miscabling. -/
  | hklIdentityExchange (port : Fin 6) (farId : BitVec 6) (farPort : BitVec 3) (lanes : Nat) (farLead : Bool)
  /-- STAND_ADMIT (R27): The lead admits a package to the roster if its position lies in the declared shape and its ID is not already present; otherwise it raises not-admitted. -/
  | standAdmit (id : BitVec 6)
  /-- NO_LEAD_TIMEOUT (R30): A package that has seen no lead within 2 s of its first link coming up runs as a stand of one and reports no lead. -/
  | noLeadTimeout
  /-- BEAT_EDGE (R36): A qualified BEAT_IN edge, or a compensated beat symbol, is learned from, accepted early or late, or counted as extra, with the beat runs updated. -/
  | beatEdge (t : Nat)
  /-- BEAT_BOUNDARY_PREDICTED (R40): With no edge before the predicted time T, the boundary occurs at T on prediction. -/
  | beatBoundaryPredicted (t : Nat)
  /-- BEAT_WINDOW_CLOSE (R40): An acceptance window closes with no edge; the beat is synthesised and the missing run rises by one. -/
  | beatWindowClose (t : Nat)
  /-- BEAT_SILENT_TIMEOUT (R43): No edge has been accepted for two learned periods, so SILENT sets and a beat-silent event is raised once. -/
  | beatSilentTimeout (t : Nat)
  /-- BEAT_NO_LOCK_TIMEOUT (R39): With no lock 100 ms after EN was set, a no-lock event is raised once and learning continues. -/
  | beatNoLockTimeout (t : Nat)
  /-- NOTCH_BEGIN (R47): A notch begins: at notch 0 the beat number advances, then the notch value changes, windows open and launches become eligible. -/
  | notchBegin (t : Nat)
  /-- BEAT_BOUNDARY_FIRE (R48): A package fires its boundary the stand delay D after the lead's decision, less the accumulated latency. -/
  | beatBoundaryFire (t : Nat)
  /-- BEAT_SYMBOL (R48): A received beat symbol has its hop latency added and is forwarded on the other up ports, and the package schedules its own boundary. -/
  | beatSymbol (port : Fin 6) (sym : Bytes) (t : Nat)
  /-- BEAT_SYNC (R52): A beat-sync message sets the member's full beat number and D, skipping ahead or holding notch 1023 as needed. -/
  | beatSync (port : Fin 6) (num : BitVec 64) (d : BitVec 16)
  /-- BEAT_OUT_PULSE_END (R53): BEAT_OUT returns low 1 µs after a pulse starts. -/
  | beatOutPulseEnd (t : Nat)
  /-- BEAT_EN_CLEAR (R60): Clearing BEAT_CTRL.EN stops the beat unit at once (STATE 3) and zeroes the held beat number and notch when no rings are live. -/
  | beatEnClear (path : Path) (v : Word)
  /-- BEAT_EN_SET (R61): Setting BEAT_CTRL.EN moves STATE from off to unlocked and starts learning afresh. -/
  | beatEnSet (path : Path) (v : Word) (t : Nat)
  /-- BEAT_SRC_CHANGE (R62): A write that changes SRC switches the beat source at once, at the next boundary through holdover, or when EN is set, depending on STATE. -/
  | beatSrcChange (path : Path) (v : Word)
  /-- BEAT_BASE_WRITE (R59): A write to BEAT_BASE is accepted only while the beat unit is unlocked or off and the held beat number is 0. -/
  | beatBaseWrite (path : Path) (hi : Bool) (v : Word)
  /-- CHECK_LANE_COMPARE (R223): Within 40 cycles after an MMA completes, the check lane compares the row and column sums of the tile, exactly or within its bound. -/
  | checkLaneCompare (core : CoreId) (upsets : List Upset)
  /-- SHADOW_COMPARE_DONE (R69): The spare finishes recomputing a sampled tile and compares the Luadex digest of its output with the active core's. -/
  | shadowCompareDone (spare : CoreId) (same : Bool)
  /-- INTAKE_PASS_DONE (R85): The intake pass over the declared input ranges ends and yields the input digest. -/
  | intakePassDone (cid : Nat) (host : HostData)
  /-- DIGEST_PASS_DONE (R86): The digest pass over the output ranges, host read-back included, ends and yields the output digest, after which the command reaches its commit point. -/
  | digestPassDone (cid : Nat) (host : HostData)
  /-- RECEIPT_WRITE (R95): When the receipt ring has room, the receipt is written in commit order, the tally is signalled and the completion is queued. -/
  | receiptWrite (p : Fin 16)
  /-- SEAL_SIGN_DONE (R99): The service processor finishes the ECDSA signature of a seal, which is then queued for the seal ring. -/
  | sealSignDone (p : Fin 16) (t : Nat)
  /-- SEAL_RECORD_WRITE (R98): When the seal ring has room, a seal record is written to it. -/
  | sealRecordWrite (p : Fin 16)
  /-- SEAL_STALL_TIMEOUT (R100): A waiting seal that has not started within 100 ms of its creation raises one seal-stall event. -/
  | sealStallTimeout (p : Fin 16) (t : Nat)
  /-- COMPLETION_WRITE (R333): When the completion ring has room, a completion is written and the command's handles and intake entry are freed. -/
  | completionWrite (p : Fin 16) (k : Fin 16)
  /-- INTERRUPT_DELAY_EXPIRE (R340): The oldest unsignalled entry has waited MOD_DLY notches, so the ring's interrupt is raised. -/
  | interruptDelayExpire (ring : DevRing)
  /-- EVENT_WRITE (R343): A held event is written into its event ring once the ring has room, preceded by an events-lost event where events were dropped. -/
  | eventWrite (ring : EvRing)
  /-- SEAL_RING_ENABLE (R98): Setting SEAL_CTRL.EN starts the release-record read that decides whether the seal ring is enabled. -/
  | sealRingEnable (path : Path) (p : Fin 16) (v : Word)
  /-- SEAL_RING_DISABLE (R109): Clearing SEAL_CTRL.EN disables the seal ring unless seal records still wait to be written on a ring that is not halted. -/
  | sealRingDisable (path : Path) (p : Fin 16) (v : Word)
  /-- NOP (R176): The instruction does nothing. -/
  | nop (g : At) (f : RForm)
  /-- BRA (R186): A branch jumps or diverges, pushing a divergence-stack entry when the active lanes disagree. -/
  | bra (g : At) (f : BForm)
  /-- EXIT (R187): The taking-part lanes exit; the group exits once no matrix operation or store remains outstanding, and the block retires with its last group. -/
  | exit (g : At) (f : RForm)
  /-- BAR (R197): The group arrives at its block barrier and stalls until release. -/
  | bar (g : At) (f : RForm)
  /-- BARRIER_RELEASE (R162): One cycle after the arrival or exit that completes the count, the barrier releases and its count resets to 0. -/
  | barrierRelease (core : CoreId) (pos : Fin 16)
  /-- YIELD (R202): At a tile boundary the group goes on as a no-op, or parks if a tile pre-emption request is pending. -/
  | yield (g : At) (f : RForm)
  /-- BEATRD (R203): The beat number and notch, taken at one instant, are written to registers. -/
  | beatrd (g : At) (f : RForm)
  /-- BEATWAIT (R204): The group stalls until the named beat and notch are reached. -/
  | beatwait (g : At) (f : RForm)
  /-- CHKMARK (R205): Writes the check-status word (STAT), or stalls until every comparison of the block has resolved (DRAIN). -/
  | chkmark (g : At) (f : RForm)
  /-- IADD (R177): Adds two integers modulo 2^32. -/
  | iadd (g : At) (f : RForm)
  /-- ISUB (R177): Subtracts two integers modulo 2^32. -/
  | isub (g : At) (f : RForm)
  /-- IMUL (R177): Writes the low 32 bits of an integer product. -/
  | imul (g : At) (f : RForm)
  /-- IMULHI (R177): Writes the high 32 bits of an integer product, signed or unsigned. -/
  | imulhi (g : At) (f : RForm)
  /-- IMAD (R177): Computes a × b + c modulo 2^32. -/
  | imad (g : At) (f : RForm)
  /-- IADDSAT (R177): Adds two signed integers with saturation. -/
  | iaddsat (g : At) (f : RForm)
  /-- ISUBSAT (R177): Subtracts two signed integers with saturation. -/
  | isubsat (g : At) (f : RForm)
  /-- IMIN (R177): Writes the integer minimum, signed or unsigned. -/
  | imin (g : At) (f : RForm)
  /-- IMAX (R177): Writes the integer maximum, signed or unsigned. -/
  | imax (g : At) (f : RForm)
  /-- AND (R177): Bitwise and. -/
  | and (g : At) (f : RForm)
  /-- OR (R177): Bitwise or. -/
  | or (g : At) (f : RForm)
  /-- XOR (R177): Bitwise exclusive or. -/
  | xor (g : At) (f : RForm)
  /-- SHL (R177): Shifts left. -/
  | shl (g : At) (f : RForm)
  /-- SHR (R177): Shifts right, logically or arithmetically. -/
  | shr (g : At) (f : RForm)
  /-- ISETP (R177): Writes an integer comparison to a predicate. -/
  | isetp (g : At) (f : RForm)
  /-- IBIT (R177): Computes the population count, the leading-zero count or the bit reversal. -/
  | ibit (g : At) (f : RForm)
  /-- IADD_I (R177): Adds an immediate. -/
  | iaddI (g : At) (f : IForm)
  /-- ISUB_I (R177): Subtracts an immediate. -/
  | isubI (g : At) (f : IForm)
  /-- IMUL_I (R177): Multiplies by an immediate, keeping the low word. -/
  | imulI (g : At) (f : IForm)
  /-- IMULHI_I (R177): Multiplies by an immediate, keeping the high word. -/
  | imulhiI (g : At) (f : IForm)
  /-- IMAD_I (R177): Computes a × IMM + dst. -/
  | imadI (g : At) (f : IForm)
  /-- IADDSAT_I (R177): Adds an immediate with saturation. -/
  | iaddsatI (g : At) (f : IForm)
  /-- ISUBSAT_I (R177): Subtracts an immediate with saturation. -/
  | isubsatI (g : At) (f : IForm)
  /-- IMIN_I (R177): Writes the minimum with an immediate. -/
  | iminI (g : At) (f : IForm)
  /-- IMAX_I (R177): Writes the maximum with an immediate. -/
  | imaxI (g : At) (f : IForm)
  /-- AND_I (R177): Bitwise and with an immediate. -/
  | andI (g : At) (f : IForm)
  /-- OR_I (R177): Bitwise or with an immediate. -/
  | orI (g : At) (f : IForm)
  /-- XOR_I (R177): Bitwise exclusive or with an immediate. -/
  | xorI (g : At) (f : IForm)
  /-- SHL_I (R177): Shifts left by an immediate. -/
  | shlI (g : At) (f : IForm)
  /-- SHR_I (R177): Shifts right by an immediate. -/
  | shrI (g : At) (f : IForm)
  /-- ISETP_I (R171): Compares with a signed immediate and writes a predicate. -/
  | isetpI (g : At) (f : IForm)
  /-- FADD (R179): S32 addition. -/
  | fadd (g : At) (f : RForm)
  /-- FSUB (R179): S32 subtraction. -/
  | fsub (g : At) (f : RForm)
  /-- FMUL (R179): S32 multiplication. -/
  | fmul (g : At) (f : RForm)
  /-- FFMA (R179): S32 fused multiply-add with one rounding. -/
  | ffma (g : At) (f : RForm)
  /-- FMIN (R179): S32 minimum. -/
  | fmin (g : At) (f : RForm)
  /-- FMAX (R179): S32 maximum. -/
  | fmax (g : At) (f : RForm)
  /-- FSETP (R179): Writes an S32 comparison to a predicate. -/
  | fsetp (g : At) (f : RForm)
  /-- FADD_I (R179): S32 addition of an immediate. -/
  | faddI (g : At) (f : IForm)
  /-- FSUB_I (R179): S32 subtraction of an immediate. -/
  | fsubI (g : At) (f : IForm)
  /-- FMUL_I (R179): S32 multiplication by an immediate. -/
  | fmulI (g : At) (f : IForm)
  /-- FFMA_I (R179): Computes a × IMM + dst in S32. -/
  | ffmaI (g : At) (f : IForm)
  /-- FMIN_I (R179): S32 minimum with an immediate. -/
  | fminI (g : At) (f : IForm)
  /-- FMAX_I (R179): S32 maximum with an immediate. -/
  | fmaxI (g : At) (f : IForm)
  /-- FSETP_I (R171): Compares with an S32 immediate and writes a predicate. -/
  | fsetpI (g : At) (f : IForm)
  /-- HADD2 (R180): Packed 16-bit addition. -/
  | hadd2 (g : At) (f : RForm)
  /-- HSUB2 (R180): Packed 16-bit subtraction. -/
  | hsub2 (g : At) (f : RForm)
  /-- HMUL2 (R180): Packed 16-bit multiplication. -/
  | hmul2 (g : At) (f : RForm)
  /-- HFMA2 (R180): Packed 16-bit fused multiply-add. -/
  | hfma2 (g : At) (f : RForm)
  /-- HMIN2 (R180): Packed 16-bit minimum. -/
  | hmin2 (g : At) (f : RForm)
  /-- HMAX2 (R180): Packed 16-bit maximum. -/
  | hmax2 (g : At) (f : RForm)
  /-- HSETP2 (R180): Writes a packed 16-bit comparison to two predicates. -/
  | hsetp2 (g : At) (f : RForm)
  /-- RCP (R181): Reciprocal. -/
  | rcp (g : At) (f : RForm)
  /-- RSQ (R181): Reciprocal square root. -/
  | rsq (g : At) (f : RForm)
  /-- SQRT (R181): Square root. -/
  | sqrt (g : At) (f : RForm)
  /-- EX2 (R181): Base-2 exponential. -/
  | ex2 (g : At) (f : RForm)
  /-- LG2 (R181): Base-2 logarithm. -/
  | lg2 (g : At) (f : RForm)
  /-- SIN (R181): Sine. -/
  | sin (g : At) (f : RForm)
  /-- COS (R181): Cosine. -/
  | cos (g : At) (f : RForm)
  /-- TANH (R181): Hyperbolic tangent. -/
  | tanh (g : At) (f : RForm)
  /-- CVT (R184): Converts one element per lane between formats. -/
  | cvt (g : At) (f : RForm)
  /-- CVTBLK (R185): Packs or unpacks an F4 or F6 block across the lanes of the group. -/
  | cvtblk (g : At) (f : RForm)
  /-- MOV (R182): Copies a register. -/
  | mov (g : At) (f : RForm)
  /-- MOVI (R182): Copies an immediate. -/
  | movi (g : At) (f : IForm)
  /-- SEL (R182): Selects one of two sources by a predicate. -/
  | sel (g : At) (f : RForm)
  /-- SHFL (R182): Reads a register from another lane. -/
  | shfl (g : At) (f : RForm)
  /-- VOTE (R182): Writes the mask of taking-part lanes whose predicate is true. -/
  | vote (g : At) (f : RForm)
  /-- PLOP (R182): Applies a logic operation to predicates. -/
  | plop (g : At) (f : RForm)
  /-- LANE (R182): Writes the lane number. -/
  | lane (g : At) (f : RForm)
  /-- T2U (R182): Copies a thread register of the lowest taking-part lane into a uniform register. -/
  | t2u (g : At) (f : RForm)
  /-- UADD (R183): Uniform addition. -/
  | uadd (g : At) (f : RForm)
  /-- USUB (R183): Uniform subtraction. -/
  | usub (g : At) (f : RForm)
  /-- UMUL (R183): Uniform multiplication. -/
  | umul (g : At) (f : RForm)
  /-- UAND (R183): Uniform and. -/
  | uand (g : At) (f : RForm)
  /-- UOR (R183): Uniform or. -/
  | uor (g : At) (f : RForm)
  /-- UXOR (R183): Uniform exclusive or. -/
  | uxor (g : At) (f : RForm)
  /-- USHL (R183): Uniform left shift. -/
  | ushl (g : At) (f : RForm)
  /-- USHR (R183): Uniform logical right shift. -/
  | ushr (g : At) (f : RForm)
  /-- UMOVI (R183): Writes an immediate to a uniform register. -/
  | umovi (g : At) (f : IForm)
  /-- LDG (R189): Global load, range-checked and served by L1, L2, the home slice or the host. -/
  | ldg (g : At) (f : MForm)
  /-- STG (R189): Global store, written through L1 to L2. -/
  | stg (g : At) (f : MForm)
  /-- LDL (R189): Local memory load. -/
  | ldl (g : At) (f : MForm)
  /-- STL (R189): Local memory store. -/
  | stl (g : At) (f : MForm)
  /-- PRFG (R192): Prefetches a line into L1 and L2. -/
  | prfg (g : At) (f : MForm)
  /-- ATOMG (R194): Global atomic performed at the home slice, returning the old value. -/
  | atomg (g : At) (f : MForm)
  /-- ATOML (R194): Local memory atomic, returning the old value. -/
  | atoml (g : At) (f : MForm)
  /-- CASG (R194): Global compare-and-swap. -/
  | casg (g : At) (f : MForm)
  /-- CASL (R194): Local compare-and-swap. -/
  | casl (g : At) (f : MForm)
  /-- FENCE (R196): Orders the group's accesses at the given scope. -/
  | fence (g : At) (f : RForm)
  /-- FENCE_COMPLETE (R196): Every earlier store of the group has been performed at the fence's scope, and the group continues. -/
  | fenceComplete (g : At)
  /-- LOAD_DATA_RETURN (R599): The data of a global load or atomic that missed L1, host reads included, returns and the group's long stall ends. -/
  | loadDataReturn (g : At) (host : HostData)
  /-- MMA (R198): Issues a matrix multiply-accumulate into the matrix queue and returns a token. -/
  | mma (g : At) (f : XForm)
  /-- MRD (R198): Issues a read-out of an accumulator tile to local memory. -/
  | mrd (g : At) (f : XForm)
  /-- MWAIT (R200): Stalls the group until its matrix token has completed. -/
  | mwait (g : At) (f : XForm)
  /-- MCLR (R198): Issues a clear of an accumulator tile. -/
  | mclr (g : At) (f : XForm)
  /-- MATRIX_OP_START (R216): A queued matrix operation starts once the unit is free and, for MRD or MCLR, earlier operations on the tile have completed. -/
  | matrixOpStart (core : CoreId)
  /-- MMA_COMPLETE (R216): An MMA's accumulator update is written and its token completes. -/
  | mmaComplete (core : CoreId)
  /-- MRD_COMPLETE (R217): An MRD's output tile is written to local memory and its token completes. -/
  | mrdComplete (core : CoreId)
  /-- MCLR_COMPLETE (R216): An MCLR has cleared its tile and its token completes. -/
  | mclrComplete (core : CoreId)
  /-- CORE_CYCLE (R153): In each core cycle, each issue slot fills or swaps its active set and issues from its oldest ready group. -/
  | coreCycle (core : CoreId)
  /-- BLOCK_DISPATCH (R165): The distributor dispatches the next block to the granted core with the most free capacity, and the block's groups are created. -/
  | blockDispatch (p : Fin 16) (cid : Nat)
  /-- MESH_FLIT_RECEIVE (R227): A mesh or crossbar flit is checked by CRC and retried up to 8 times; a ninth failure makes the link suspect. -/
  | meshFlitReceive (die : Fin 4) (a : Nat) (b : Nat) (crcOk : Bool) (cids : List Nat)
  /-- ROUTE_RECONFIGURE (R234): For a suspect link, the service processor halts the die, self-tests the routers, marks dead ones, reloads route tables and resumes. -/
  | routeReconfigure (die : Fin 4) (a : Fin 144) (b : Fin 144) (failA : Bool) (failB : Bool) (lost : List Nat)
  /-- STRESS_TICK (R239): Once per second of power-on time, each core's stress counter adds a weight for its state. -/
  | stressTick
  /-- WEAR_EVALUATE (R240): Once per hour each partition is evaluated, and a swap becomes pending if the stress gap reaches WEAR_DELTA. -/
  | wearEvaluate
  /-- WEAR_SWAP (R241): Within a wear window, once the active core is free, the pending swap exchanges it with the spare. -/
  | wearSwap (p : Fin 16)
  /-- RDS (R252): The home handles an L2 read miss. -/
  | rds (addr : Nat) (p : Fin 16) (errs : List Nat)
  /-- RDU (R252): The home handles an L2 store miss, invalidating other holders. -/
  | rdu (addr : Nat) (p : Fin 16) (errs : List Nat)
  /-- UPG (R252): The home upgrades a shared line to exclusive. -/
  | upg (addr : Nat) (p : Fin 16) (errs : List Nat)
  /-- EVC (R252): The home removes the evicting holder of a clean line. -/
  | evc (addr : Nat) (p : Fin 16)
  /-- WB (R252): The home writes back the data of an evicted modified line. -/
  | wb (addr : Nat) (p : Fin 16)
  /-- PKR (R252): The home serves a peek read without allocating. -/
  | pkr (addr : Nat) (who : Agent) (errs : List Nat)
  /-- INVW (R252): The home performs an invalidating masked write, clearing poison on a full-line write. -/
  | invw (addr : Nat) (who : Agent) (mask : BitVec 128) (data : Bytes) (errs : List Nat)
  /-- ATM (R252): The home performs a global atomic at the slice. -/
  | atm (addr : Nat) (g : At) (lane : Fin 32) (errs : List Nat)
  /-- SNOOP (R253): An L2 answers a snoop from a home before its own outstanding request. -/
  | snoop (addr : Nat) (p : Fin 16)
  /-- SNOOP_REPLY (R252): The home receives a snoop reply and completes the open transaction on the line. -/
  | snoopReply (addr : Nat) (p : Fin 16)
  /-- HOME_TIMEOUT (R255): With no snoop reply within HOME_TMO, the line becomes P, the requester gets poison and the silent partition is marked non-responsive. -/
  | homeTimeout (addr : Nat) (p : Fin 16)
  /-- WRITE_LAND (R266): A stream write is performed at its home or destination core and acknowledged to its holding port. -/
  | writeLand (port : HoldPort) (stream : Nat) (addr : Nat) (mask : BitVec 128) (data : Bytes)
  /-- FINAL_WRITE_ARRIVE (R267): A flagged final write reaches its holding port and is held until its count of writes has landed. -/
  | finalWriteArrive (port : HoldPort) (stream : Nat) (cid : Nat) (count : Word) (addr : Nat) (mask : BitVec 128) (data : Bytes) (t : Nat)
  /-- ORDERING_TIMEOUT (R269): A final write held for 1 ms is discarded, the command is felled, and an ordering-timeout event is raised. -/
  | orderingTimeout (port : HoldPort) (stream : Nat)
  /-- NEAR_GIB_WRITE (R274): A write to NEAR_GIB, accepted only when nothing names device memory, moves every homed address and leaves memory uninitialised. -/
  | nearGibWrite (path : Path) (v : Word)
  /-- BULK_SLOT_ISSUE (R278): A channel issues a bulk slot for one granule, and its read outcome is decided by the symbol code. -/
  | bulkSlotIssue (die : Fin 4) (granule : Nat) (write : Bool) (errs : List Nat) (p : Option (Fin 16))
  /-- NARROW_ACCESS (R280): A channel serves a 32-byte narrow access within its 10 % share. -/
  | narrowAccess (die : Fin 4) (codeword : Nat) (write : Bool) (errs : List Nat) (p : Option (Fin 16))
  /-- ROW_REMAP_DONE (R284): The row copy completes and the row is redirected, with a row-remapped event. -/
  | rowRemapDone (die : Fin 4) (ch : Fin 32) (bank : Fin 32) (row : Nat)
  /-- DRAM_THERMAL_SAMPLE (R286): Every 100 µs the DRAM layer sensors are sampled, choosing the refresh multiplier and the throttle and trip conditions. -/
  | dramThermalSample (temps : List (Option Int)) (t : Nat)
  /-- DRAM_THROTTLE_STEP (R288): The DRAM thermal floor of a die moves one state on its 1 ms or 10 ms timer. -/
  | dramThrottleStep (die : Fin 4) (t : Nat)
  /-- RGN_SEAL (R292): The SEAL code of RGN_CMD starts sealing a region, computing or verifying its digest table. -/
  | rgnSeal (path : Path) (r : Fin 64) (v : Word)
  /-- RGN_UNSEAL (R292): The UNSEAL code of RGN_CMD returns a region to state off. -/
  | rgnUnseal (path : Path) (r : Fin 64) (v : Word)
  /-- RGN_SEALING_DONE (R292): Sealing ends, with the region in state sealed or refused. -/
  | rgnSealingDone (r : Fin 64) (unreadable : List Nat)
  /-- REPAIR_READ_DONE (R297): The backing read completes; a matching page is rewritten, or the attempt fails and is retried or the region is damaged. -/
  | repairReadDone (r : Fin 64) (ok : Bool) (data : Bytes)
  /-- REPAIR_READ_TIMEOUT (R297): A backing read without completion after 10 ms counts as a failed repair attempt. -/
  | repairReadTimeout (r : Fin 64)
  /-- CRUISE_READ (R301): The ordinary pass reads the next granule of a die within budget and window. -/
  | cruiseRead (die : Fin 4) (errs : List Nat)
  /-- SEALED_CRUISE_PAGE (R302): The sealed pass reads a page, compares its digest, and stamps it or starts repair. -/
  | sealedCruisePage (errs : List Nat) (tableErrs : List Nat)
  /-- CRUISE_PERIOD_END (R303): A cruise pass unfinished at the end of its period raises one cruise-late event. -/
  | cruisePeriodEnd (sealed : Bool) (die : Fin 4)
  /-- UNSUPPORTED_REQUEST (R310): A request that is not a configuration or BAR memory request completes with Unsupported Request. -/
  | unsupportedRequest
  /-- BAR_ACCESS_MISALIGNED (R316): A register access of the wrong width or alignment is refused with UR on reads, or discarded with a host-link event on writes. -/
  | barAccessMisaligned (path : Path) (off : Nat) (isRead : Bool)
  /-- VF_FLR (R317): A Function Level Reset of a VF performs a partition reset of its partition. -/
  | vfFlr (k : Fin 16)
  /-- PF_FLR (R317): A Function Level Reset of the PF performs a device reset. -/
  | pfFlr
  /-- PCIE_HOT_RESET (R317): A hot reset performs a device reset. -/
  | pcieHotReset
  /-- PCIE_LINK_DOWN (R317): A host link down performs a device reset. -/
  | pcieLinkDown
  /-- NUMVFS_WRITE (R313): A write of NumVFs switches partition ownership between PF and VFs; it is refused while rings are live or for values other than 0 and 16. -/
  | numvfsWrite (v : Nat)
  /-- WAKE_WRITE (R326): A write to a wake page requests a scan of the function's rings. -/
  | wakeWrite (fn : Fin 17)
  /-- RING_SCAN (R326): A scan starts and reads the doorbell records of enabled rings and the release records of full rings. -/
  | ringScan (fn : Fin 17)
  /-- FREE_TICK (R328): While the beat unit counts no notches, a 1 µs tick stands in for the notch in polling, record re-reads, moderation and progress. -/
  | freeTick (t : Nat)
  /-- DOORBELL_READ_DONE (R321): A doorbell record read returns and is accepted, ignored as repeated or torn, or halts the ring on a range error. -/
  | doorbellReadDone (p : Fin 16) (k : Fin 16) (ok : Bool) (rec : Bytes)
  /-- RELEASE_READ_DONE (R324): A release record read returns, freeing ring space or halting the producer side on a bound error. -/
  | releaseReadDone (ring : DevRing) (ok : Bool) (rec : Bytes)
  /-- RECORD_READ_TIMEOUT (R345): A host-written record read fails or gets no completion within 10 ms; it is retried once and then halts the ring. -/
  | recordReadTimeout (ring : RingId)
  /-- DESCRIPTOR_FETCH_DONE (R329): A fetch read returns descriptors into the engine's intake in ring order, where each is validated. -/
  | descriptorFetchDone (p : Fin 16) (k : Fin 16) (ok : Bool) (descs : List Bytes) (host : HostData)
  /-- DESCRIPTOR_FETCH_TIMEOUT (R345): A descriptor fetch without completion after 10 ms halts the ring with cause 2. -/
  | descriptorFetchTimeout (p : Fin 16) (k : Fin 16)
  /-- SQ_ENABLE (R322): Setting SQ_CFG.EN starts the doorbell-record read that decides the enable. -/
  | sqEnable (path : Path) (p : Fin 16) (k : Fin 16) (v : Word)
  /-- SQ_DISABLE (R352): Clearing SQ_CFG.EN disables a submission ring when no descriptor is in fetch or incomplete. -/
  | sqDisable (path : Path) (p : Fin 16) (k : Fin 16) (v : Word)
  /-- DR_ENABLE (R322): Setting DR_CFG.EN starts the release-record read that decides the enable. -/
  | drEnable (path : Path) (ring : DevRing) (v : Word)
  /-- DR_DISABLE (R352): Clearing DR_CFG.EN disables a device-produced ring when its pending entries are written or its producer side is halted. -/
  | drDisable (path : Path) (ring : DevRing) (v : Word)
  /-- RING_ENABLE_READ_DONE (R322): The EN record read completes; the enable takes effect or is refused. -/
  | ringEnableReadDone (ring : RingId) (ok : Bool) (rec : Bytes)
  /-- RING_ENABLE_READ_TIMEOUT (R322): The EN record read gets no completion within 10 ms and the enable is refused. -/
  | ringEnableReadTimeout (ring : RingId)
  /-- BUF_WRITE (R347): BUF_CMD code 1 writes the staged entry into the buffer table after its checks. -/
  | bufWrite (path : Path) (p : Fin 16)
  /-- BUF_INVALIDATE (R348): BUF_CMD code 2 invalidates an entry unless the handle is busy. -/
  | bufInvalidate (path : Path) (p : Fin 16)
  /-- BUF_READ (R353): BUF_CMD code 3 reads an entry into BUF_STAGE. -/
  | bufRead (path : Path) (p : Fin 16)
  /-- NOP_COMMAND (R360): The NOP descriptor commits. -/
  | nopCommand (cid : Nat)
  /-- RUN_LIST (R369): A command list runs its entries one at a time, each committing on its own, and then commits itself. -/
  | runList (cid : Nat) (host : HostData)
  /-- LIST_ENTRY_LAUNCH (R368): The next list entry is validated and launched after the previous entry commits. -/
  | listEntryLaunch (cid : Nat) (host : HostData)
  /-- COPY (R361): Copies bytes by peek reads and invalidating writes. -/
  | copy (cid : Nat)
  /-- FILL (R361): Fills a range with a 4-byte pattern. -/
  | fill (cid : Nat)
  /-- KERNEL (R362): Launches a kernel grid from an image and an argument area onto granted cores. -/
  | kernel (cid : Nat)
  /-- COLLECTIVE (R435): Runs an all-reduce over a group in fixed member order. -/
  | collective (cid : Nat) (host : HostData)
  /-- LAYER (R455): Composes layers into a normalised output tensor on a layering engine. -/
  | layer (cid : Nat) (host : HostData)
  /-- SERVE_REQ (R403): Submits a serving request to the sequencer. -/
  | serveReq (cid : Nat)
  /-- SIGNAL (R360): Commits and advances its signal tally. -/
  | signal (cid : Nat)
  /-- WAIT (R360): Waits for its tally target, then commits. -/
  | wait (cid : Nat)
  /-- SEAL (R97): Commits and triggers a seal that covers its own receipt. -/
  | seal (cid : Nat)
  /-- FENCE_SYS (R360): Launches after all earlier descriptors of the partition complete, and commits once their writes are performed at system scope. -/
  | fenceSys (cid : Nat)
  /-- CANCEL (R377): Cancels a named target before launch, or fells it after the grant, or finds nothing. -/
  | cancel (cid : Nat)
  /-- TALLY_HI_WRITE (R373): A write of TALLY_HI sets the selected tally from the staged low word and the new high word. -/
  | tallyHiWrite (path : Path) (p : Fin 16) (v : Word)
  /-- SCHEDULER_SELECT (R386): Each fabric cycle an engine selects one eligible command by class, age and fewest jobs, and grants it. -/
  | schedulerSelect (p : Fin 16) (e : Fin 5) (cycle : Nat) (t : Nat)
  /-- PREEMPT_SAVE (R392): Once every group of a victim has parked, its cores save their live state into save slots. -/
  | preemptSave (cid : Nat)
  /-- SAVE_DONE (R394): The save completes, the cores are freed, and the victim returns to the intake head as saved. -/
  | saveDone (cid : Nat)
  /-- RESTORE_DONE (R396): A restore completes after the slot digest check, and the groups resume after their YIELD. -/
  | restoreDone (cid : Nat) (same : Bool)
  /-- PREEMPT_BUDGET_EXPIRE (R397): A victim not parked within PRE_BUDGET is felled and a pre-emption-escalated event is raised. -/
  | preemptBudgetExpire (cid : Nat)
  /-- FELL_CORES_FREE (R398): The cores of a felled command become free 3 µs after the felling starts. -/
  | fellCoresFree (cid : Nat)
  /-- FELL_DRAIN_DONE (R398): Every outstanding request of a felled command has been answered, and its engines are free. -/
  | fellDrainDone (cid : Nat)
  /-- SRV_ENABLE (R400): Setting SRV_CTRL.EN starts the serving sequencer if its handles and buffers are valid. -/
  | srvEnable (path : Path) (p : Fin 16) (v : Word)
  /-- SERVE_STEP_BOUNDARY (R404): When a step ends, the sequencer collects tokens, retires, grows, admits and writes the next batch. -/
  | serveStepBoundary (p : Fin 16) (host : HostData)
  /-- SERVE_STEP_LAUNCH (R408): A serving step launches at its boundary or at its paced launch point, or the point is skipped. -/
  | serveStepLaunch (p : Fin 16)
  /-- KV_WAIT_TIMEOUT (R407): A sequence waiting SRV_KV_TMO beats for a KV page ends with resource-wait. -/
  | kvWaitTimeout (p : Fin 16) (slot : Fin 512)
  /-- PORT_ENABLE (R413): Setting PORT_CTRL.EN starts training of an HKL port. -/
  | portEnable (path : Path) (port : Fin 6) (v : Word)
  /-- PORT_RETRAIN (R414): Writing RETRAIN retrains an HKL port. -/
  | portRetrain (path : Path) (port : Fin 6) (v : Word)
  /-- LINK_TRAINING_TIMEOUT (R413): A port that reaches no width within 50 ms is held down and raises a link-state event. -/
  | linkTrainingTimeout (port : Fin 6)
  /-- HKL_PORT_DOWN (R414): A trained port goes down and retrains, staying down after three failures within 1 s. -/
  | hklPortDown (port : Fin 6) (t : Nat)
  /-- HKL_FLIT_RECEIVE (R417): An HKL flit is CRC-checked, acknowledged or NAKed, and its messages are delivered. -/
  | hklFlitReceive (port : Fin 6) (flit : Bytes)
  /-- FLIT_REPLAY_TIMEOUT (R417): A flit unacknowledged after 2 µs is replayed; a ninth failure takes the port down. -/
  | flitReplayTimeout (port : Fin 6)
  /-- WRITE_MESSAGE (R419): An inbound write message is performed as an invalidating write through its holding port, or discarded. -/
  | writeMessage (port : Fin 6) (m : Msg) (t : Nat)
  /-- PULL_MESSAGE (R437): A member answers a pull with its staged contribution and frees the landing chunk. -/
  | pullMessage (port : Option (Fin 6)) (m : Msg)
  /-- CONTRIBUTION_MESSAGE (R438): An owner adds a contribution in fixed member order, and sends the result when the chunk is complete. -/
  | contributionMessage (port : Option (Fin 6)) (m : Msg)
  /-- ROSTER_MESSAGE (R516): A roster message admits, removes or answers a round, or reports a departure. -/
  | rosterMessage (port : Fin 6) (m : Msg)
  /-- SWAP_REQUEST (R427): The lead collects swap requests in a beat and proceeds with the lowest requester ID. -/
  | swapRequest (port : Option (Fin 6)) (m : Msg)
  /-- SWAP_STATE (R428): The new lead receives the swap state and returns its digest. -/
  | swapState (port : Fin 6) (m : Msg)
  /-- GROUP_UPDATE (R432): A package receives a new group entry to apply at its activation beat. -/
  | groupUpdate (port : Fin 6) (m : Msg)
  /-- DISCARD_NOTICE (R445): Messages of the named operation or stream are dropped, and its tag is put under discard. -/
  | discardNotice (port : Fin 6) (m : Msg) (t : Nat)
  /-- PASS_NOTICE (R441): The coordinator records a member's pass and sends commit once every member has passed. -/
  | passNotice (port : Option (Fin 6)) (m : Msg)
  /-- COMMIT_NOTICE (R441): A member may reach its commit point for the collective. -/
  | commitNotice (port : Option (Fin 6)) (m : Msg)
  /-- FELL_NOTICE (R441): The collective is felled and re-run at every member. -/
  | fellNotice (port : Option (Fin 6)) (m : Msg)
  /-- MISMATCH_NOTICE (R443): Every member completes check-failed without a re-run. -/
  | mismatchNotice (port : Option (Fin 6)) (m : Msg)
  /-- PROBE (R421): A received probe is answered with an echo. -/
  | probe (port : Fin 6) (sym : Bytes) (t : Nat) (depart : Nat)
  /-- ECHO (R421): A received echo updates the hop latency. -/
  | echo (port : Fin 6) (sym : Bytes) (t : Nat)
  /-- PROBE_TIMER (R421): Every 1 ms each port sends a probe. -/
  | probeTimer (t : Nat)
  /-- COLLECTIVE_TIMEOUT (R442): A pull or commit notice unanswered for 1 ms is an ordering timeout, and a fell notice is sent. -/
  | collectiveTimeout (cid : Nat)
  /-- DISCARD_EXPIRE (R445): A tag under discard with no re-run is released after 1 ms. -/
  | discardExpire (tag : BitVec 16) (src : BitVec 6)
  /-- LEAD_SWAP (R426): A write of LEAD_SWAP requests a lead handover. -/
  | leadSwap (path : Path) (v : Word)
  /-- SWAP_TIMEOUT (R428): A handover whose state transfer has not completed within 100 ms ends with timeout. -/
  | swapTimeout
  /-- GROUP_WRITE (R432): GRP_CMD write applies a staged group entry on the lead, checks its generation and sends updates. -/
  | groupWrite (path : Path)
  /-- GROUP_READ (R447): GRP_CMD read loads an entry into staging. -/
  | groupRead (path : Path)
  /-- LAYER_PASS_DONE (R461): A layering pass ends, its signatures are compared, and the command proceeds to commit. -/
  | layerPassDone (cid : Nat)
  /-- SERVICE_RESET_RELEASE (R464): The service domain leaves reset once PG_SVC and PG_IO have been good for 10 ms. -/
  | serviceResetRelease (t : Nat)
  /-- PG_GOOD (R465): A power-good input becomes good after reading high continuously for 10 ms. -/
  | pgGood (rail : Fin 12)
  /-- PG_LOST (R465): A good power-good input reads low for 2 µs and is lost, causing a power fault or a service reset. -/
  | pgLost (rail : Fin 12) (t : Nat)
  /-- RAIL_LATE_TIMEOUT (R465): A rail not good 1 s after the service domain leaves reset sets RAIL_STATUS.LATE. -/
  | railLateTimeout
  /-- CLOCK_SWITCH (R469): A die's core clock switches to a new power state after its voltage change. -/
  | clockSwitch (die : Fin 4)
  /-- PS4_ENTRY (R470): A die idle for IDLE_US enters PS4. -/
  | ps4Entry (die : Fin 4)
  /-- CONTROL_PERIOD (R473): Every 100 µs the energy model adds cones and the cap floors and partition duties are evaluated. -/
  | controlPeriod
  /-- COEFFICIENT_WRITE (R479): A model coefficient write takes effect next period and returns calibration to stage 0. -/
  | coefficientWrite (path : Path) (i : Fin 15) (v : Word)
  /-- PMBUS_ROUND_START (R540): Every PMB_ROUND ms a PMBus round starts, unless the previous round is still running. -/
  | pmbusRoundStart
  /-- PMBUS_TRANSACTION_DONE (R541): A PMBus transaction ends; its reading is checked, and a completed round yields a calibration sample. -/
  | pmbusTransactionDone (r : PmbReply)
  /-- QUIESCENT_FIT (R481): A quiescent window with valid rounds updates gain a and enters stage 1. -/
  | quiescentFit
  /-- CAL_B_FIT (R482): Once per second in stage 1, gain b is fitted. -/
  | calBFit
  /-- CAL_REGRESSION (R483): Every 10 s in stages 2 and 3 a least-squares fit of both gains is attempted. -/
  | calRegression
  /-- CAL_STAGE_TIMEOUT (R480): Calibration moves to regression or held after 60 s or 600 s without an accepted fit. -/
  | calStageTimeout
  /-- DROOP_DETECT (R484): A droop detector below threshold stretches the core clock of its die. -/
  | droopDetect (die : Fin 4) (t : Nat)
  /-- DROOP_RELEASE (R484): After 100 ns with every detector above threshold, the clock stretch ends. -/
  | droopRelease (die : Fin 4) (t : Nat)
  /-- DROOP_FLOOR_STEP (R484): The droop floor rises after heavy stretching in 1 ms, or falls after light stretching in 10 ms. -/
  | droopFloorStep (die : Fin 4) (t : Nat)
  /-- VR_ALERT_ASSERT (R485): A qualified VR_ALERT_N assertion raises the VR floor to PS3 and reads STATUS_WORD. -/
  | vrAlertAssert (g : Fin 6) (t : Nat)
  /-- VR_ALERT_RELEASE (R485): A qualified VR_ALERT_N release starts the 10 ms hold of the VR floor. -/
  | vrAlertRelease (g : Fin 6) (t : Nat)
  /-- VR_FLOOR_STEP (R485): After its hold, the VR floor falls one state every 10 ms. -/
  | vrFloorStep (die : Fin 4) (t : Nat)
  /-- VR_ALERT_STUCK (R486): An input asserted for 1 s raises a stuck event once. -/
  | vrAlertStuck (g : Fin 6)
  /-- JUNCTION_SAMPLE (R487): Every 100 µs the junction sensors are sampled for throttling and trip. -/
  | junctionSample (temps : List (Option Int)) (t : Nat)
  /-- JUNCTION_FLOOR_STEP (R488): The junction floor rises every 1 ms while hot, and falls every 10 ms after cooling. -/
  | junctionFloorStep (die : Fin 4) (t : Nat)
  /-- POWERDOWN (R490): The POWERDOWN code of PWR_CMD stops fetching, aborts ungranted commands and lets running ones finish. -/
  | powerdown (path : Path) (v : Word)
  /-- PD_BUDGET_EXPIRE (R490): At PD_BUDGET, commands short of their commit point are felled and aborted, and chains are sealed. -/
  | pdBudgetExpire
  /-- POWERDOWN_DRAIN_DONE (R490): Buffered stores have drained and the package enters PS5. -/
  | powerdownDrainDone
  /-- PD_DRAIN_TIMEOUT (R490): Records still unwritten after PD_DRAIN_TMO are discarded, PD_INCOMPLETE sets and PS5 follows. -/
  | pdDrainTimeout
  /-- WAKE (R491): The WAKE code of PWR_CMD, through the service space in PS5, starts bring-up. -/
  | wake (path : Path) (v : Word) (t : Nat)
  /-- CORE_MAP_STATE_WRITE (R499): A management write of a core state applies only with a matching staged generation and a permitted transition. -/
  | coreMapStateWrite (path : Path) (i : Fin 576) (v : Word)
  /-- FST_GENERATION_STAGE (R499): A write of an entry's generation word stages it for the path's next state write. -/
  | fstGenerationStage (path : Path) (e : FstEntry) (v : Word)
  /-- PKG_STATE_WRITE (R518): On the lead, a write sets a failed or departed package to absent so that it may rejoin. -/
  | pkgStateWrite (path : Path) (i : Fin 64) (v : Word)
  /-- SELF_TEST_DONE (R504): A returning core's self-test ends, and the core becomes a spare or stays blazed. -/
  | selfTestDone (i : Fin 576) (pass : Bool)
  /-- SUSPECT_DECAY (R502): After 24 hours without increase, a core's suspect count falls by one. -/
  | suspectDecay (i : Fin 576)
  /-- PART_RESET (R510): A partition reset starts: the partition enters resetting, commands are felled or aborted, and records are flushed. -/
  | partReset (p : Fin 16) (trigger : ResetTrigger)
  /-- PART_RESET_DRAIN_TIMEOUT (R510): Records of a resetting partition still unwritten after 10 ms are discarded and DISCARDED sets. -/
  | partResetDrainTimeout (p : Fin 16)
  /-- PART_RESET_DONE (R510): Partition state is cleared, the reset count rises, and the partition re-enters running, degraded or failed. -/
  | partResetDone (p : Fin 16)
  /-- DEV_RESET (R512): A device reset returns all but the service domain to reset and restarts bring-up at stage 2. -/
  | devReset (path : Path) (v : Word)
  /-- FST_ENTRY_ERROR (R513): A fabric state table entry found in error is corrected, or restored from the firmware store. -/
  | fstEntryError (e : FstEntry) (corrected : Bool)
  /-- FIRMWARE_STORE_SAVE (R513): Once per power-on hour, stress and suspect counts are written to the firmware store. -/
  | firmwareStoreSave
  /-- SVC_WRITE_FRAME (R530): A service write frame is checked and its words are applied in order. -/
  | svcWriteFrame (cmd : Byte) (data : Bytes) (nbits : Nat)
  /-- SVC_READ_FRAME (R531): A service read frame returns words from the current page. -/
  | svcReadFrame (cmd : Byte) (units : Nat)
  /-- SVC_READ_STATUS (R531): A read-status frame returns SVC_PSTAT. -/
  | svcReadStatus (cmd : Byte)
  /-- SVC_SET_PAGE (R526): A set-page frame sets the service page register. -/
  | svcSetPage (cmd : Byte) (data : Bytes) (nbits : Nat)
  /-- SVC_FRAME_TIMEOUT (R532): A frame with no clock edge for 1 ms is abandoned as a framing error. -/
  | svcFrameTimeout
  /-- COMP_CMD (R537): A COMP_CMD write with GO requests a companion read. -/
  | compCmd (path : Path) (v : Word)
  /-- COMP_MASTER_START (R537): Once the port has been idle for 1 µs, the device starts mastering the companion transfer. -/
  | compMasterStart
  /-- COMP_TRANSFER_DONE (R537): A companion transfer ends with its data, or with a CRC error. -/
  | compTransferDone (words : List Word) (crcOk : Bool)
  /-- MASTER_COLLISION (R538): SVC_SEL_N asserted while the device masters aborts the transfer and releases the wires. -/
  | masterCollision
  /-- READ_VIN (R542): PMB_CMD issues READ_VIN to one rail. -/
  | readVin (path : Path) (v : Word)
  /-- READ_VOUT (R542): PMB_CMD issues READ_VOUT to one rail. -/
  | readVout (path : Path) (v : Word)
  /-- READ_IOUT (R542): PMB_CMD issues READ_IOUT to one rail. -/
  | readIout (path : Path) (v : Word)
  /-- READ_TEMPERATURE_1 (R542): PMB_CMD issues READ_TEMPERATURE_1 to one rail. -/
  | readTemperature1 (path : Path) (v : Word)
  /-- STATUS_WORD (R542): PMB_CMD issues STATUS_WORD to one rail. -/
  | statusWord (path : Path) (v : Word)
  /-- CLEAR_FAULTS (R542): PMB_CMD sends CLEAR_FAULTS to one rail. -/
  | clearFaults (path : Path) (v : Word)
  /-- SIND_PERIOD (R543): Each 1 ms PWM period of an indicator sink starts, stretched once per second where needed. -/
  | sindPeriod (n : Fin 18)
  /-- SIND_DIAG_SAMPLE (R544): 20 µs into a diagnostic pulse the sink current is sampled for open load. -/
  | sindDiagSample (n : Fin 18) (found : Bool)
  /-- FIRMWARE_CHECK_DONE (R552): The mask ROM finishes checking the firmware copies and boots one, or fails. -/
  | firmwareCheckDone (sigA : Bool) (sigB : Bool)
  /-- CLOCKS_LOCKED (R549): All clocks lock, ending bring-up stage 3 and starting PCIe training. -/
  | clocksLocked
  /-- DRAM_TRAINING_DONE (R549): DRAM training of every channel ends. -/
  | dramTrainingDone (failed : List Nat)
  /-- MEM_INIT_DONE (R549): Every codeword has been written with zero data. -/
  | memInitDone
  /-- SELF_TEST_COMPLETE (R554): Stage 6 self-tests end, cores are blazed, READY sets, and the beat unit starts. -/
  | selfTestComplete (cores : List (Nat × Nat)) (routers : List Nat) (iodOk : Bool) (t : Nat)
  /-- BRINGUP_STAGE_TIMEOUT (R549): A bring-up stage, or the 1 s total, exceeds its timeout and FAIL sets with its cause. -/
  | bringupStageTimeout (total : Bool)
  /-- FW_OPEN (R553): FW_CTRL.OPEN erases the non-booted copy and resets the write pointer. -/
  | fwOpen (path : Path) (v : Word)
  /-- FW_DATA (R553): A FW_DATA write appends one image word. -/
  | fwData (path : Path) (v : Word)
  /-- FW_COMMIT (R553): FW_CTRL.COMMIT closes the new firmware copy. -/
  | fwCommit (path : Path) (v : Word)
  /-- LINK_GO (R555): A LINK_GO write starts HKL training. -/
  | linkGo (path : Path) (v : Word)
  /-- BG_WINDOW_OPEN (R557): A background duty window opens at its notch. -/
  | bgWindowOpen (k : Fin 4)
  /-- BG_WINDOW_CLOSE (R557): A background duty window closes after LEN notches. -/
  | bgWindowClose (k : Fin 4)
  /-- CAL_PASS_START (R560): Every CAL_PERIOD seconds a calibration pass over 133 units starts. -/
  | calPassStart
  /-- CHANNEL_RETRAIN_DONE (R560): A DRAM channel retraining ends, or fails and keeps its settings. -/
  | channelRetrainDone (die : Fin 4) (ch : Fin 32) (ok : Bool)
  /-- SENSOR_TRIM_DONE (R560): A sensor set's 100 µs comparison ends and its offsets are trimmed. -/
  | sensorTrimDone (set : Fin 5) (diff : List Int)
  /-- VF_DWIN_WRITE (R569): A write of a VF window word is checked against the address map with the other words as they stand. -/
  | vfDwinWrite (path : Path) (p : Fin 16) (w : Fin 4) (v : Word)
  /-- PERST_ASSERT (R586): A qualified PERST_N assertion takes the link down and resets the device. -/
  | perstAssert
  /-- PERST_RELEASE (R586): A PERST_N release lets PCIe link training proceed. -/
  | perstRelease
  /-- REFCLK_LOSS (R587): No SYS_REFCLK edge for 1 µs performs a device reset. -/
  | refclkLoss
  /-- EXTEST (R596): TAP instruction EXTEST resets the domains and drives the pins from the boundary register. -/
  | extest
  /-- SAMPLE_PRELOAD (R594): TAP instruction SAMPLE/PRELOAD. -/
  | samplePreload
  /-- IDCODE (R595): TAP instruction IDCODE selects the identity register. -/
  | idcode
  /-- CLAMP (R596): TAP instruction CLAMP. -/
  | clamp
  /-- HIGHZ (R596): TAP instruction HIGHZ. -/
  | highz
  /-- EXTEST_PULSE (R596): TAP instruction EXTEST_PULSE. -/
  | extestPulse
  /-- EXTEST_TRAIN (R596): TAP instruction EXTEST_TRAIN. -/
  | extestTrain
  /-- BYPASS (R594): TAP instruction BYPASS, selected by any other code. -/
  | bypass (code : BitVec 8)
  /-- TAP_RESET (R596): A TAP reset leaves the test instructions and reruns bring-up from stage 2. -/
  | tapReset
  /-- COMPLETION_TIMEOUT (R311): A PCIe read issued for a core load from host memory, a digest-pass read-back or an engine's host source read gets no completion within 10 ms and counts as a failed XFR check. -/
  | completionTimeout (w : HostWait)
  /-- HOST_LINK_RATE_CHANGE (R344): The PCIe link retrains to another rate or width, rings keep running and a host-link event with cause 0 is raised. -/
  | hostLinkRateChange (rate : BitVec 3) (width : BitVec 16)
  /-- AER_UNCORRECTABLE_LOGGED (R344): The host port logs an AER uncorrectable error and raises a host-link event with cause 1. -/
  | aerUncorrectableLogged (status : Word)
  /-- PG_GLITCH (R465): A good power-good input reads low for less than 2 µs and returns high; the low is ignored and PG_GLITCH_CNT rises by one. -/
  | pgGlitch (rail : Fin 12)
  /-- COPY_TRANSFER_DONE (R361): The copy engine finishes moving the bytes of a COPY or FILL, so its execution ends and commit step 2 begins. -/
  | copyTransferDone (cid : Nat) (host : HostData)
  /-- SWAP_STATE_DIGEST (R428): The current lead receives the new lead's Luadex digest of the swap state and compares it with its own. -/
  | swapStateDigest (d : BitVec 128)
  deriving DecidableEq, Repr

end Sys2Proof
end

