-- ==== Sys2Proof/Machine/Bits.lean ====
section
/-! DEFINITION. Bit fields, byte order, padding and the cyclic redundancy codes of the device. -/

namespace Sys2Proof.Machine

/-- Bits [lo + len − 1 : lo] of a number (R5: bit 0 is least significant). -/
def bitsAt (x lo len : Nat) : Nat := x / 2 ^ lo % 2 ^ len

/-- Bit `i` of a number. -/
def bitAt (x i : Nat) : Bool := x / 2 ^ i % 2 == 1

/-- 1 for true, 0 for false. -/
def b2n (b : Bool) : Nat := if b then 1 else 0

/-- Bits [lo + len − 1 : lo] of a register word, as a number. -/
def fld (w : Word) (lo len : Nat) : Nat := bitsAt w.toNat lo len

/-- Bit `i` of a register word. -/
def flag (w : Word) (i : Nat) : Bool := bitAt w.toNat i

/-- A register word with `v` in bits [lo + len − 1 : lo], its other bits unchanged. -/
def setFld (w : Word) (lo len v : Nat) : Word :=
  BitVec.ofNat 32 (w.toNat - bitsAt w.toNat lo len * 2 ^ lo + v % 2 ^ len * 2 ^ lo)

/-- `n` bytes of `x`, least significant first (R5). -/
def le : Nat → Nat → Bytes
  | 0, _ => []
  | n + 1, x => BitVec.ofNat 8 x :: le n (x / 256)

/-- The number a byte string holds, least significant byte first (R5). -/
def leNat : Bytes → Nat
  | [] => 0
  | b :: r => b.toNat + 256 * leNat r

/-- `n` bytes of `x`, most significant first (byte strings of published algorithms, R5, R99). -/
def be (n x : Nat) : Bytes := (le n x).reverse

/-- `n` zero bytes. -/
def zeros (n : Nat) : Bytes := List.replicate n 0

/-- Exactly `n` bytes: cut, or padded with zeros. -/
def padTo (n : Nat) (bs : Bytes) : Bytes := bs.take n ++ zeros (n - bs.length)

/-- `len` bytes of `bs` from offset `off`, zeros beyond its end. -/
def sub (bs : Bytes) (off len : Nat) : Bytes := padTo len (bs.drop off)

/-- The little-endian field of `len` bytes at offset `off` of a record. -/
def fieldAt (bs : Bytes) (off len : Nat) : Nat := leNat (sub bs off len)

/-- Whether every byte of `bs` in [off, off + len) is zero. -/
def zeroAt (bs : Bytes) (off len : Nat) : Bool := (sub bs off len).all (· == 0)

/-- `bs` with `v` written over it from offset `off`. -/
def overwrite (bs : Bytes) (off : Nat) (v : Bytes) : Bytes := bs.take off ++ v ++ bs.drop (off + v.length)

/-- Bit-reverse of the low `n` bits of `x`. -/
def bitRev : Nat → Nat → Nat
  | 0, _ => 0
  | n + 1, x => x % 2 * 2 ^ n + bitRev n (x / 2)

/-- The number of ones among the low `n` bits of `x`. -/
def popcount : Nat → Nat → Nat
  | 0, _ => 0
  | n + 1, x => x % 2 + popcount n (x / 2)

/-- One bit into a CRC register of width `w`, most significant bit first. -/
def crcBit (w poly c b : Nat) : Nat :=
  let top := (c / 2 ^ (w - 1) + b) % 2
  let c' := c * 2 % 2 ^ w
  if top = 1 then c' ^^^ poly else c'

/-- The low `n` bits of `x` into a CRC register, most significant first. -/
def crcBits (w poly : Nat) : Nat → Nat → Nat → Nat
  | 0, _, c => c
  | n + 1, x, c => crcBits w poly n x (crcBit w poly c (x / 2 ^ n % 2))

/-- A byte string into a CRC register, each byte most significant bit first. -/
def crcBytes (w poly : Nat) (bs : Bytes) (c : Nat) : Nat :=
  bs.foldl (fun a b => crcBits w poly 8 b.toNat a) c

/-- CRC-8 of the service port and of PMBus PEC (R529, R539). -/
def crc8 (bs : Bytes) : Nat := crcBytes 8 0x07 bs 0

/-- CRC-16 of a control symbol (R420). -/
def crc16 (bs : Bytes) : Nat := crcBytes 16 0x1021 bs 0xFFFF

/-- CRC-64 of a flit (R416). -/
def crc64 (bs : Bytes) : Nat :=
  crcBytes 64 0x42F0E1EBA9EA3693 bs 0xFFFFFFFFFFFFFFFF ^^^ 0xFFFFFFFFFFFFFFFF

/-- CRC-32 of a region signature: bit-reflected input and output (R458). -/
def crc32 (bs : Bytes) : Nat :=
  bitRev 32 (bs.foldl (fun a b => crcBits 32 0x04C11DB7 8 (bitRev 8 b.toNat) a) 0xFFFFFFFF) ^^^ 0xFFFFFFFF

/-- The bits of a byte string, most significant bit of each byte first (R525). -/
def bitsOf (bs : Bytes) : List Bool := bs.flatMap (fun b => (List.range 8).map (fun i => bitAt b.toNat (7 - i)))

/-- An element into its place in a sorted list, ahead of its equals. -/
def insertBy {α : Type} (before : α → α → Bool) (x : α) : List α → List α
  | [] => [x]
  | y :: r => if before x y then x :: y :: r else y :: insertBy before x r

/-- A list in the order of `before`, equals in the order they had. -/
def sortBy {α : Type} (before : α → α → Bool) (xs : List α) : List α := xs.foldr (insertBy before) []

/-- Ceiling division. -/
def cdiv (a b : Nat) : Nat := (a + b - 1) / b

/-- The largest `k` with 2 ^ k ≤ n, 0 for n = 0. -/
def log2 (n : Nat) : Nat := Nat.log2 n

end Sys2Proof.Machine
end

