-- ==== Sys2Proof/Machine/Luadex.lean ====
section
/-! DEFINITION. The Luadex digest (R80 to R83), SHA-384 of the chain (R81, R93) and the mixing function of stochastic rounding (R123). -/

namespace Sys2Proof.Machine

/-- One multiplication by x in GF(2^128) (R80). -/
def gfX (a : Nat) : Nat := if a / 2 ^ 127 % 2 = 1 then (a * 2 % 2 ^ 128) ^^^ 0x87 else a * 2

/-- Σ over the low `n` bits of `b` of a · x^i, added to `acc`. -/
def gfMulGo : Nat → Nat → Nat → Nat → Nat
  | 0, _, _, acc => acc
  | n + 1, a, b, acc => gfMulGo n (gfX a) (b / 2) (if b % 2 = 1 then acc ^^^ a else acc)

/-- Multiplication in GF(2^128) modulo x^128 + x^7 + x^2 + x + 1 (R80). -/
def gfMul (a b : Nat) : Nat := gfMulGo 128 (a % 2 ^ 128) b 0

/-- k-th power in GF(2^128), k below 2^n (square and multiply). -/
def gfPowGo : Nat → Nat → Nat → Nat
  | 0, _, _ => 1
  | n + 1, a, k =>
    let r := gfPowGo n (gfMul a a) (k / 2)
    if k % 2 = 1 then gfMul a r else r

/-- a^k in GF(2^128). -/
def gfPow (a k : Nat) : Nat := gfPowGo 64 a k

/-- Round constants 0 to 19 of SHA-384. -/
def sha384K0 : List Nat :=
  [0x428a2f98d728ae22, 0x7137449123ef65cd, 0xb5c0fbcfec4d3b2f, 0xe9b5dba58189dbbc,
   0x3956c25bf348b538, 0x59f111f1b605d019, 0x923f82a4af194f9b, 0xab1c5ed5da6d8118,
   0xd807aa98a3030242, 0x12835b0145706fbe, 0x243185be4ee4b28c, 0x550c7dc3d5ffb4e2,
   0x72be5d74f27b896f, 0x80deb1fe3b1696b1, 0x9bdc06a725c71235, 0xc19bf174cf692694,
   0xe49b69c19ef14ad2, 0xefbe4786384f25e3, 0x0fc19dc68b8cd5b5, 0x240ca1cc77ac9c65]

/-- Round constants 20 to 39 of SHA-384. -/
def sha384K1 : List Nat :=
  [0x2de92c6f592b0275, 0x4a7484aa6ea6e483, 0x5cb0a9dcbd41fbd4, 0x76f988da831153b5,
   0x983e5152ee66dfab, 0xa831c66d2db43210, 0xb00327c898fb213f, 0xbf597fc7beef0ee4,
   0xc6e00bf33da88fc2, 0xd5a79147930aa725, 0x06ca6351e003826f, 0x142929670a0e6e70,
   0x27b70a8546d22ffc, 0x2e1b21385c26c926, 0x4d2c6dfc5ac42aed, 0x53380d139d95b3df,
   0x650a73548baf63de, 0x766a0abb3c77b2a8, 0x81c2c92e47edaee6, 0x92722c851482353b]

/-- Round constants 40 to 59 of SHA-384. -/
def sha384K2 : List Nat :=
  [0xa2bfe8a14cf10364, 0xa81a664bbc423001, 0xc24b8b70d0f89791, 0xc76c51a30654be30,
   0xd192e819d6ef5218, 0xd69906245565a910, 0xf40e35855771202a, 0x106aa07032bbd1b8,
   0x19a4c116b8d2d0c8, 0x1e376c085141ab53, 0x2748774cdf8eeb99, 0x34b0bcb5e19b48a8,
   0x391c0cb3c5c95a63, 0x4ed8aa4ae3418acb, 0x5b9cca4f7763e373, 0x682e6ff3d6b2b8a3,
   0x748f82ee5defb2fc, 0x78a5636f43172f60, 0x84c87814a1f0ab72, 0x8cc702081a6439ec]

/-- Round constants 60 to 79 of SHA-384. -/
def sha384K3 : List Nat :=
  [0x90befffa23631e28, 0xa4506cebde82bde9, 0xbef9a3f7b2c67915, 0xc67178f2e372532b,
   0xca273eceea26619c, 0xd186b8c721c0c207, 0xeada7dd6cde0eb1e, 0xf57d4f7fee6ed178,
   0x06f067aa72176fba, 0x0a637dc5a2c898a6, 0x113f9804bef90dae, 0x1b710b35131c471b,
   0x28db77f523047d84, 0x32caab7b40c72493, 0x3c9ebe0a15c9bebc, 0x431d67c49c100d4c,
   0x4cc5d4becb3e42b6, 0x597f299cfc657e2a, 0x5fcb6fab3ad6faec, 0x6c44198c4a475817]

/-- The 80 round constants of SHA-384. -/
def sha384K : List Nat := sha384K0 ++ sha384K1 ++ sha384K2 ++ sha384K3

/-- The initial hash value of SHA-384. -/
def sha384H : List Nat :=
  [0xcbbb9d5dc1059ed8, 0x629a292a367cd507, 0x9159015a3070dd17, 0x152fecd8f70e5939,
   0x67332667ffc00b31, 0x8eb44a8768581511, 0xdb0c2e0d64f98fa7, 0x47b5481dbefa4fa4]

/-- Rotation of a 64-bit word to the right. -/
def ror64 (x n : Nat) : Nat := (x / 2 ^ n) ||| (x * 2 ^ (64 - n) % 2 ^ 64)

/-- The next `n` words of the message schedule, newest first. -/
def shaSchedule : Nat → List Nat → List Nat
  | 0, w => w
  | n + 1, w =>
    let g (i : Nat) : Nat := w.getD i 0
    let s0 := ror64 (g 14) 1 ^^^ ror64 (g 14) 8 ^^^ (g 14 / 2 ^ 7)
    let s1 := ror64 (g 1) 19 ^^^ ror64 (g 1) 61 ^^^ (g 1 / 2 ^ 6)
    shaSchedule n (((g 15 + s0 + g 6 + s1) % 2 ^ 64) :: w)

/-- One round of SHA-384 on the working variables. -/
def shaRound (v : List Nat) (kw : Nat × Nat) : List Nat :=
  match v with
  | [a, b, c, d, e, f, g, h] =>
    let s1 := ror64 e 14 ^^^ ror64 e 18 ^^^ ror64 e 41
    let ch := (e &&& f) ^^^ ((e ^^^ (2 ^ 64 - 1)) &&& g)
    let t1 := h + s1 + ch + kw.1 + kw.2
    let s0 := ror64 a 28 ^^^ ror64 a 34 ^^^ ror64 a 39
    let mj := (a &&& b) ^^^ (a &&& c) ^^^ (b &&& c)
    [(t1 + s0 + mj) % 2 ^ 64, a, b, c, (d + t1) % 2 ^ 64, e, f, g]
  | _ => v

/-- The big-endian 64-bit words of a byte string, `n` of them. -/
def beWords : Nat → Bytes → List Nat
  | 0, _ => []
  | n + 1, bs => leNat (bs.take 8).reverse :: beWords n (bs.drop 8)

/-- One 128-byte block into the hash value. -/
def shaBlock (h : List Nat) (blk : Bytes) : List Nat :=
  let w := (shaSchedule 64 (beWords 16 blk).reverse).reverse
  let v := (sha384K.zip w).foldl shaRound h
  (h.zip v).map (fun p => (p.1 + p.2) % 2 ^ 64)

/-- `n` blocks of a padded message into the hash value. -/
def shaBlocks : Nat → Bytes → List Nat → List Nat
  | 0, _, h => h
  | n + 1, bs, h => shaBlocks n (bs.drop 128) (shaBlock h (bs.take 128))

/-- SHA-384 of a byte string, in the byte order of its standard (R81, R93, R99). -/
def sha384 (m : Bytes) : Bytes :=
  let z := (111 + 128 - m.length % 128) % 128
  let p := m ++ [0x80] ++ zeros z ++ be 16 (8 * m.length)
  ((shaBlocks (p.length / 128) p sha384H).take 6).flatMap (be 8)

/-- The Luadex key K: the first 16 bytes of the SHA-384 hash of "LUADEX-1" (R81). -/
def luadexK : Nat := leNat ((sha384 [0x4C, 0x55, 0x41, 0x44, 0x45, 0x58, 0x2D, 0x31]).take 16)

/-- The 16-byte blocks of a byte string, the last one padded with zeros (R82). -/
def blocks16 : Nat → Bytes → List Nat
  | 0, _ => []
  | n + 1, bs => leNat (bs.take 16) :: blocks16 n (bs.drop 16)

/-- The Luadex digest D of a byte string (R82): L ⊕ Σ m_b · K^(b+1). -/
def digest (m : Bytes) : Nat :=
  m.length ^^^ (blocks16 (cdiv m.length 16) m).foldr (fun b acc => gfMul (b ^^^ acc) luadexK) 0

/-- The chunk hashes of a byte string that begins at chunk `c` of a longer one (R82, R440): no length term. -/
def chunkSum (c : Nat) (m : Bytes) : Nat :=
  gfMul (gfPow luadexK (16 * c))
    ((blocks16 (cdiv m.length 16) m).foldr (fun b acc => gfMul (b ^^^ acc) luadexK) 0)

/-- The binding element of a range: handle, role and offset in its buffer (R83). -/
def bindElem (handle role off : Nat) : Nat :=
  handle % 2 ^ 12 + role % 2 ^ 4 * 2 ^ 12 + off % 2 ^ 64 * 2 ^ 16 + 2 ^ 127

/-- The bound digest of a range (R83). -/
def boundDigest (handle role off : Nat) (m : Bytes) : Nat :=
  gfMul (digest m) (luadexK ^^^ bindElem handle role off)

/-- The mixing function of R123. -/
def mix64 (x : Nat) : Nat :=
  let z0 := (x + 0x9E3779B97F4A7C15) % 2 ^ 64
  let z1 := ((z0 ^^^ (z0 / 2 ^ 30)) * 0xBF58476D1CE4E5B9) % 2 ^ 64
  let z2 := ((z1 ^^^ (z1 / 2 ^ 27)) * 0x94D049BB133111EB) % 2 ^ 64
  z2 ^^^ (z2 / 2 ^ 31)

/-- The random value r of stochastic rounding (R123): bits [15:0] of mix(c ⊕ i). -/
def srR (c i : Nat) : Nat := mix64 ((c ^^^ i) % 2 ^ 64) % 2 ^ 16

end Sys2Proof.Machine
end

