-- ==== Sys2Proof/Config.lean ====
section
/-! DEFINITION. What one part fixes, and the free values: constants without a body, so that no proof can see a value of one. -/

namespace Sys2Proof.Config

/-- The ordering code of the part: SL16-C where true, SL16-A where false (R1). -/
opaque isC : Bool

/-- The 64-bit device serial number (R567). -/
opaque serial : BitVec 64

/-- The 24 words of the device public key (R99, R108). -/
opaque pubKey : Nat → Word

/-- The ECDSA P-384 signature of a message by the device identity key, r then s (R99). -/
opaque sign : List Byte → BitVec 768

/-- A free value: `site` names the place that uses it, `n` is the count of free values taken before (log entry 3). -/
opaque free (site n : Nat) : BitVec 64

/-- The result of an approximate function on an S32 input, before its error bound is imposed (R181, log entry 8). -/
opaque sfu (op : Nat) (x : Word) : Word

/-- The contents of the two firmware copies as delivered (R552), as bytes. -/
opaque fwImage (copyB : Bool) : List Byte

/-- The fused minimum firmware version (R552). -/
opaque fuseVersion : BitVec 32

end Sys2Proof.Config
end

