-- ==== Sys2Proof/Machine/RegTable.lean ====
section
/-! DEFINITION. The management space (R564): one row per register of every register table, with its access, reset value and ranges. -/

namespace Sys2Proof.Machine

/-- How a register answers a write that has no command of its own (R6, R9, R576). -/
inductive RegKind where
  /-- No register: reads 0, ignores writes (R565). -/
  | unmapped
  /-- Read only: a write is ignored. -/
  | ro
  /-- A statistics counter with its overflow register's offset and bit: a write of 0 clears it (R9). -/
  | stat (ovf bit : Nat)
  /-- Write 1 to clear, over the bits of the mask. -/
  | w1c
  /-- Read and write, over the bits of the mask, checked against the ranges. -/
  | rw
  /-- A write starts an operation. -/
  | cmd
  deriving DecidableEq, Repr

/-- A field that a write must find in range: low bit, width, least and greatest value. -/
structure RegLim where
  lo : Nat
  len : Nat
  least : Nat
  most : Nat
  deriving DecidableEq, Repr

/-- What the tables say of one register. -/
structure RegRule where
  kind : RegKind
  reset : Nat
  mask : Nat
  lims : List RegLim
  deriving DecidableEq, Repr

/-- A row of a register table: `count` registers from `base`, `stride` bytes apart. -/
structure RegRow where
  base : Nat
  stride : Nat
  count : Nat
  rule : RegRule
  deriving DecidableEq, Repr

/-- No register. -/
def ruleNone : RegRule := ⟨.unmapped, 0, 0, []⟩

/-- A read-only register. -/
def ruleRo (reset : Nat) : RegRule := ⟨.ro, reset, 0xFFFFFFFF, []⟩

/-- A statistics counter. -/
def ruleStat (ovf bit : Nat) : RegRule := ⟨.stat ovf bit, 0, 0xFFFFFFFF, []⟩

/-- A w1c register. -/
def ruleW1c (mask : Nat) : RegRule := ⟨.w1c, 0, mask, []⟩

/-- A read-write register. -/
def ruleRw (reset mask : Nat) (lims : List RegLim) : RegRule := ⟨.rw, reset, mask, lims⟩

/-- A register whose write is a command. -/
def ruleCmd : RegRule := ⟨.cmd, 0, 0xFFFFFFFF, []⟩

/-- The row that names offset `o`. -/
def lookupRow : List RegRow → Nat → RegRule
  | [], _ => ruleNone
  | r :: rest, o =>
    if r.base ≤ o ∧ (o - r.base) % r.stride = 0 ∧ (o - r.base) / r.stride < r.count then r.rule
    else lookupRow rest o

/-- GLB: Table: GLB identity registers and Table: Bring-up registers (R567, R563). -/
def glbTable : List RegRow :=
  [⟨0x0000, 4, 1, ruleRo 0x00115116⟩, ⟨0x0008, 4, 2, ruleRo 0⟩, ⟨0x0010, 4, 1, ruleRo 0⟩,
   ⟨0x0020, 4, 1, ruleRo 0⟩, ⟨0x0024, 4, 1, ruleStat 0x28 0⟩, ⟨0x0028, 4, 1, ruleW1c 1⟩,
   ⟨0x0100, 4, 1, ruleRo 0⟩, ⟨0x0104, 4, 1, ruleRw 1 1 []⟩, ⟨0x0110, 4, 2, ruleCmd⟩, ⟨0x0118, 4, 1, ruleRo 0⟩,
   ⟨0x0200, 0x10, 2, ruleRw 1 0xFFFFFF [⟨0, 24, 1, 16777215⟩]⟩,
   ⟨0x0220, 0x10, 1, ruleRw 1000 0xFFFFFF [⟨0, 24, 1, 16777215⟩]⟩,
   ⟨0x0230, 0x10, 1, ruleRw 10000 0xFFFFFF [⟨0, 24, 1, 16777215⟩]⟩,
   ⟨0x0204, 0x10, 4, ruleRw 0 0xFFFFFF []⟩,
   ⟨0x0208, 0x10, 1, ruleRw (1024 * 1024) 0xFFFFFFFF [⟨10, 22, 1, 4194303⟩]⟩,
   ⟨0x0218, 0x10, 1, ruleRw (512 + 256 * 1024) 0xFFFFFFFF [⟨10, 22, 1, 4194303⟩]⟩,
   ⟨0x0228, 0x10, 1, ruleRw (10240 * 1024) 0xFFFFFFFF [⟨10, 22, 1, 4194303⟩]⟩,
   ⟨0x0238, 0x10, 1, ruleRw 1024 0xFFFFFFFF [⟨10, 22, 1, 4194303⟩]⟩,
   ⟨0x020C, 0x10, 4, ruleRo 0⟩,
   ⟨0x0240, 4, 1, ruleRw 0x258 0xFFFF [⟨0, 16, 10, 65535⟩]⟩, ⟨0x0244, 4, 1, ruleRo 0⟩,
   ⟨0x0248, 4, 1, ruleStat 0x24C 0⟩, ⟨0x024C, 4, 1, ruleW1c 1⟩,
   ⟨0x0250, 4, 1, ruleRw 0 0xFFFFFFFF [⟨0, 8, 0, 0⟩]⟩, ⟨0x0254, 4, 1, ruleRw 0 0xFFFFFFFF []⟩,
   ⟨0x0258, 4, 1, ruleRo 0⟩, ⟨0x0260, 4, 1, ruleRw 0x400 0xFFFFF1 [⟨8, 16, 1, 65535⟩]⟩]

/-- BEAT: Table: BEAT registers (R58). The beat unit holds BEAT_CTRL, BEAT_BASE and STAND_DELAY. -/
def beatTable : List RegRow :=
  [⟨0x00, 4, 1, ruleCmd⟩, ⟨0x04, 4, 6, ruleRo 0⟩, ⟨0x1C, 4, 1, ruleStat 0x1003C 3⟩, ⟨0x20, 4, 2, ruleCmd⟩,
   ⟨0x28, 4, 1, ruleRw 0x7D0 0xFFFF [⟨0, 16, 500, 20000⟩]⟩,
   ⟨0x30, 4, 1, ruleStat 0x1003C 0⟩, ⟨0x34, 4, 1, ruleStat 0x1003C 1⟩, ⟨0x38, 4, 1, ruleStat 0x1003C 2⟩,
   ⟨0x3C, 4, 1, ruleW1c 0xF⟩]

/-- The PTN page of partition `n` (R568, R381, R412, R478). -/
def ptnTable (n : Nat) : List RegRow :=
  let b := 0x20000 + 0x1000 * n
  [⟨0x000, 4, 1, ruleRo n⟩, ⟨0x010, 4, 1, ruleRo 0⟩, ⟨0x014, 4, 1, ruleStat (b + 0x18) 0⟩, ⟨0x018, 4, 1, ruleW1c 1⟩,
   ⟨0x040, 4, 1, ruleRw 0 0xFFFFFFFF [⟨0, 12, 0, 0⟩]⟩, ⟨0x044, 4, 1, ruleRw 0 0xFFFFFFFF []⟩,
   ⟨0x048, 4, 1, ruleRw 0 0xFFFFFFFF [⟨0, 12, 0, 0⟩]⟩, ⟨0x04C, 4, 1, ruleRw 0 0xFFFFFFFF []⟩,
   ⟨0x050, 4, 2, ruleRw 0 0xFFFFFFFF []⟩,
   ⟨0x100, 4, 1, ruleRw 0 0xFFF []⟩, ⟨0x104, 4, 2, ruleCmd⟩,
   ⟨0x110, 4, 1, ruleRw 0x400 0xFFFF [⟨0, 16, 1, 65535⟩]⟩, ⟨0x118, 4, 1, ruleStat (b + 0x120) 0⟩, ⟨0x120, 4, 1, ruleW1c 1⟩,
   ⟨0x300, 4, 1, ruleRw 0x40 0xFFFF [⟨0, 16, 1, 65535⟩]⟩, ⟨0x304, 4, 1, ruleRw 0x400 0xFFFF []⟩,
   ⟨0x308, 4, 1, ruleRw 0x3E8 0xFFFFFF [⟨0, 24, 1, 16777215⟩]⟩,
   ⟨0x30C, 4, 1, ruleRw 0x64 0x3FFF [⟨0, 14, 1, 10000⟩]⟩,
   ⟨0x310, 4, 1, ruleRw 0 0xFFFFFFFF [⟨0, 12, 0, 0⟩]⟩, ⟨0x314, 4, 1, ruleRw 0 0xFFFFFFFF []⟩,
   ⟨0x318, 4, 1, ruleRw 0 0x7F [⟨0, 7, 0, 64⟩]⟩, ⟨0x31C, 4, 1, ruleRw 0xC080 0xFFFF []⟩,
   ⟨0x320, 4, 1, ruleStat (b + 0x330) 0⟩, ⟨0x324, 4, 1, ruleStat (b + 0x330) 1⟩,
   ⟨0x328, 4, 1, ruleStat (b + 0x330) 2⟩, ⟨0x32C, 4, 1, ruleStat (b + 0x330) 3⟩, ⟨0x330, 4, 1, ruleW1c 0xF⟩,
   ⟨0x340, 4, 1, ruleRw 0 0xFF []⟩, ⟨0x344, 4, 5, ruleCmd⟩,
   ⟨0x400, 4, 1, ruleRw 0x104 0x3FFFF0F [⟨2, 2, 0, 2⟩, ⟨8, 8, 1, 255⟩]⟩,
   ⟨0x404, 4, 1, ruleRw 0 0xFFFF0FFF [⟨16, 16, 1, 256⟩]⟩, ⟨0x408, 4, 1, ruleRw 0 0xFFFFFFFF []⟩,
   ⟨0x40C, 4, 1, ruleRw 0 0x0FFF0FFF []⟩, ⟨0x410, 4, 1, ruleRw 0 0xFFF []⟩,
   ⟨0x414, 4, 1, ruleRw 0x200 0x3FF [⟨0, 10, 1, 512⟩]⟩, ⟨0x418, 4, 1, ruleRw 0x10 0x1FFF [⟨0, 13, 1, 4096⟩]⟩,
   ⟨0x41C, 4, 1, ruleRw 0x200 0x1FFF [⟨0, 13, 1, 4096⟩]⟩, ⟨0x420, 4, 1, ruleRw 0 0xFFFFFFFF []⟩,
   ⟨0x424, 4, 1, ruleRw 0xFFFFFFFF 0xFFFFFFFF []⟩, ⟨0x428, 4, 1, ruleRw 0x40 0xFFFF [⟨0, 16, 1, 65535⟩]⟩,
   ⟨0x42C, 4, 2, ruleRo 0⟩, ⟨0x438, 4, 2, ruleRo 0⟩, ⟨0x500, 4, 2, ruleRo 0⟩]

/-- A ring slot with submission fields (R350). -/
def slotTable : List RegRow :=
  [⟨0x00, 4, 1, ruleRw 0 0xFFFFFFFF [⟨0, 12, 0, 0⟩]⟩, ⟨0x04, 4, 1, ruleRw 0 0xFFFFFFFF []⟩,
   ⟨0x08, 4, 1, ruleRw 4 0xF11F [⟨0, 5, 4, 16⟩, ⟨12, 4, 0, 4⟩]⟩,
   ⟨0x10, 4, 1, ruleRw 0 0xFFFFFFFF [⟨0, 4, 0, 0⟩]⟩, ⟨0x14, 4, 1, ruleRw 0 0xFFFFFFFF []⟩,
   ⟨0x18, 4, 1, ruleRw 0 0xFFFFFFFF [⟨0, 4, 0, 0⟩]⟩, ⟨0x1C, 4, 1, ruleRw 0 0xFFFFFFFF []⟩,
   ⟨0x38, 4, 1, ruleRo 0⟩]

/-- The device-produced fields of a ring slot; `maxN` is the greatest size exponent of the ring (R318, R350). -/
def drTable (maxN : Nat) : List RegRow :=
  [⟨0x20, 4, 1, ruleRw 0 0xFFFFFFFF [⟨0, 12, 0, 0⟩]⟩, ⟨0x24, 4, 1, ruleRw 0 0xFFFFFFFF []⟩,
   ⟨0x28, 4, 1, ruleRw 4 0x7FF031F [⟨0, 5, 4, maxN⟩]⟩, ⟨0x2C, 4, 1, ruleRw 1 0xFFFFFF []⟩,
   ⟨0x30, 4, 1, ruleRw 0 0xFFFFFFFF [⟨0, 4, 0, 0⟩]⟩, ⟨0x34, 4, 1, ruleRw 0 0xFFFFFFFF []⟩,
   ⟨0x3C, 4, 1, ruleRo 0⟩]

/-- The greatest size exponent of the ring of a slot: completion and receipt rings 16, the others 12 (R318). -/
def slotMaxN (slot : Nat) : Nat := if slot ≤ 16 then 16 else 12

/-- The QUE page of partition `p` (R350, R351). -/
def queRule (p o : Nat) : RegRule :=
  let b := 0x40000 + 0x1000 * p
  let slot := o / 0x80
  if slot < 16 then lookupRow (slotTable ++ drTable 16) (o % 0x80)
  else if slot < 19 then lookupRow (drTable (slotMaxN slot)) (o % 0x80)
  else lookupRow
    [⟨0xF00, 4, 1, ruleRw 0 0x3FF []⟩, ⟨0xF04, 4, 1, ruleRo 0⟩, ⟨0xF08, 4, 1, ruleStat (b + 0xF10) 0⟩,
     ⟨0xF0C, 4, 1, ruleStat (b + 0xF10) 1⟩, ⟨0xF10, 4, 1, ruleW1c 3⟩] o

/-- The PF event ring's page (R350). -/
def pfQueRule (o : Nat) : RegRule :=
  lookupRow (drTable 12 ++
    [⟨0xF08, 4, 1, ruleStat 0x50F10 0⟩, ⟨0xF0C, 4, 1, ruleStat 0x50F10 1⟩, ⟨0xF10, 4, 1, ruleW1c 3⟩]) o

/-- A BUF page (R353): BUF_SEL, BUF_STAGE and BUF_RESULT are held for each path. -/
def bufTable : List RegRow :=
  [⟨0x000, 4, 1, ruleRw 0 0xFFF []⟩, ⟨0x004, 4, 1, ruleCmd⟩, ⟨0x008, 4, 1, ruleRo 0⟩,
   ⟨0x010, 4, 8, ruleRw 0 0xFFFFFFFF []⟩, ⟨0x040, 4, 1, ruleRo 0⟩]

/-- CHK: Table: CHK registers and Table: Sealed-region registers (R108, R307). -/
def chkTable : List RegRow :=
  [⟨0x0000, 4, 1, ruleRw 0xA 0x1F []⟩, ⟨0x0004, 4, 1, ruleRw 0x100 0xFFFF []⟩, ⟨0x0010, 4, 4, ruleRo 0⟩,
   ⟨0x0020, 4, 1, ruleStat 0x8003C 0⟩, ⟨0x0024, 4, 1, ruleStat 0x8003C 1⟩, ⟨0x0028, 4, 1, ruleStat 0x8003C 2⟩,
   ⟨0x002C, 4, 1, ruleStat 0x8003C 3⟩, ⟨0x0030, 4, 1, ruleStat 0x8003C 4⟩, ⟨0x0034, 4, 1, ruleStat 0x8003C 5⟩,
   ⟨0x0038, 4, 1, ruleStat 0x8003C 6⟩, ⟨0x003C, 4, 1, ruleW1c 0x7F⟩, ⟨0x0100, 4, 24, ruleRo 0⟩,
   ⟨0x1000, 0x40, 16, ruleRw 0 0xFFFFFFFF [⟨0, 12, 0, 0⟩]⟩, ⟨0x1004, 0x40, 16, ruleRw 0 0xFFFFFFFF []⟩,
   ⟨0x1008, 0x40, 16, ruleRw 4 0xF [⟨0, 4, 4, 12⟩]⟩, ⟨0x100C, 0x40, 16, ruleRw 0 0x7FF0003 []⟩,
   ⟨0x1010, 0x40, 16, ruleRo 1⟩, ⟨0x1014, 0x40, 16, ruleRo 0⟩, ⟨0x1018, 0x40, 16, ruleRo 1⟩, ⟨0x101C, 0x40, 16, ruleRo 0⟩,
   ⟨0x1020, 0x40, 16, ruleRw 0 0xFFFFFFFF [⟨0, 4, 0, 0⟩]⟩, ⟨0x1024, 0x40, 16, ruleRw 0 0xFFFFFFFF []⟩,
   ⟨0x1028, 0x40, 16, ruleRw 1 0xFFFFFF []⟩, ⟨0x102C, 0x40, 16, ruleRo 0⟩,
   ⟨0x2000, 0x40, 64, ruleRw 0 0xFFFFFFFF [⟨0, 12, 0, 0⟩]⟩, ⟨0x2004, 0x40, 64, ruleRw 0 0xFFFFFFFF []⟩,
   ⟨0x2008, 0x40, 64, ruleRw 0 0x3FFFFFF []⟩, ⟨0x2010, 0x40, 64, ruleRw 0 0xFFFFFFFF [⟨0, 7, 0, 0⟩]⟩,
   ⟨0x2014, 0x40, 64, ruleRw 0 0xFFFFFFFF []⟩, ⟨0x2018, 0x40, 64, ruleRw 0 0xFFFFFFFF [⟨0, 12, 0, 0⟩]⟩,
   ⟨0x201C, 0x40, 64, ruleRw 0 0xFFFFFFFF []⟩, ⟨0x2020, 0x40, 64, ruleCmd⟩, ⟨0x2024, 0x40, 64, ruleRo 0⟩,
   ⟨0x2028, 0x40, 64, ruleRo 0⟩]

/-- The rows of die `d` in Table: MEM registers. -/
def memDieTable (d : Nat) : List RegRow :=
  let b := 0x0100 + 0x40 * d
  let ovf := 0xA0000 + b + 0x2C
  [⟨b, 4, 1, ruleRo 0⟩, ⟨b + 0x08, 4, 3, ruleRo 0⟩, ⟨b + 0x14, 4, 1, ruleStat ovf 0⟩, ⟨b + 0x18, 4, 1, ruleRo 0x2000⟩,
   ⟨b + 0x20, 4, 1, ruleStat ovf 1⟩, ⟨b + 0x24, 4, 1, ruleStat ovf 2⟩, ⟨b + 0x28, 4, 1, ruleStat ovf 3⟩,
   ⟨b + 0x2C, 4, 1, ruleW1c 0xF⟩]

/-- MEM: Table: MEM registers (R306). -/
def memTable : List RegRow :=
  [⟨0x0000, 4, 1, ruleRw 1 1 []⟩, ⟨0x0004, 4, 1, ruleRw 0x5A0 0x3FFF [⟨0, 14, 120, 10080⟩]⟩,
   ⟨0x0008, 4, 1, ruleRw 0x3C 0x7FF [⟨0, 11, 10, 1440⟩]⟩, ⟨0x000C, 4, 1, ruleRw 8 0xFF [⟨0, 8, 1, 255⟩]⟩,
   ⟨0x0010, 4, 2, ruleRo 0⟩] ++ memDieTable 0 ++ memDieTable 1 ++ memDieTable 2 ++ memDieTable 3

/-- CCH: Table: CCH registers (R273). -/
def cchTable : List RegRow :=
  [⟨0x0000, 4, 1, ruleCmd⟩, ⟨0x0004, 4, 1, ruleRw 0x14 0x3FF [⟨0, 10, 2, 1000⟩]⟩,
   ⟨0x0010, 4, 16, ruleRw 2 0x1F [⟨0, 5, 2, 16⟩]⟩, ⟨0x0050, 4, 1, ruleStat 0xC005C 0⟩, ⟨0x0054, 4, 1, ruleStat 0xC005C 1⟩,
   ⟨0x0058, 4, 1, ruleStat 0xC005C 2⟩, ⟨0x005C, 4, 1, ruleW1c 7⟩, ⟨0x0060, 4, 4, ruleRo 0xB00⟩]

/-- HKL: Table: HKL registers (R447). -/
def hklTable : List RegRow :=
  [⟨0x0000, 4, 1, ruleRw 0 0x1030303 []⟩, ⟨0x0004, 4, 1, ruleRw 0 1 []⟩, ⟨0x0008, 4, 1, ruleRw 0 0x73F []⟩,
   ⟨0x000C, 4, 1, ruleRo 0⟩, ⟨0x0010, 4, 1, ruleCmd⟩, ⟨0x0014, 4, 1, ruleRo 0⟩,
   ⟨0x0018, 4, 1, ruleRw 4 0xFF [⟨0, 8, 1, 255⟩]⟩, ⟨0x001C, 4, 1, ruleRw 0x10 0xFF [⟨0, 8, 1, 255⟩]⟩,
   ⟨0x0020, 4, 1, ruleStat 0xE0028 0⟩, ⟨0x0024, 4, 1, ruleStat 0xE0028 1⟩, ⟨0x0028, 4, 1, ruleW1c 3⟩,
   ⟨0x0100, 0x20, 6, ruleRw 1 1 []⟩, ⟨0x0104, 0x20, 6, ruleRo 0⟩, ⟨0x0108, 0x20, 6, ruleRo 0⟩,
   ⟨0x010C, 0x20, 6, ruleStat 0 0⟩,
   ⟨0x0110, 0x20, 6, ruleRw 0x11111111 0xFFFFFFFF ((List.range 8).map (fun i => ⟨4 * i, 4, 1, 15⟩))⟩,
   ⟨0x0114, 0x20, 6, ruleRw 0x11111111 0xFFFFFFFF ((List.range 8).map (fun i => ⟨4 * i, 4, 1, 15⟩))⟩,
   ⟨0x1000, 4, 1, ruleRw 0 0x1FF []⟩, ⟨0x1004, 4, 1, ruleRw 0 0xFFFFFFFF []⟩, ⟨0x1008, 4, 1, ruleRw 0 0x1FF3FFF []⟩,
   ⟨0x100C, 4, 1, ruleRw 0 0xFFFF []⟩, ⟨0x1010, 4, 1, ruleRw 0 0xFF []⟩, ⟨0x1014, 4, 1, ruleRw 0 0x3FF []⟩,
   ⟨0x1018, 4, 1, ruleCmd⟩, ⟨0x101C, 4, 1, ruleRo 0⟩, ⟨0x4000, 4, 256, ruleRw 0 0xFF03 []⟩]

/-- LYR: Table: LYR registers. -/
def lyrTable : List RegRow :=
  [⟨0x0000, 4, 2, ruleRo 0⟩, ⟨0x0010, 4, 1, ruleStat 0x100024 0⟩, ⟨0x0014, 4, 1, ruleStat 0x100024 1⟩,
   ⟨0x0020, 4, 1, ruleStat 0x100024 2⟩, ⟨0x0024, 4, 1, ruleW1c 7⟩]

/-- The reset values of K_MAC_0 to K_MAC_7 and the seven coefficients after them (Table: Model coefficients). -/
def kReset : List Nat :=
  [200, 220, 330, 300, 350, 350, 700, 700, 40000, 4000, 12000, 200000, 10240000, 60000, 80000]

/-- PWR: Table: PWR registers (R493). -/
def pwrTable : List RegRow :=
  [⟨0x0000, 4, 1, ruleCmd⟩, ⟨0x0004, 4, 1, ruleRw 0 3 []⟩, ⟨0x0008, 4, 1, ruleRo 0⟩, ⟨0x000C, 4, 1, ruleCmd⟩,
   ⟨0x0010, 4, 4, ruleRo 0⟩, ⟨0x0020, 4, 1, ruleCmd⟩, ⟨0x0024, 4, 1, ruleRw 0x32 0xFFFF [⟨0, 16, 1, 65535⟩]⟩,
   ⟨0x0028, 4, 1, ruleRw 0x64 0x3FFF [⟨0, 14, 1, 10000⟩]⟩, ⟨0x002C, 4, 1, ruleRw 0x3E8 0x3FFF [⟨0, 14, 1, 10000⟩]⟩,
   ⟨0x0030, 4, 1, ruleRw 5 0xF [⟨0, 4, 3, 10⟩]⟩, ⟨0x0034, 4, 1, ruleRw 0x64 0xFF [⟨0, 8, 80, 105⟩]⟩,
   ⟨0x0040, 4, 16, ruleRw 0 0x7FF []⟩, ⟨0x0080, 4, 16, ruleRo 0x10⟩, ⟨0x0100, 4, 8, ruleCmd⟩, ⟨0x0120, 4, 7, ruleCmd⟩,
   ⟨0x0140, 4, 1, ruleRo 0⟩, ⟨0x0144, 4, 2, ruleRo 0x10000⟩, ⟨0x0200, 4, 36, ruleRo 0⟩] ++
  ((List.range 18).map (fun i => ⟨0x300 + 4 * i, 4, 1, ruleStat 0x120414 i⟩)) ++
  ((List.range 4).map (fun i => ⟨0x400 + 4 * i, 4, 1, ruleStat 0x120410 i⟩)) ++
  [⟨0x0410, 4, 1, ruleW1c 0xF⟩, ⟨0x0414, 4, 1, ruleW1c 0x3FFFF⟩]

/-- SVC: Table: SVC registers (R548). -/
def svcTable : List RegRow :=
  [⟨0x0000, 4, 1, ruleRw 0x10 0xF3 []⟩, ⟨0x0004, 4, 1, ruleRo 0⟩, ⟨0x0008, 4, 1, ruleW1c 1⟩,
   ⟨0x000C, 4, 1, ruleStat 0x140014 0⟩, ⟨0x0010, 4, 1, ruleStat 0x140014 1⟩, ⟨0x0014, 4, 1, ruleW1c 3⟩,
   ⟨0x0020, 4, 1, ruleCmd⟩, ⟨0x0024, 4, 1, ruleRo 0⟩, ⟨0x0040, 4, 16, ruleRo 0⟩, ⟨0x0100, 4, 1, ruleRw 1 1 []⟩,
   ⟨0x0104, 4, 1, ruleRw 0xA 0x3FF [⟨0, 10, 5, 1000⟩]⟩, ⟨0x0108, 4, 1, ruleCmd⟩, ⟨0x010C, 4, 1, ruleRo 0⟩,
   ⟨0x0110, 4, 1, ruleStat 0x140118 0⟩, ⟨0x0114, 4, 1, ruleStat 0x140118 1⟩, ⟨0x0118, 4, 1, ruleW1c 3⟩,
   ⟨0x0200, 0x10, 12, ruleRw 0 0xFFFF1FFF []⟩, ⟨0x0204, 0x10, 12, ruleRw 0 0xFFFF []⟩,
   ⟨0x0208, 0x10, 12, ruleRo 0⟩, ⟨0x020C, 0x10, 12, ruleRo 0⟩,
   ⟨0x0400, 4, 18, ruleRw 0x40000 0x7F1FF [⟨0, 9, 0, 256⟩, ⟨12, 4, 0, 12⟩, ⟨16, 2, 0, 2⟩]⟩,
   ⟨0x0480, 4, 1, ruleRo 0xFFFFFFFF⟩, ⟨0x0484, 4, 1, ruleRo 0xF⟩, ⟨0x0488, 4, 1, ruleRw 1 1 []⟩]

/-- The shipped core-map word of local tile `l` (R20): spares S0 to S3 at local tiles 14, 15, 20 and 21. -/
def coreMapShipped (l : Nat) : Nat :=
  if l = 14 then 1 else if l = 15 then 1 + 8 else if l = 20 then 1 + 16 else if l = 21 then 1 + 24
  else 8 * (l - (if l > 21 then 4 else if l > 20 then 3 else if l > 15 then 2 else if l > 14 then 1 else 0))

/-- The local tile index of tile `i` (0 to 143) of a die (R18). -/
def localOf (i : Nat) : Nat := 6 * (i / 12 % 6) + i % 12 % 6

/-- FLT: Table: Fabric registers and Table: Fault registers (R242, R523). -/
def fltRule (o : Nat) : RegRule :=
  if 0x1000 ≤ o ∧ o < 0x1000 + 8 * 576 then
    if o % 8 = 0 then ⟨.cmd, coreMapShipped (localOf ((o - 0x1000) / 8 % 144)), 0xFF, []⟩ else ⟨.cmd, 0, 0xFFFFFFFF, []⟩
  else if 0x4000 ≤ o ∧ o < 0x4000 + 8 * 576 then ruleRo 0
  else if 0x6000 ≤ o ∧ o < 0x6000 + 4 * 576 then ruleRo 0
  else lookupRow
    [⟨0x0000, 4, 1, ruleRw 0x103 0x10F [⟨0, 4, 1, 15⟩]⟩, ⟨0x0004, 4, 1, ruleStat 0x160008 0⟩, ⟨0x0008, 4, 1, ruleW1c 1⟩,
     ⟨0x000C, 4, 1, ruleRw 0x3E8 0xFFFF [⟨0, 16, 16, 65535⟩]⟩, ⟨0x0010, 4, 2, ruleCmd⟩, ⟨0x0018, 4, 1, ruleRo 0⟩,
     ⟨0x001C, 4, 1, ruleW1c 3⟩, ⟨0x0100, 4, 1, ruleRw 1 1 []⟩, ⟨0x0104, 4, 1, ruleRw 0x54600 0xFFFFFFFF [⟨0, 32, 1, 0xFFFFFFFF⟩]⟩,
     ⟨0x0108, 4, 1, ruleStat 0 0⟩, ⟨0x0200, 4, 4, ruleRo 0⟩, ⟨0x0300, 8, 16, ruleRo 0x2000⟩, ⟨0x0304, 8, 16, ruleRo 0⟩,
     ⟨0x0380, 4, 16, ruleRo 0⟩, ⟨0x0800, 8, 64, ruleCmd⟩, ⟨0x0804, 8, 64, ruleCmd⟩, ⟨0x0A00, 4, 64, ruleRw 0 0x13F []⟩] o

/-- What the register tables say of management offset `off` (R564, R565). -/
def regRule (off : Nat) : RegRule :=
  if off % 4 ≠ 0 then ruleNone
  else if off < 0x10000 then lookupRow glbTable off
  else if off < 0x20000 then lookupRow beatTable (off - 0x10000)
  else if off < 0x30000 then lookupRow (ptnTable ((off - 0x20000) / 0x1000)) (off % 0x1000)
  else if off < 0x40000 then ruleNone
  else if off < 0x50000 then queRule ((off - 0x40000) / 0x1000) (off % 0x1000)
  else if off < 0x51000 then pfQueRule (off - 0x50000)
  else if off < 0x60000 then ruleNone
  else if off < 0x80000 then (if off % 0x2000 < 0x1000 then lookupRow bufTable (off % 0x2000) else ruleNone)
  else if off < 0xA0000 then (if off < 0x90000 then lookupRow chkTable (off - 0x80000) else ruleNone)
  else if off < 0xC0000 then (if off < 0xB0000 then lookupRow memTable (off - 0xA0000) else ruleNone)
  else if off < 0xE0000 then (if off < 0xD0000 then lookupRow cchTable (off - 0xC0000) else ruleNone)
  else if off < 0x100000 then (if off < 0xF0000 then lookupRow hklTable (off - 0xE0000) else ruleNone)
  else if off < 0x120000 then (if off < 0x110000 then lookupRow lyrTable (off - 0x100000) else ruleNone)
  else if off < 0x140000 then (if off < 0x130000 then lookupRow pwrTable (off - 0x120000) else ruleNone)
  else if off < 0x160000 then (if off < 0x150000 then lookupRow svcTable (off - 0x140000) else ruleNone)
  else if off < 0x170000 then fltRule (off - 0x160000)
  else ruleNone

/-- The package power maximum in W (R1). -/
def maxCap : Nat := if Config.isC then 1100 else 1600

/-- The reset value of a register (R580); a key of 2²⁴ or more is a copy held for another path, whose reset is its register's. -/
def regReset (key : Nat) : Word :=
  let off := key % 2 ^ 24
  if off = 0x120020 then BitVec.ofNat 32 maxCap
  else if 0x120100 ≤ off ∧ off < 0x120120 then BitVec.ofNat 32 (kReset.getD ((off - 0x120100) / 4) 0)
  else if 0x120120 ≤ off ∧ off < 0x12013C then BitVec.ofNat 32 (kReset.getD (8 + (off - 0x120120) / 4) 0)
  else BitVec.ofNat 32 (regRule off).reset

end Sys2Proof.Machine
end

