-- ==== Sys2Proof/Machine/Sparse.lean ====
section
/-! DEFINITION. A keyed store in one canonical form: keys strictly rising, and no entry equal to what an unlisted key reads as. -/

namespace Sys2Proof.Machine

/-- Keys and values, keys strictly rising. -/
abbrev Sparse (α : Type) := List (Nat × α)

/-- What key `k` reads as: its entry, or the default `d k`. -/
def Sparse.get {α : Type} (d : Nat → α) : Sparse α → Nat → α
  | [], k => d k
  | (k', v) :: r, k => if k = k' then v else Sparse.get d r k

/-- The store without any entry for `k`. -/
def Sparse.drop {α : Type} : Sparse α → Nat → Sparse α
  | [], _ => []
  | (k', v) :: r, k => if k = k' then Sparse.drop r k else (k', v) :: Sparse.drop r k

/-- The store with the entry (k, v) in its place, replacing an earlier one. -/
def Sparse.ins {α : Type} : Sparse α → Nat → α → Sparse α
  | [], k, v => [(k, v)]
  | (k', v') :: r, k, v =>
    if k < k' then (k, v) :: (k', v') :: r
    else if k = k' then (k, v) :: r
    else (k', v') :: Sparse.ins r k v

/-- Write `v` at `k`, keeping the canonical form: writing the default removes the entry. -/
def Sparse.put {α : Type} [DecidableEq α] (d : Nat → α) (m : Sparse α) (k : Nat) (v : α) : Sparse α :=
  if v = d k then Sparse.drop m k else Sparse.ins m k v

/-- Every key of the store is above `n`. -/
def Sparse.above {α : Type} (n : Nat) (m : Sparse α) : Bool := m.all (fun e => n < e.1)

/-- The canonical form: keys strictly rising, no entry equal to the default. -/
def Sparse.wf {α : Type} [DecidableEq α] (d : Nat → α) : Sparse α → Bool
  | [] => true
  | (k, v) :: r => Sparse.above k r && decide (v ≠ d k) && Sparse.wf d r

end Sys2Proof.Machine
end

