-- ==== Sys2Proof/Machine/State.lean ====
section
/-! DEFINITION. The state of the block: every register, queue, buffer, counter, mode and pin of the spec, as plain data. -/

namespace Sys2Proof.Machine

/-! ### Beats (spec 02) -/

/-- BEAT_STATUS.STATE (R58). -/
inductive BeatSt where
  | unlocked
  | locked
  | holdover
  | off
  deriving DecidableEq, Repr

/-- The role of the package in its stand (R28, R30). -/
inductive Role where
  | alone
  | lead
  | member
  deriving DecidableEq, Repr

/-- What leaves on a link: a control symbol on a port, or a message towards a package (R418, R420). -/
inductive LinkOut where
  | sym (port : Nat) (bytes : Bytes)
  | msg (dest : Nat) (m : Msg)
  | note (port : Nat) (bytes : Bytes)
  deriving DecidableEq, Repr

/-- The acceptance window around a predicted boundary T, with the P it was opened under, in 1/16 tick (R40). -/
structure Win where
  t16 : Nat
  p16 : Nat
  /-- An edge has been accepted in the window. -/
  acc : Bool
  deriving DecidableEq, Repr

/-- A boundary decided and not yet fired: the tick it fires at, the phase reference of its notches in 1/16 tick, and
whether an accepted edge confirms it (R48, R53). -/
structure Fire where
  tick : Nat
  ph16 : Nat
  conf : Bool
  deriving DecidableEq, Repr

/-- A learning run: the first interval, how many intervals it holds and their sum (R37). -/
structure Learn where
  first : Nat
  cnt : Nat
  sum : Nat
  deriving DecidableEq, Repr

/-- The beat unit (R34 to R62). Times are ticks of the beat timebase; fields ending in 16 are in 1/16 tick. -/
structure BeatUnit where
  powered : Bool
  en : Bool
  srcSel : BitVec 2
  outEn : Bool
  outSyn : Bool
  base : BitVec 64
  st : BeatSt
  silent : Bool
  conflict : Bool
  /-- The source in effect, as SRC codes it (R62). -/
  src : BitVec 2
  pendSrc : Option (BitVec 2)
  role : Role
  hops : Nat
  port : Fin 6
  /-- Hop count of the last symbol of each port (R50). -/
  portHops : Sparse Nat
  p16 : Nat
  b16 : Nat
  /-- The phase reference of the notches of the beat now counted (R46, R48). -/
  n16 : Nat
  anom : Nat
  miss : Nat
  /-- The synthesis run: its first beat and its length in full (R42, R44). -/
  run : Option (Nat × Nat)
  num : Nat
  notch : Nat
  /-- Boundaries are counted: one has occurred since EN was set. -/
  counted : Bool
  /-- The unit has locked since its number was last cleared, and on a member a beat-sync message has given the number: launch
  points are compared with it (R39, R54, R60, Where things meet of the beat chapter). -/
  ever : Bool
  lastEdge : Option Nat
  learn : Option Learn
  curEdge : Option Nat
  prevEdge : Option Nat
  win : Option Win
  extraBeat : Bool
  extraPrev : Bool
  lastAcc : Nat
  enAt : Nat
  noLockSaid : Bool
  fires : List Fire
  fired : Option Fire
  /-- BEAT_OUT is high since this tick (R53). -/
  out : Option Nat
  /-- Beats since the last late distribution (R51). -/
  lateQuiet : Nat
  /-- A higher number to take at the next boundary (R52). -/
  skipTo : Option Nat
  /-- The lead's count while notch 1023 is held (R52). -/
  holdAt : Option Nat
  /-- D to take from the next boundary on (R51, Where things meet). -/
  nextDelay : Option Nat
  /-- D in ns as the lead sent it, for a member (R48). -/
  delay : Nat
  /-- Compensated arrivals of symbols that stand for edges, oldest first (R50). -/
  comp : List Nat
  deriving DecidableEq, Repr

/-! ### Events and rings (spec 11) -/

/-- The holding queue of an event ring (R343). -/
structure EvQ where
  q : List Bytes
  /-- Events waiting in the units that raised them. -/
  src : List Bytes
  lost : Nat
  lostBeat : Nat
  lostNotch : Nat
  deriving DecidableEq, Repr

/-- An entry that waits for its device-produced ring: its bytes, the command whose completion it is, and INTR (R339, R340). -/
structure RingEnt where
  bytes : Bytes
  cid : Option Nat
  intr : Bool
  deriving DecidableEq, Repr

/-- A device-produced ring (R338 to R340). Its addresses and configuration stand in its registers. -/
structure DRing where
  prod : Nat
  phase : Bool
  cons : Nat
  err : Bool
  lastSeq : Word
  /-- A torn record is read again at the next notch (R321). -/
  torn : Bool
  /-- The record read failed once and is retried at the next scan (R345). -/
  retry : Bool
  reading : Bool
  /-- The EN write that waits for its record read (R322): path code, register offset, value. -/
  enPend : Option (Nat × Nat × Word)
  unsig : Nat
  since : Option Nat
  wait : List RingEnt
  deriving DecidableEq, Repr

/-- A submission ring (R318 to R329). -/
structure SRing where
  cons : Nat
  prod : Nat
  err : Bool
  lastSeq : Word
  torn : Bool
  retry : Bool
  reading : Bool
  enPend : Option (Nat × Nat × Word)
  fetched : Nat
  shown : Nat
  /-- The fetch record was written in this notch (R325). -/
  shownNow : Bool
  /-- Fetch reads in flight, oldest first: first index and count (R329). -/
  inFetch : List (Nat × Nat)
  overload : Bool
  deriving DecidableEq, Repr

/-- A posted write to host memory: requester function (0 the PF, k a VF), address, bytes (R312, R571). -/
structure HostWr where
  fn : Nat
  addr : Nat
  data : Bytes
  deriving DecidableEq, Repr

/-- The wake state of a function (R326). -/
structure WakeSt where
  asked : Bool
  scanning : Bool
  again : Bool
  deriving DecidableEq, Repr

/-- A buffer-table entry (R346). -/
structure BufEnt where
  base : Nat
  len : Nat
  valid : Bool
  ro : Bool
  sealed : Bool
  narrow : Bool
  near : Bool
  deriving DecidableEq, Repr

/-! ### Commands in flight (spec 03, 12, 13) -/

/-- Where a command stands (R374, R383, R392, R398). -/
inductive Phase where
  /-- Fetched and validated; waits in its intake. -/
  | waiting
  /-- Granted: its intake pass is in progress. -/
  | granted
  /-- Its inputs are digested: its opcode starts next. -/
  | loaded
  /-- Its execution is in progress. -/
  | running
  /-- A pre-emption request stands: its groups park at their next YIELD. -/
  | parking
  | saving
  | saved
  | restoring
  /-- Execution has ended; streams close and the digest pass runs (steps 1 to 4 of R374). -/
  | digest
  /-- At its commit point: the receipt is queued (steps 5 and 6). -/
  | receipt
  /-- Its completion waits to be written. -/
  | completion
  /-- Being felled: cores not yet free. -/
  | felling
  /-- Felled: the memory requests outstanding are not yet all answered. -/
  | draining
  deriving DecidableEq, Repr

/-- What a command is given by (R84, R369, R402). -/
inductive CmdKind where
  | descriptor
  | entry (parent : Nat) (k : Nat)
  | step (k : Nat)
  deriving DecidableEq, Repr

/-- A range that a command reads or writes: handle, role, offset in its buffer, length, address (R83, R337). -/
structure Range where
  handle : Nat
  role : Nat
  off : Nat
  len : Nat
  addr : Nat
  deriving DecidableEq, Repr

/-- What becomes of a command once its felling ends (R75, R270, R378, R399). -/
inductive FellEnd where
  | requeue
  | complete (status detail : Nat)
  deriving DecidableEq, Repr

/-- The check results a command gathers (R64 to R72, R88). -/
structure Checks where
  cover : Nat
  absent : Nat
  ord : Bool
  bnd : Bool
  sig : Bool
  zero : Bool
  corrected : Nat
  shadows : Nat
  shadowPend : Nat
  cores : Nat
  spares : Nat
  deriving DecidableEq, Repr

/-- The run of a kernel (R165, R374, R392): grid, blocks dispatched and retired. -/
structure KRun where
  total : Nat
  next : Nat
  retired : Nat
  regs : Nat
  groups : Nat
  lmem : Nat
  cfg : Nat
  accN : Nat
  code : Nat
  codeLen : Nat
  entry : Nat
  args : Nat
  /-- The image declares itself order-sensitive (R72, R363). -/
  ord : Bool
  deriving DecidableEq, Repr

/-- One command in flight. -/
structure Cmd where
  cid : Nat
  part : Nat
  ring : Nat
  idx : Nat
  kind : CmdKind
  /-- The 64-byte descriptor: the command's own, or its entry's fields laid out as one. -/
  desc : Bytes
  /-- The encoding that its command digest covers (R84). -/
  enc : Bytes
  eng : Nat
  ph : Phase
  ins : List Range
  outs : List Range
  handles : List Nat
  /-- First eligibility: beat, notch, fabric cycle (R383, R384). -/
  elig : Option (Nat × Nat × Nat)
  /-- It has been ready, so that whether it is late is decided (R55). -/
  ready : Bool
  late : Bool
  /-- Granted at least once (R388, R377). -/
  launched : Bool
  /-- Order of grants among running kernels (R391). -/
  grant : Nat
  attempt : Nat
  retries : Nat
  excl : List Nat
  cores : List Nat
  /-- How many cores the kernel held when it was saved (R390). -/
  savedCores : Nat
  slots : List Nat
  fellEnd : FellEnd
  chk : Checks
  inDig : Nat
  outDig : Nat
  /-- The unbound digest of a COPY's source, which the CPY check compares (R63). -/
  srcDig : Nat
  run : KRun
  /-- Progress position (R376), and notches or free ticks since the last record. -/
  pos : Nat
  progN : Nat
  /-- A RUN_LIST's current entry, and the status, detail and byte 3 a stopped list completes with (R369, R370). -/
  entryK : Nat
  entryLive : Bool
  stop : Option (Nat × Nat × Nat)
  /-- Completion status, detail and byte 3 once known. -/
  status : Nat
  detail : Nat
  byte3 : Nat
  rcpt : Option Bytes
  rcptIdx : Nat
  /-- The command that cancels this one, whose completion follows this one's (R379). -/
  behind : Option Nat
  /-- Its engine has read poison (R295). -/
  poisoned : Bool
  deriving DecidableEq, Repr

/-- A seal waiting, being signed, or signed (R96 to R100). -/
structure SealRec where
  chain : Nat
  idx : Nat
  first : Nat
  last : Nat
  beat : Nat
  notch : Nat
  tick : Nat
  reason : Nat
  head : Bytes
  recalls : Bytes
  recallN : Nat
  stalled : Bool
  /-- The SEAL command whose completion waits for this record (R97). -/
  cids : List Nat
  deriving DecidableEq, Repr

/-- A partition's receipt chain (R93 to R105). -/
structure Chain where
  /-- Chains begun since the service reset, and the beat this one began. -/
  gen : Nat
  began : Nat
  next : Nat
  prevHash : Bytes
  lastRcpt : Bytes
  sealNext : Nat
  /-- Head of the last seal created, and the beat the beat count starts from. -/
  sealedTo : Nat
  sealBeat : Nat
  /-- Recall events that no seal holds yet, phase bits 0 (R98, R105). -/
  recalls : Bytes
  recallN : Nat
  waiting : List SealRec
  signing : Option SealRec
  /-- Signed records waiting for the seal ring. -/
  signed : List SealRec
  /-- Index, beat of every receipt of the chain, newest first (R103). -/
  log : List (Nat × Nat)
  deriving DecidableEq, Repr

/-- A serving sequence in its slot, or a request that waits for the pages of its first chunk (R403 to R407). -/
structure Seq where
  slot : Nat
  cid : Nat
  admitted : Bool
  /-- Prompt tokens processed, tokens generated, last generated token. -/
  done : Nat
  gen : Nat
  last : Nat
  pages : List Nat
  /-- Pages asked for and not granted, and the beat the request joined the wait list. -/
  want : Nat
  since : Nat
  /-- In the batch of the step now running: batch entry number. -/
  batch : Option Nat
  /-- Tokens of the batch entry, and EMIT. -/
  cnt : Nat
  emit : Bool
  cancelled : Bool
  deriving DecidableEq, Repr

/-- The serving sequencer of a partition (R400 to R409). -/
structure Serve where
  seqs : List Seq
  /-- Free KV pages. -/
  free : List Nat
  stepNo : Nat
  /-- The command that runs the step now running or last run. -/
  live : Option Nat
  /-- The batch is written and the step waits for its launch point. -/
  ready : Bool
  /-- Slots whose requests wait for pages, oldest first. -/
  wait : List Nat
  deriving DecidableEq, Repr

/-! ### Cores, groups and blocks (spec 05, 06, 07) -/

/-- An entry of the divergence stack (R156). -/
structure DivEnt where
  reconv : Nat
  full : BitVec 32
  alt : Nat
  altMask : BitVec 32
  deriving DecidableEq, Repr

/-- One lane of a global atomic: its operation (16 for compare-and-swap), operand, swap value, and the old value once it
has been performed at its home (R194, R252). -/
structure AtomLane where
  lane : Nat
  arg : Nat
  swap : Nat
  old : Option Nat
  deriving DecidableEq, Repr

/-- A load or atomic whose data has not returned: destination, bytes per lane, lanes with their addresses, the atomic's
operation and lanes, and whether the lines go to L1 (R152, R191, R192). -/
structure Load where
  dst : Nat
  size : Nat
  lanes : List (Nat × Nat)
  aop : Option Nat
  atoms : List AtomLane
  fill : Bool
  /-- It is an acquire of device or system scope: nothing issues before it returns (R196, R261). -/
  acq : Bool
  /-- Its place in the order of its group's global accesses, and whether it is a release of device or system scope (R260, R261). -/
  seq : Nat
  rel : Bool
  deriving DecidableEq, Repr

/-- A group of 32 threads (R139 to R142, R150 to R163). -/
structure Grp where
  slot : Nat
  /-- Resident position of its block, and its index in the block. -/
  k : Nat
  gi : Nat
  issue : Nat
  active : Bool
  /-- Cycles before it may issue after entering the active set (R153). -/
  wait : Nat
  created : Nat
  pc : Nat
  mask : BitVec 32
  exited : BitVec 32
  /-- Thread registers, key 32 · register + lane. -/
  t : Sparse Word
  /-- Predicates, one bit a lane. -/
  p : Sparse (BitVec 32)
  /-- Uniform registers. -/
  u : Sparse Word
  stack : List DivEnt
  loads : List Load
  /-- Scope and order of a fence not yet complete (R196). -/
  fence : Option (Nat × Nat)
  beatWait : Option (Nat × Nat)
  matWait : Option Word
  atBar : Bool
  parked : Bool
  drain : Bool
  /-- The last instruction was refused for a full matrix queue, or waits to exit (R187, R199). -/
  held : Bool
  /-- L1 lines filled before this count are not hit (R196). -/
  acq : Nat
  /-- Stochastic-rounding operations of each lane (R124). -/
  srN : Sparse Nat
  deriving DecidableEq, Repr

/-- A resident block (R142, R147, R162). -/
structure Blk where
  lin : Nat
  k : Nat
  /-- Which free values its local memory starts with (R142). -/
  seed : Nat
  lmem : Sparse Byte
  /-- The barrier's count is complete and its release is due (R162). -/
  release : Bool
  bounded : Bool
  deriving DecidableEq, Repr

/-- Kinds of matrix operation. -/
inductive MatKind where
  | mma
  | mrd
  | mclr
  deriving DecidableEq, Repr

/-- A matrix operation issued and not complete (R198 to R201, R216). -/
structure MatOp where
  kind : MatKind
  token : Word
  slot : Nat
  k : Nat
  /-- Physical accumulator tile. -/
  acc : Nat
  clr : Bool
  sparse : Bool
  fa : Nat
  fb : Nat
  offA : Nat
  offB : Nat
  offM : Nat
  rm : Nat
  /-- Global thread index of its thread and that thread's lane (R217). -/
  thread : Nat
  lane : Nat
  /-- That thread's count of stochastic-rounding operations at issue (R217), and the issuing mask and program counter. -/
  n0 : Nat
  mask : BitVec 32
  pc : Nat
  /-- A group wrote a staging area before the token completed (R201). -/
  dirty : Bool
  deriving DecidableEq, Repr

/-- The class of an accumulator tile (R213). -/
inductive TileCls where
  | cleared
  | unscaled
  | block
  | bin32
  deriving DecidableEq, Repr

/-- An accumulator tile with its check-lane state (R127 to R137, R213 to R222). Element (i, j) has key 128 i + j; line l is
row l below 128 and column l − 128 from there. -/
structure Tile where
  cls : TileCls
  q : Option Int
  bounded : Bool
  a : Sparse Int
  /-- Flags: bit 0 NaN, bit 1 +∞, bit 2 −∞, bit 3 SAT. -/
  fl : Sparse Nat
  /-- Elements of a binary32 tile. -/
  f : Sparse Word
  /-- Expected line sums: multiples of 2^(q − 16), or of 2⁻¹⁴⁹ for a binary32 tile. -/
  sums : Sparse Int
  rn : Sparse Nat
  pn : Sparse Nat
  /-- Flags that the products of a line set (R220), and for binary32: bit 3 an overflow was reported. -/
  lfl : Sparse Nat
  /-- Sum of the product magnitudes of a line (R222). -/
  mag : Sparse Int
  n : Nat
  deriving DecidableEq, Repr

/-- A comparison that has not resolved: its tile as the MMA left it, the block and the command (R223). -/
structure Cmp where
  k : Nat
  acc : Nat
  tile : Tile
  deriving DecidableEq, Repr

/-- A line held in L1: address, bytes, and the fill count at its fill (R148, R196). -/
structure L1Line where
  addr : Nat
  data : Bytes
  fill : Nat
  deriving DecidableEq, Repr

/-- A core (R139). -/
structure Core where
  cid : Option Nat
  cfg : Nat
  /-- Cycles of a split change left (R149). -/
  stall : Nat
  create : Word
  blocks : List Blk
  groups : List Grp
  tok : Word
  lastTok : Word
  /-- Queued and not started; started and not complete. -/
  mq : List MatOp
  run : List MatOp
  tiles : List Tile
  cmps : List Cmp
  l1 : List L1Line
  fills : Nat
  /-- Matrix tile operations of the command issued here (R68). -/
  mmas : Nat
  corrected : Nat
  /-- A spare's shadow sample: the active core and its command (R69). -/
  shadow : Option (Nat × Nat)
  /-- Its check unit failed its self-test and DEGRADED keeps it working (R65). -/
  noCheck : Bool
  /-- Tick from which it accepts dispatch after a substitution (R236). -/
  readyAt : Nat
  /-- Core cycles of its work, modulo 16 (R474). -/
  phase : Nat
  deriving DecidableEq, Repr

/-! ### Coherence (spec 09) -/

/-- The state of a directory entry (R250). -/
inductive DirSt where
  | i
  | s
  | e
  | p
  deriving DecidableEq, Repr

/-- The state of a line in an L2 (R250). -/
inductive L2St where
  | i
  | s
  | e
  | m
  | p
  deriving DecidableEq, Repr

/-- A request at its home (R251): the requester, and for a write its mask and data, for an atomic its core, group and lane. -/
inductive HomeReq where
  | rds (p : Nat)
  | rdu (p : Nat)
  | upg (p : Nat)
  | pkr (who : Agent)
  | invw (who : Agent) (mask : Nat) (data : Bytes)
  | atm (no slot lane : Nat)
  deriving DecidableEq, Repr

/-- The transaction that is open on a line: its request, the partitions snooped and not yet answering, and those whose
answer is on its way (R252, R253). -/
structure Txn where
  req : HomeReq
  wait : List Nat
  answered : List Nat
  deriving DecidableEq, Repr

/-- A directory entry: state, sharer vector, owner, the open transaction and the requests that wait (R250, R253). -/
structure DirEnt where
  st : DirSt
  sharers : List Nat
  owner : Nat
  txn : Option Txn
  queue : List HomeReq
  deriving DecidableEq, Repr

/-- A store of a core accepted and not yet performed: its core, group slot, partition, command, address and bytes. -/
structure Pend where
  no : Nat
  slot : Nat
  part : Nat
  cid : Nat
  addr : Nat
  data : Bytes
  /-- A release of device or system scope: performed after every earlier store of its group (R261). -/
  rel : Bool
  /-- Its place in the order of its group's global accesses (R260). -/
  seq : Nat
  deriving DecidableEq, Repr

/-- A flagged final write at its holding port (R267 to R269). -/
structure Final where
  port : HoldPort
  stream : Nat
  cid : Nat
  count : Nat
  addr : Nat
  mask : Nat
  data : Bytes
  since : Nat
  deriving DecidableEq, Repr

/-- An open stream of a holding port and its landed counter (R267). -/
structure Stream where
  port : HoldPort
  num : Nat
  landed : Nat
  deriving DecidableEq, Repr

/-! ### Stacked memory (spec 10) -/

/-- A sealed region beside its registers (R290 to R299): VERIFY of the sealing in progress, the beat each partition last
began a command that reads it plus 1, the pages under repair in page order with their bad lines (none: every line) and the
beat of detection, and failed attempts. -/
structure Rgn where
  verify : Bool
  read : Sparse Nat
  pages : List (Nat × Option (List Nat) × Nat)
  tries : Nat
  deriving DecidableEq, Repr

/-- The thermal run of a DRAM layer or of a die's junction (R286 to R289, R487 to R489): the last temperature in 0.1 °C; consecutive
samples of the layer at 105 °C or more, or one bit for each junction sensor whose last sample read 110 °C or more; the refresh
multiplier as a power of two. -/
structure Heat where
  temp : Int
  hot : Nat
  mult : Nat
  deriving DecidableEq, Repr

/-- A thermal, droop or regulator floor of a die, as a power state 0 to 3, and the tick of its next step (R288, R484, R485,
R488). -/
structure Floor where
  ps : Nat
  active : Bool
  since : Option Nat
  deriving DecidableEq, Repr

/-! ### Allocators (R33) -/

/-- A request that waits in an allocator: the command, its requester index, how much it asks for, the beat it joined, and
whether it arrived in the cycle not yet granted. -/
structure AllocReq where
  who : Nat
  idx : Nat
  n : Nat
  since : Nat
  new : Bool
  deriving DecidableEq, Repr

/-- An allocator of landing chunks or switch frames: units held, and its wait list, oldest first (R33, R439). -/
structure Alloc where
  used : Nat
  wait : List AllocReq
  deriving DecidableEq, Repr

/-! ### Links, stands and collectives (spec 14) -/

/-- A group-table or axis-table entry (R430). -/
structure GroupEnt where
  valid : Bool
  members : List Nat
  axes : Nat
  sub : Nat
  parts : Nat
  frames : Nat
  gen : Nat
  deriving DecidableEq, Repr

/-- A message that waits for a port: the partition it is sent for, none for control and forwarded traffic, and the command
it belongs to (R425, R445). -/
structure OutMsg where
  part : Option Nat
  cid : Option Nat
  msg : Msg
  deriving DecidableEq, Repr

/-- A flit in the replay buffer: sequence number, bytes, replays so far, and the command of its message (R417). -/
structure SentFlit where
  seq : Nat
  bytes : Bytes
  tries : Nat
  cid : Option Nat
  deriving DecidableEq, Repr

/-- An HKL port beside its registers (R413 to R425). -/
structure Port where
  /-- Next sequence number to send; last one received in order. -/
  tx : Nat
  rx : Nat
  queue : List OutMsg
  sent : List SentFlit
  /-- The partition whose turn it is, and the flits it may still send in this round. -/
  turn : Nat
  left : Nat
  /-- The training in progress is a retrain; ticks of the failed retrains. -/
  again : Bool
  fails : List Nat
  /-- The last 8 values of round trip − turnaround, newest first. -/
  lat : List Nat
  /-- Probes sent: the low 32 bits of the timebase each carried. -/
  probes : List Nat
  deriving DecidableEq, Repr

/-- A chunk that this package owns and reduces (R438): whether its frame is held, members pulled so far, contributions as
they arrive (member, bytes by offset in 16-byte units), how many members are added, and the sums. -/
structure OwnChunk where
  idx : Nat
  frame : Bool
  pulled : Nat
  parts : List (Nat × Nat × Bytes)
  added : Nat
  acc : List Nat
  deriving DecidableEq, Repr

/-- A collective of a member of this package, from its grant (R434 to R443). -/
structure Coll where
  cid : Nat
  key : Nat
  gen : Nat
  num : Nat
  members : List Nat
  code : Nat
  fmt : Nat
  rm : Nat
  n : Nat
  inAddr : Nat
  outAddr : Nat
  frames : Nat
  /-- Its landing chunks are held, and whether a communication queue holds them for it. -/
  landing : Bool
  comm : Bool
  /-- Next chunk to stage, and the chunks staged and not yet pulled. -/
  stage : Nat
  staged : List (Nat × Bytes)
  /-- What it does as owner, on the member of its package with the lowest code. -/
  ownNext : Nat
  own : List OwnChunk
  share : Nat
  /-- Shares of the owners as they arrive, and elements delivered here. -/
  shares : List (Nat × Nat)
  delivered : Nat
  passes : List Nat
  passed : Bool
  agreed : Bool
  deriving DecidableEq, Repr

/-- A lead handover in progress (R426 to R428), as this package sees it. -/
structure Swap where
  /-- This package is the lead A; the other party; the swap beat. -/
  isA : Bool
  other : Nat
  beat : Nat
  /-- The state as A sent it, or the parts that B has received. -/
  sent : Bytes
  parts : List (Nat × Bytes)
  agreed : Bool
  /-- B's learning of its own BEAT_IN. -/
  learn : Option Learn
  lastEdge : Option Nat
  p16 : Option Nat
  deriving DecidableEq, Repr

/-- The links and the stand. -/
structure Net where
  ports : Sparse Port
  groups : Sparse GroupEnt
  /-- Updates that wait for their activation beat: entry key, entry, beat (R432). -/
  updates : List (Nat × GroupEnt × Nat)
  /-- Member codes of the staged entry, by slot (R447). -/
  gmem : Sparse Nat
  /-- A lead has been seen (R30). -/
  leadSeen : Bool
  /-- Messages received in flits for this package and not yet acted on: port and message. -/
  inbox : List (Nat × Msg)
  colls : List Coll
  /-- Generation and next operation number, by 512 · partition + entry key (R434). -/
  opNum : Sparse (Nat × Nat)
  /-- Operation tags under discard and who fells them (R445). -/
  discards : List (Nat × Nat)
  /-- Swap requests of the beat: requester, other party (R427), and that beat. -/
  requests : List (Nat × Nat)
  reqBeat : Nat
  swap : Option Swap
  /-- Roster rounds each package has missed, and its answers in this round (R516). -/
  missed : Sparse Nat
  answered : List Nat
  /-- Switch frames that a communication queue holds, by 16 · partition + ring (R444). -/
  commFrames : Sparse Nat
  deriving DecidableEq, Repr

/-- A layering instance (R355): its command, the partition it served last plus 1, and the expected and the computed CRC-32 of each
signature of the pass (R458). -/
structure LyrInst where
  cid : Option Nat
  last : Nat
  sigs : List (Nat × Nat)
  deriving DecidableEq, Repr

/-! ### Power, service port, bring-up and pins (spec 16, 18, 19, 21) -/

/-- A valid PMBus round: measured power and the modelled static and dynamic power over it, all in 2⁻³² W (R480). -/
structure Sample where
  pm : Nat
  st : Nat
  dy : Nat
  deriving DecidableEq, Repr

/-- The droop detectors of a die (R484): the tick since which its clock is stretched, the stretched ticks and the start of the
interval of 1 ms, the stretched ticks of the last such intervals since the floor last moved and how many they are. -/
structure Droop where
  on : Option Nat
  sum : Nat
  start : Nat
  run : Nat
  runN : Nat
  deriving DecidableEq, Repr

/-- A VR_ALERT_N input (R485, R486): asserted, the tick of its last release, stuck said, the STATUS_WORD event is due. -/
structure VrIn where
  low : Bool
  released : Nat
  said : Bool
  due : Bool
  deriving DecidableEq, Repr

/-- The kiln controller (R463 to R494). -/
structure Kiln where
  /-- Activity of the control period: 16 · account + kind; accounts 0 to 15 the partitions, 16 the device; kinds 0 to 7 products
  by format code, 8 instructions, 9 bulk bytes, 10 narrow bytes, 11 home requests and switch additions, 12 flits (R477). -/
  cnt : Sparse Nat
  /-- Energy below 1 µJ carried by each account, in 2⁻²⁸ fJ; account 17 is the measured energy, in 2⁻³² µJ (R478). -/
  res : Sparse Nat
  /-- Control periods so far. -/
  periods : Nat
  /-- Consecutive periods at or below 0.95 of a cap: partitions 0 to 15, the package 16. -/
  low : Sparse Nat
  /-- Modelled static and dynamic energy so far, before the gains, in 2⁻¹² fJ. -/
  st : Nat
  dy : Nat
  /-- The period in which a quiescent window began; valid rounds of the window, of the second and of the 10 s window. -/
  quiet : Option Nat
  quietN : List Sample
  secN : List Sample
  winN : List Sample
  /-- P_m of the last valid round in 2⁻³² W, and consecutive rounds above the cap (R475). -/
  pm : Nat
  overs : Nat
  /-- The state whose clock each die runs: 0 to 3 (R469). -/
  clk : Sparse Nat
  droop : Sparse Droop
  vr : Sparse VrIn
  /-- Step of an orderly power-down, 0 none, and the tick of the last trip (R490, R491). -/
  pd : Nat
  tripAt : Option Nat
  deriving DecidableEq, Repr

/-- What a PMBus transaction is for. -/
inductive PmbWho where
  | alert (g : Nat)
  | manual
  | round
  deriving DecidableEq, Repr

/-- A PMBus transaction: its cause, rail and command code (R539, R542). -/
structure PmbTx where
  who : PmbWho
  rail : Nat
  code : Nat
  deriving DecidableEq, Repr

/-- A PMBus round (R540): readings to come, valid so far, the control period and the modelled energies at its start, the sum of
VOUT × IOUT in 2⁻³² W and the VOUT just read in 2⁻¹⁶ V. -/
structure PmbRound where
  todo : List (Nat × Nat)
  ok : Bool
  period : Nat
  st : Nat
  dy : Nat
  sum : Int
  v16 : Nat
  deriving DecidableEq, Repr

/-- The PMBus controller (R539 to R542). -/
structure Pmb where
  round : Option PmbRound
  cur : Option PmbTx
  manual : Option (Nat × Nat)
  alerts : List (Nat × Nat)
  /-- Consecutive failed readings of each rail, and rails whose fault event is out. -/
  fails : Sparse Nat
  said : List Nat
  /-- The rail whose READ_VIN was last read in rotation, plus 1. -/
  turn : Nat
  deriving DecidableEq, Repr

/-- An indicator sink (R543 to R546): milliseconds of its second, on-time of the pulse in progress in 1/256 ms, whether that pulse
is stretched or one of this second has been, and its last diagnostic samples, newest first. -/
structure Sind where
  ms : Nat
  on : Nat
  wide : Bool
  used : Bool
  hist : List Bool
  deriving DecidableEq, Repr

/-- A firmware copy (R552, R553): as shipped, or as written through the service space, perhaps not closed. -/
inductive FwCopy where
  | shipped
  | written (words : List Word) (closed : Bool)
  deriving DecidableEq, Repr

/-- Bring-up, the firmware store, and the pins outside the beat unit (R463 to R466, R549 to R555, R586 to R596). -/
structure Boot where
  /-- Power-good inputs that are good. -/
  pg : BitVec 12
  /-- The service domain, and every other domain, is out of reset. -/
  svcUp : Bool
  up : Bool
  /-- A power fault is latched: its end is a device reset (R466, R512). -/
  due : Bool
  /-- The firmware check is done. -/
  checked : Bool
  /-- The clocks have locked and stage 3 waits for PERST_N (R586). -/
  locked : Bool
  /-- Failed attempts at DRAM training. -/
  tries : Nat
  fwA : FwCopy
  fwB : FwCopy
  /-- PERST_N is asserted, and PCIe link training may run. -/
  perst : Bool
  pcie : Bool
  /-- HKL training has been released. -/
  links : Bool
  /-- THERM_TRIP_N is asserted. -/
  trip : Bool
  /-- The TAP instruction in force and what its data register captured. -/
  tap : BitVec 8
  tdr : Nat
  deriving DecidableEq, Repr

/-- The service port and the background duties beside their registers (R524 to R538, R557 to R562). -/
structure Svc where
  /-- Bytes the device drove in the last read frame. -/
  out : Bytes
  /-- A companion read asked for: its COMP_CMD word. -/
  comp : Option Word
  /-- The calibration pass: in progress, a unit retraining, another pass due. -/
  calRun : Bool
  calBusy : Bool
  calDue : Bool
  /-- Trim of each sensor in 0.1 °C, 16 · set + sensor. -/
  trim : Sparse Int
  /-- Notches since the last background progress records; free ticks since the last snapshot. -/
  progN : Nat
  telN : Nat
  deriving DecidableEq, Repr

/-! ### The whole block -/

/-- The moment that records are stamped with: beat number and notch (R47). -/
structure Clk where
  beat : Nat
  notch : Nat
  deriving DecidableEq, Repr

/-- Everything of the block but its queue, its beat unit and its device memory. -/
structure Dev where
  /-- The tick of the last command that carried a time (0.625 ns each, R34). -/
  now : Nat
  /-- Free values taken so far: the model's own counter (log entry 3). -/
  fresh : Nat
  /-- What the last read returned, lowest address first. -/
  resp : List Word
  regs : Sparse Word
  /-- Shadows of R12, by path and offset. -/
  shadow : Sparse Word
  /-- NumVFs is 16 (R313). -/
  vfs : Bool
  /-- Max_Payload_Size and Max_Read_Request_Size in bytes, and Enable Relaxed Ordering (R311, R312). -/
  mps : Nat
  mrrs : Nat
  relaxed : Bool
  hostRate : Nat
  hostWidth : Nat
  evq : Sparse EvQ
  dr : Sparse DRing
  sr : Sparse SRing
  toHost : List HostWr
  /-- Interrupts raised: function and vector (R340). -/
  msix : List (Nat × Nat)
  toLink : List LinkOut
  wakes : Sparse WakeSt
  bufs : Sparse BufEnt
  tally : Sparse Nat
  client : Sparse Word
  cmds : List Cmd
  nextCid : Nat
  grants : Nat
  /-- The ring an engine fetched from last, by 8p + e (R382). -/
  lastRing : Sparse Nat
  /-- The command that holds an engine's selection, as cid + 1, by 8p + e (R386). -/
  held : Sparse Nat
  chains : Sparse Chain
  serve : Sparse Serve
  /-- The position straps as latched, as a package ID (R23, R588). -/
  strapId : Nat
  /-- LEAD_N was low at reset release (R28). -/
  strapLead : Bool
  /-- Cores by 36 · partition + local tile (R18, R139). -/
  cores : Sparse Core
  /-- The image of a core in a save slot, by 64 · partition + slot (R392, R393). -/
  saveImg : Sparse Core
  /-- Lines stored with the poison mark, by line address (R256, R283). -/
  poison : List Nat
  dir : Sparse DirEnt
  /-- Lines of the L2s, by 16 · line address + partition. -/
  l2 : Sparse L2St
  stores : List Pend
  /-- Sectors of narrow lines need no state of their own: data lives in the one image of device memory (log entry 12). -/
  streams : List Stream
  finals : List Final
  finalsQ : List Final
  /-- Generations staged plus 1, by path and offset of the state word (R499, R577). -/
  staged : Sparse Nat
  /-- Reason of each blazed core plus 1, by entry 144d + i (R501, R513). -/
  reasons : Sparse Nat
  /-- Self-tests in progress: of a returning core by its entry (R504), of one whose entry was restored by 576 + entry (R513). -/
  testing : List Nat
  /-- Stress and suspect counts as last written to the firmware store (R513). -/
  fwStress : Sparse Nat
  fwSuspect : Sparse Nat
  /-- A pending wear swap per partition: 64 · a + b + 1 of the local tiles (R240). -/
  swaps : Sparse Nat
  /-- Background windows that are open (R557). -/
  bgOpen : List Nat
  /-- Retries of a fabric link, by (die, a, b), and suspect links with the commands whose flits they carried (R227, R234). -/
  linkRetry : List (Nat × Nat × Nat × Nat)
  suspects : List (Nat × Nat × Nat × List Nat)
  /-- What triggered the reset of a partition in progress: code of Table: Fault events plus 1, and 8 more where the partition was
  non-responsive (R255, R509). -/
  resetting : Sparse Nat
  /-- Corrected codewords of a row, rows being copied, remapped rows with their spare plus 1, spare rows used and banks said
  exhausted; rows by 24,576 · (32 · (32 · die + channel) + bank) + row (R284, R285). -/
  rowCe : Sparse Nat
  rowBusy : List Nat
  rowMap : Sparse Nat
  bankUsed : Sparse Nat
  bankSaid : List Nat
  /-- Narrow accesses among the last slot times of a channel, as slot numbers; slots issued (R280). -/
  narrow : Sparse (List Nat)
  slots : Sparse Nat
  /-- Slot times of a channel that cruise took last, newest first (R303). -/
  cruiseUse : Sparse (List Nat)
  /-- DRAM layers by 8 · die + layer; junctions by 64 + die, 68 the IOD; sensors said at fault (R286, R487). -/
  heat : Sparse Heat
  sensorSaid : List Nat
  /-- Floors by 8 · die + kind: 0 DRAM, 1 junction, 2 droop, 3 regulator, 4 cap (R471). -/
  floors : Sparse Floor
  rgn : Sparse Rgn
  /-- Landing allocators 0 to 15, the frame allocator 16 (R33). -/
  allocs : Sparse Alloc
  /-- Cruise: sealed pages done and due in this pass, passes said late (4 the sealed one) (R301 to R304). -/
  sealedDone : Nat
  sealedDue : Nat
  lateSaid : List Nat
  net : Net
  lyr0 : LyrInst
  lyr1 : LyrInst
  kiln : Kiln
  pmb : Pmb
  sinds : Sparse Sind
  boot : Boot
  svc : Svc
  deriving DecidableEq, Repr

/-- The beat unit in reset: unpowered until stage 6 of bring-up ends; BEAT_CTRL 0x19, BEAT_BASE 1 (R58, R555). -/
def beatReset : BeatUnit :=
  { powered := false, en := true, srcSel := 0, outEn := true, outSyn := true, base := 1, st := .unlocked, silent := false,
    conflict := false, src := 0, pendSrc := none, role := .alone, hops := 0, port := 0, portHops := [], p16 := 0, b16 := 0,
    n16 := 0, anom := 0, miss := 0, run := none, num := 0, notch := 0, counted := false, ever := false, lastEdge := none,
    learn := none, curEdge := none, prevEdge := none, win := none, extraBeat := false, extraPrev := false, lastAcc := 0,
    enAt := 0, noLockSaid := false, fires := [], fired := none, out := none, lateQuiet := 1000, skipTo := none, holdAt := none,
    nextDelay := none, delay := 2000, comp := [] }

/-- Nothing queued, sent or known of the stand. -/
def netReset : Net :=
  { ports := [], groups := [], updates := [], gmem := [], leadSeen := false, inbox := [], colls := [], opNum := [], discards := [], requests := [],
    reqBeat := 0, swap := none, missed := [], answered := [], commFrames := [] }

/-- The kiln controller as reset leaves it; calibration is in stage 0 by its registers (R480). -/
def kilnReset : Kiln :=
  { cnt := [], res := [], periods := 0, low := [], st := 0, dy := 0, quiet := none, quietN := [], secN := [], winN := [],
    pm := 0, overs := 0, clk := [], droop := [], vr := [], pd := 0, tripAt := none }

/-- The PMBus controller as reset leaves it. -/
def pmbReset : Pmb := { round := none, cur := none, manual := none, alerts := [], fails := [], said := [], turn := 0 }

/-- Before bring-up: no rail good, every domain in reset, the firmware as shipped, IDCODE in force (R464, R594). -/
def bootReset : Boot :=
  { pg := 0, svcUp := false, up := false, due := false, checked := false, locked := false, tries := 0, fwA := .shipped, fwB := .shipped, perst := false,
    pcie := false, links := false, trip := false, tap := 2, tdr := 0 }

/-- No frame, no companion read, no calibration pass. -/
def svcReset : Svc :=
  { out := [], comp := none, calRun := false, calBusy := false, calDue := false, trim := [], progN := 0, telN := 0 }

/-- Everything of the block but the queue, the beat unit and device memory, in reset: every register at its reset value. -/
def devReset : Dev :=
  { now := 0, fresh := 0, resp := [], regs := [], shadow := [], vfs := false, mps := 128, mrrs := 512, relaxed := true,
    hostRate := 0, hostWidth := 0, evq := [], dr := [], sr := [], toHost := [], msix := [], toLink := [], wakes := [], bufs := [],
    tally := [], client := [], cmds := [], nextCid := 0, grants := 0, lastRing := [], held := [], chains := [], serve := [],
    strapId := 0, strapLead := false, cores := [], saveImg := [], poison := [], dir := [], l2 := [], stores := [], streams := [], finals := [],
    finalsQ := [], staged := [], reasons := [], testing := [], fwStress := [], fwSuspect := [], swaps := [], bgOpen := [],
    linkRetry := [], suspects := [], resetting := [], rowCe := [], rowBusy := [], rowMap := [], bankUsed := [], bankSaid := [],
    narrow := [], slots := [], cruiseUse := [], heat := [], sensorSaid := [], floors := [], rgn := [], allocs := [], sealedDone := 0,
    sealedDue := 0, lateSaid := [], net := netReset, lyr0 := ⟨none, 0, []⟩, lyr1 := ⟨none, 0, []⟩, kiln := kilnReset, pmb := pmbReset,
    sinds := [], boot := bootReset, svc := svcReset }

/-- Who raises a fault: a home request at an address that has no home slice (R244, R245). Safe: the machine stops. -/
inductive Fault where
  | notHomed (addr : Nat)
  deriving DecidableEq, Repr

/-- Who refuses: an arm without a meaning. Safe: the machine stops. -/
inductive Refusal where
  | notModelled (mnemonic : String)
  deriving DecidableEq, Repr

/-- The state of the block. -/
structure State where
  /-- Commands that wait, first in, first out. -/
  pending : List Instr
  beat : BeatUnit
  /-- Device memory: bytes by address (R244). -/
  mem : Sparse Byte
  dev : Dev
  deriving DecidableEq, Repr

/-- The machine right after a service reset (R464, R580): no rail is good, and no command waits. -/
def State.reset : State := { pending := [], beat := beatReset, mem := [], dev := devReset }

end Sys2Proof.Machine
end

