-- ==== Sys2Proof/Machine/Ops.lean ====
section
/-! DEFINITION. The named operations over registers, counters, memory, events and rings that the meanings share. -/

namespace Sys2Proof.Machine

/-! ### Outcomes -/

/-- The answer of a meaning that always goes on. -/
abbrev Out := Host.Outcome State Fault Refusal

/-- A command whose effect is `f` on everything but the queue, the beat unit and device memory. -/
def State.onDev (s : State) (f : Dev → Dev) : State := { s with dev := f s.dev }

/-- The moment records are stamped with. -/
def State.clk (s : State) : Clk := ⟨s.beat.num, s.beat.notch⟩

/-- Time moves to tick `t`, never back. -/
def Dev.at (d : Dev) (t : Nat) : Dev := { d with now := max d.now t }

/-! ### Registers (R6 to R12) -/

/-- The word a register holds. -/
def Dev.reg (d : Dev) (off : Nat) : Word := Sparse.get regReset d.regs off

/-- Write a register's word. -/
def Dev.setReg (d : Dev) (off : Nat) (w : Word) : Dev := { d with regs := Sparse.put regReset d.regs off w }

/-- A register's word as a number. -/
def Dev.regN (d : Dev) (off : Nat) : Nat := (d.reg off).toNat

/-- Write a number to a register. -/
def Dev.setRegN (d : Dev) (off v : Nat) : Dev := d.setReg off (BitVec.ofNat 32 v)

/-- A 64-bit value in two registers, low word first. -/
def Dev.reg64 (d : Dev) (off : Nat) : Nat := d.regN off + d.regN (off + 4) * 2 ^ 32

/-- Write a 64-bit value to two registers, low word first. -/
def Dev.setReg64 (d : Dev) (off v : Nat) : Dev :=
  (d.setRegN off (v % 2 ^ 32)).setRegN (off + 4) (v / 2 ^ 32 % 2 ^ 32)

/-- Set some bits of a register. -/
def Dev.orReg (d : Dev) (off m : Nat) : Dev := d.setReg off (d.reg off ||| BitVec.ofNat 32 m)

/-- The key of the copy of a register held for one path (R349, R572, R577). -/
def pathKey (path : Path) (off : Nat) : Nat :=
  match path with
  | .pf => off
  | .svc => 2 ^ 24 * 1 + off
  | .vf k => 2 ^ 24 * (2 + k.val) + off

/-- The overflow register's key and bit of the statistics counter at `key`; a counter whose overflow bit the tables place
in no register keeps it beside itself. -/
def ovfOf (key : Nat) : Nat × Nat :=
  match (regRule (key % 2 ^ 24)).kind with
  | .stat 0 bit => (key + 1, bit)
  | .stat ovf bit => (key / 2 ^ 24 * 2 ^ 24 + ovf, bit)
  | _ => (key + 1, 0)

/-- One event at a statistics counter (R9): count, or at all ones set the sticky overflow bit. -/
def Dev.bump (d : Dev) (key : Nat) : Dev :=
  if d.reg key = 0xFFFFFFFF then d.orReg (ovfOf key).1 (2 ^ (ovfOf key).2)
  else d.setReg key (d.reg key + 1)

/-- `n` events at a statistics counter. -/
def Dev.bumpN : Nat → Dev → Nat → Dev
  | 0, d, _ => d
  | n + 1, d, key => Dev.bumpN n (d.bump key) key

/-- Add to an accumulator of 64 bits in two registers; a wrap counts in its wrap counter (R10). -/
def Dev.accumulate (d : Dev) (off wrap n : Nat) : Dev :=
  let v := d.reg64 off + n
  let d' := d.setReg64 off (v % 2 ^ 64)
  if v ≥ 2 ^ 64 then d'.bump wrap else d'

/-- The management offset that an access of `path` at its own offset names: BAR0 of the PF, BAR0 of a VF (R315), or a
word address of the service space (R534, R565). -/
def mgmtOff (d : Dev) (path : Path) (off : Nat) : Option Nat :=
  match path with
  | .pf => if off < 0x1000000 then some off else none
  | .vf k =>
    if d.vfs then
      if off < 0x1000 then some (0x20000 + 0x1000 * k.val + off)
      else if off < 0x2000 then some (0x40000 + 0x1000 * k.val + (off - 0x1000))
      else if off < 0x4000 then some (0x60000 + 0x2000 * k.val + (off - 0x2000))
      else none
    else none
  | .svc =>
    if off < 0x4000 then some (4 * off)
    else if off < 0x8000 then some (0x120000 + 4 * (off - 0x4000))
    else if off < 0xC000 then some (0x140000 + 4 * (off - 0x8000))
    else if off < 0x10000 then some (0x160000 + 4 * (off - 0xC000))
    else none

/-- The offset by which a path names management offset `m` (R573). -/
def pathOff (path : Path) (m : Nat) : Nat :=
  match path with
  | .pf => m
  | .vf _ => if m < 0x30000 then m % 0x1000 else if m < 0x50000 then 0x1000 + m % 0x1000 else 0x2000 + m % 0x2000
  | .svc => if m < 0x10000 then m / 4 else if m < 0x130000 then 0x4000 + m % 0x10000 / 4
            else if m < 0x150000 then 0x8000 + m % 0x10000 / 4 else 0xC000 + m % 0x10000 / 4

/-- BOOT_STATUS.READY (R549). -/
def Dev.ready (d : Dev) : Bool := flag (d.reg 0x100) 8

/-- Whether a path reaches the block of management offset `m` (R564): a VF its own pages, the service port four blocks. Until
READY the host reaches the GLB block alone (R550, R551). -/
def reaches (d : Dev) (path : Path) (m : Nat) : Bool :=
  match path with
  | .pf => decide (m < 0x10000) || d.ready
  | .vf k => d.vfs && d.ready && ((m / 0x1000 == 0x20 + k.val) || (m / 0x1000 == 0x40 + k.val) || (m / 0x2000 == 0x30 + k.val))
  | .svc => decide (m < 0x10000) || (decide (0x120000 ≤ m) && decide (m < 0x130000)) ||
            (decide (0x140000 ≤ m) && decide (m < 0x150000)) || (decide (0x160000 ≤ m) && decide (m < 0x170000))

/-- The register that captures refusals on a path, and its counter's key (R572). -/
def werrKey (path : Path) : Nat :=
  match path with
  | .pf => 0x20
  | .svc => pathKey .svc 0x20
  | .vf k => 0x20000 + 0x1000 * k.val + 0x10

/-- A refused write: captured with its offset and cause on the path that made it (R572, R573). -/
def Dev.refuse (d : Dev) (path : Path) (m cause : Nat) : Dev :=
  ((d.setRegN (werrKey path) (pathOff path m % 2 ^ 24 + cause * 2 ^ 24 + 2 ^ 31)).bump (werrKey path + 4))

/-- The service space answers for the service domain alone: in PS5, or with a power fault latched (R535). -/
def Dev.gated (d : Dev) : Bool := flag (d.reg 0x120008) 3 || flag (d.reg 0x12000C) 13

/-- The register responds to the path in the current power state (R535); BAR0 answers once READY is set, which gating clears. -/
def Dev.responds (d : Dev) (path : Path) (m : Nat) : Bool :=
  path != .svc || !d.gated || decide (m < 0x10000) || (decide (0x140000 ≤ m) && decide (m < 0x150000)) ||
    (decide (0x160000 ≤ m) && decide (m < 0x170000)) || m == 0x120000 || m == 0x120008 || m == 0x12000C || m == 0x120020

/-- The partition whose PTN, QUE or BUF page a management offset lies in. -/
def pagePart (m : Nat) : Option Nat :=
  if 0x20000 ≤ m ∧ m < 0x30000 then some ((m - 0x20000) / 0x1000)
  else if 0x40000 ≤ m ∧ m < 0x50000 then some ((m - 0x40000) / 0x1000)
  else if 0x60000 ≤ m ∧ m < 0x80000 then some ((m - 0x60000) / 0x2000)
  else none

/-- PART_STATE of a partition (R505): 0 running, 1 degraded, 2 non-responsive, 3 resetting, 4 failed. -/
def Dev.partSt (d : Dev) (p : Nat) : Nat := fld (d.reg (0x160300 + 8 * p)) 0 3

/-- The partition whose page holds `m` is resetting (R511). -/
def Dev.pageLocked (d : Dev) (m : Nat) : Bool :=
  match pagePart m with
  | some p => d.partSt p == 3
  | none => false

/-- A write that arrives at a register by a path: nothing where the path does not reach it, refused with cause 3 where it
does not respond and with cause 2 in the page of a resetting partition (R511, R535, R564, R573). -/
def Dev.onWrite (d : Dev) (path : Path) (m : Nat) (go : Dev) : Dev :=
  if !reaches d path m then d
  else if !d.responds path m then d.refuse path m 3
  else if d.pageLocked m then d.refuse path m 2
  else go

/-- Refuse with a cause, or go on. -/
def Dev.guard (d : Dev) (path : Path) (m : Nat) (cause : Option Nat) (go : Dev) : Dev :=
  match cause with
  | some c => d.refuse path m c
  | none => go

/-- The first cause of a list of checks: those that hold, in the order of R573. -/
def firstCause : List (Bool × Nat) → Option Nat
  | [] => none
  | (true, c) :: _ => some c
  | (false, _) :: r => firstCause r

/-- Whether a word lies within every range of its register. -/
def inLims (lims : List RegLim) (v : Word) : Bool :=
  lims.all (fun l => decide (l.least ≤ fld v l.lo l.len) && decide (fld v l.lo l.len ≤ l.most))

/-- A write under the register tables alone: range-checked, then applied or refused (R6, R7, R9, R572, R576). -/
def Dev.tableWrite (d : Dev) (path : Path) (m key : Nat) (v : Word) : Dev :=
  let r := regRule m
  match r.kind with
  | .stat _ _ => if v = 0 then d.setReg key 0 else d
  | .w1c => d.setReg key (d.reg key &&& ~~~(v &&& BitVec.ofNat 32 r.mask))
  | .rw => if inLims r.lims v then d.setReg key (v &&& BitVec.ofNat 32 r.mask) else d.refuse path m 1
  | _ => d

/-- The value of a wide counter's higher words is latched by a read of its low word (R12). -/
def Dev.latch (d : Dev) (path : Path) (off : Nat) (w : Word) : Dev :=
  { d with shadow := Sparse.put (fun _ => 0) d.shadow (pathKey path off) w }

/-- A shadow's word. -/
def Dev.shadowOf (d : Dev) (path : Path) (off : Nat) : Word := Sparse.get (fun _ => 0) d.shadow (pathKey path off)

/-- The answer of a read. -/
def Dev.answer (d : Dev) (ws : List Word) : Dev := { d with resp := ws }

/-! ### Free values -/

/-- Take a free value: the counter advances, so that the next one is another (log entry 3). -/
def Dev.take (d : Dev) (site : Nat) : BitVec 64 × Dev := (Config.free site d.fresh, { d with fresh := d.fresh + 1 })

/-! ### Activity (R477) -/

/-- The account of activity that no partition caused. -/
def devAcct : Nat := 16

/-- Count activity of a kind to an account. -/
def Dev.charge (d : Dev) (acct kind n : Nat) : Dev :=
  if n = 0 then d
  else
    let key := 16 * acct + kind
    { d with kiln := { d.kiln with cnt := Sparse.put (fun _ => 0) d.kiln.cnt key (Sparse.get (fun _ => 0) d.kiln.cnt key + n) } }

/-- A command is granted: the quiescent window ends, and one of less than 5 ms leaves no rounds (R481). -/
def Kiln.busy (x : Kiln) : Kiln :=
  { x with
    quiet := none,
    quietN := (match x.quiet with
      | some q => if q + 50 ≤ x.periods then x.quietN else []
      | none => x.quietN) }

/-! ### Device memory (R244, R245) -/

/-- What a byte that nothing has written reads as: bring-up zeroes device memory (R549; before that, log entry 2). -/
def memReset : Nat → Byte := fun _ => 0

/-- The byte at an address. -/
def readByte (m : Sparse Byte) (a : Nat) : Byte := Sparse.get memReset m a

/-- Write one byte. -/
def writeByte (m : Sparse Byte) (a : Nat) (b : Byte) : Sparse Byte := Sparse.put memReset m a b

/-- `n` bytes from an address. -/
def readMem (m : Sparse Byte) : Nat → Nat → Bytes
  | _, 0 => []
  | a, n + 1 => readByte m a :: readMem m (a + 1) n

/-- Write a byte string at an address, lowest first. -/
def writeMem : Sparse Byte → Nat → Bytes → Sparse Byte
  | m, _, [] => m
  | m, a, b :: r => writeMem (writeByte m a b) (a + 1) r

/-- Write the bytes of a string whose mask bit is set: bit i for byte i (R251, R266). -/
def writeMasked : Sparse Byte → Nat → Nat → Bytes → Sparse Byte
  | m, _, _, [] => m
  | m, a, k, b :: r => writeMasked (if k % 2 = 1 then writeByte m a b else m) (a + 1) (k / 2) r

/-- Device memory changes by `f`. -/
def State.onMem (s : State) (f : Sparse Byte → Sparse Byte) : State := { s with mem := f s.mem }

/-- Write bytes to device memory. -/
def State.store (s : State) (a : Nat) (bs : Bytes) : State := s.onMem (fun m => writeMem m a bs)

/-- Bytes in GiB. -/
def gib : Nat := 2 ^ 30

/-- N of NEAR_GIB (R273). -/
def Dev.nearGib (d : Dev) : Nat := fld (d.reg 0xC0000) 0 6

/-- The length of the spread range (R244). -/
def Dev.spreadLen (d : Dev) : Nat := gib * (4 * (48 - d.nearGib))

/-- The base of the near window of a die (R244). -/
def nearBase (die : Nat) : Nat := 0x4000000000 + die * 0x1000000000

/-- An address names host memory (R244). -/
def isHost (a : Nat) : Bool := a / 2 ^ 63 % 2 == 1

/-- The near window an address lies in. -/
def Dev.nearDie (d : Dev) (a : Nat) : Option Nat :=
  (List.range 4).find? (fun i => decide (nearBase i ≤ a) && decide (a < nearBase i + gib * d.nearGib))

/-- [base, base + len) lies wholly within one range of Table: Device address map. -/
def Dev.inOneRange (d : Dev) (base len : Nat) : Bool :=
  if isHost base then decide (base + len ≤ 2 ^ 64)
  else decide (base + len ≤ d.spreadLen) ||
    (List.range 4).any (fun i => decide (nearBase i ≤ base) && decide (base + len ≤ nearBase i + gib * d.nearGib))

/-- A byte that the host returned, a free byte where the step was given none (log entry 4). -/
def hostByte : HostData → Nat → Byte
  | [], a => (Config.free 1 a).setWidth 8
  | (b, bs) :: r, a => if b ≤ a ∧ a < b + bs.length then bs.getD (a - b) 0 else hostByte r a

/-- `n` bytes of host memory, as the host returned them. -/
def hostBytes (h : HostData) (a n : Nat) : Bytes := (List.range n).map (fun i => hostByte h (a + i))

/-- `n` bytes from a device or host address. -/
def readAny (m : Sparse Byte) (h : HostData) (a n : Nat) : Bytes :=
  if isHost a then hostBytes h a n else readMem m a n

/-- A write as requests of at most `mps` bytes that cross no 4 KiB boundary (R311). -/
def hostRequests (fn mps : Nat) : Nat → Nat → Bytes → List HostWr
  | 0, _, _ => []
  | n + 1, a, bs =>
    if bs.isEmpty then []
    else
      let k := max 1 (min mps (4096 - a % 4096))
      ⟨fn, a, bs.take k⟩ :: hostRequests fn mps n (a + k) (bs.drop k)

/-- The home requests of an engine that reads or writes `n` bytes of device memory line by line (R252, R477). -/
def Dev.chargeLines (d : Dev) (p a n : Nat) : Dev :=
  if isHost a || n = 0 then d else d.charge p 11 ((a + n + 127) / 128 - a / 128)

/-- Posted writes to host memory (R311, R312, R571). -/
def Dev.toHostMem (d : Dev) (fn a : Nat) (bs : Bytes) : Dev :=
  { d with toHost := d.toHost ++ hostRequests fn d.mps bs.length a bs }

/-! ### Partitions and functions (R313, R571) -/

/-- The function that owns partition `p`: VF p + 1 with NumVFs 16, the PF otherwise. -/
def Dev.fnOf (d : Dev) (p : Nat) : Nat := if d.vfs then p + 1 else 0

/-- The vector count of a function (R314). -/
def vectors (fn : Nat) : Nat := if fn = 0 then 1024 else 64

/-- At least one EN of the partition's rings is set (R351). -/
def Dev.live (d : Dev) (p : Nat) : Bool :=
  (List.range 16).any (fun k => flag (d.reg (0x40000 + 0x1000 * p + 0x80 * k + 0x08)) 8) ||
  (List.range 19).any (fun k => flag (d.reg (0x40000 + 0x1000 * p + 0x80 * k + 0x28)) 8) ||
  flag (d.reg (0x80000 + 0x1000 + 0x40 * p + 0x0C)) 0

/-- Some partition's rings are live. -/
def Dev.anyLive (d : Dev) : Bool := (List.range 16).any d.live

/-! ### Events (R342, R343) -/

/-- No event held. -/
def evqReset : Nat → EvQ := fun _ => ⟨[], [], 0, 0, 0⟩

/-- The holding queue of an event ring: 0 to 15 the partitions', 16 the PF's. -/
def Dev.evQ (d : Dev) (r : Nat) : EvQ := Sparse.get evqReset d.evq r

/-- Replace a holding queue. -/
def Dev.setEvQ (d : Dev) (r : Nat) (q : EvQ) : Dev := { d with evq := Sparse.put evqReset d.evq r q }

/-- Recall events, check-failure events with FINAL set and ring-error events are never dropped (R343). -/
def undroppable (e : Bytes) : Bool :=
  let ty := fieldAt e 0 1
  ty == 0x21 || ty == 0x10 || (ty == 0x20 && bitAt (fieldAt e 1 1) 1)

/-- The unit that raises an event, by the ranges of Table: Event types. -/
def evUnit (e : Bytes) : Nat := fieldAt e 0 1 / 16

/-- A list without its first element that meets `p`. -/
def eraseFirst {α : Type} (p : α → Bool) : List α → List α
  | [] => []
  | x :: r => if p x then r else x :: eraseFirst p r

/-- The offset of EVT_LOST of an event ring (R350, R351). -/
def evtLostOff (r : Nat) : Nat := if r < 16 then 0x40000 + 0x1000 * r + 0xF0C else 0x50F0C

/-- Count a dropped event (R343). -/
def Dev.dropEvent (d : Dev) (k : Clk) (r : Nat) : Dev :=
  let q := d.evQ r
  let q' := if q.lost = 0 then { q with lost := 1, lostBeat := k.beat, lostNotch := k.notch }
            else { q with lost := min (q.lost + 1) 0xFFFFFFFF }
  (d.setEvQ r q').bump (evtLostOff r)

/-- Raise an event to an event ring's holding queue (R343). -/
def Dev.raise (d : Dev) (k : Clk) (r : Nat) (e : Bytes) : Dev :=
  let q := d.evQ r
  if q.src.any (fun x => evUnit x == evUnit e) then d.setEvQ r { q with src := q.src ++ [e] }
  else if q.q.length < 64 then d.setEvQ r { q with q := q.q ++ [e] }
  else if q.q.any (fun x => !undroppable x) then
    (d.setEvQ r { q with q := eraseFirst (fun x => !undroppable x) q.q ++ [e] }).dropEvent k r
  else if undroppable e then d.setEvQ r { q with src := q.src ++ [e] }
  else d.dropEvent k r

/-- An event of the common layout: type, bytes 1 to 3, bytes 4 to 7, bytes 8 to 15, then beat and notch (R57, R79, R492). -/
def event (k : Clk) (ty b1 b2 b3 w4 w8 : Nat) : Bytes :=
  le 1 ty ++ le 1 b1 ++ le 1 b2 ++ le 1 b3 ++ le 4 w4 ++ le 8 w8 ++ le 8 k.beat ++ le 2 k.notch ++ zeros 6

/-- The PF's event ring among the holding queues. -/
def pfRing : Nat := 16

/-! ### Rings (R318 to R340) -/

/-- The number of a device-produced ring in the state. -/
def devRingNo : DevRing → Nat
  | .completion p k => 16 * p.val + k.val
  | .receipt p => 256 + p.val
  | .event p => 272 + p.val
  | .progress p => 288 + p.val
  | .seal p => 304 + p.val
  | .pfEvent => 320

/-- The partition of a device-produced ring, none for the PF's. -/
def ringPart (r : Nat) : Option Nat :=
  if r < 256 then some (r / 16) else if r < 320 then some (r % 16) else none

/-- Number of the ring that holds an event queue's entries. -/
def evRingNo (r : Nat) : Nat := if r < 16 then 272 + r else 320

/-- A ring as reset leaves it. -/
def drReset : Nat → DRing := fun _ => ⟨0, true, 0, false, 0, false, false, false, none, 0, none, []⟩

/-- A submission ring as reset leaves it. -/
def srReset : Nat → SRing := fun _ => ⟨0, 0, false, 0, false, false, false, none, 0, 0, false, [], false⟩

/-- A device-produced ring. -/
def Dev.dring (d : Dev) (r : Nat) : DRing := Sparse.get drReset d.dr r

/-- Replace a device-produced ring. -/
def Dev.setDring (d : Dev) (r : Nat) (x : DRing) : Dev := { d with dr := Sparse.put drReset d.dr r x }

/-- A submission ring, by 16p + k. -/
def Dev.sring (d : Dev) (r : Nat) : SRing := Sparse.get srReset d.sr r

/-- Replace a submission ring. -/
def Dev.setSring (d : Dev) (r : Nat) (x : SRing) : Dev := { d with sr := Sparse.put srReset d.sr r x }

/-- The offset of a device-produced ring's registers: its slot, or the seal ring's in CHK (R98, R350). -/
def drBaseOff (r : Nat) : Nat :=
  if r < 256 then 0x40000 + 0x1000 * (r / 16) + 0x80 * (r % 16)
  else if r < 272 then 0x40000 + 0x1000 * (r % 16) + 0x80 * 16
  else if r < 288 then 0x40000 + 0x1000 * (r % 16) + 0x80 * 17
  else if r < 304 then 0x40000 + 0x1000 * (r % 16) + 0x80 * 18
  else if r < 320 then 0x81000 + 0x40 * (r % 16)
  else 0x50000

/-- A ring number is a seal ring's. -/
def isSealRing (r : Nat) : Bool := decide (304 ≤ r) && decide (r < 320)

/-- The offset of a device-produced ring's configuration register, which holds EN. -/
def drCfgOff (r : Nat) : Nat := if isSealRing r then drBaseOff r + 0x0C else drBaseOff r + 0x28

/-- EN of a device-produced ring. -/
def Dev.drEn (d : Dev) (r : Nat) : Bool := flag (d.reg (drCfgOff r)) (if isSealRing r then 0 else 8)

/-- Its size exponent n. -/
def Dev.drN (d : Dev) (r : Nat) : Nat :=
  if isSealRing r then fld (d.reg (drBaseOff r + 0x08)) 0 4 else fld (d.reg (drBaseOff r + 0x28)) 0 5

/-- Its base address. -/
def Dev.drAddr (d : Dev) (r : Nat) : Nat := if isSealRing r then d.reg64 (drBaseOff r) else d.reg64 (drBaseOff r + 0x20)

/-- Its release record's address. -/
def Dev.drRel (d : Dev) (r : Nat) : Nat := if isSealRing r then d.reg64 (drBaseOff r + 0x20) else d.reg64 (drBaseOff r + 0x30)

/-- INT_EN of its configuration. -/
def Dev.drInt (d : Dev) (r : Nat) : Bool := flag (d.reg (drCfgOff r)) (if isSealRing r then 1 else 9)

/-- Its MOD register. -/
def Dev.drMod (d : Dev) (r : Nat) : Word := d.reg (if isSealRing r then drBaseOff r + 0x28 else drBaseOff r + 0x2C)

/-- MOD_CNT, 0 read as 1 (R340). -/
def Dev.drModCnt (d : Dev) (r : Nat) : Nat := max 1 (fld (d.drMod r) 0 8)

/-- MOD_DLY. -/
def Dev.drModDly (d : Dev) (r : Nat) : Nat := fld (d.drMod r) 8 16

/-- The bytes of one entry (R318). -/
def drEntry (r : Nat) : Nat :=
  if r < 256 then 32 else if r < 272 then 128 else if r < 288 then 32 else if r < 304 then 16 else if r < 320 then 256 else 32

/-- The function a ring belongs to. -/
def Dev.ringFn (d : Dev) (r : Nat) : Nat := match ringPart r with
  | some p => d.fnOf p
  | none => 0

/-- A host ring of 2ⁿ entries is full (R14). -/
def ringFull (n prod cons : Nat) : Bool := (prod + 1) % 2 ^ n == cons

/-- The ring has room for an entry: enabled, not halted, not full (R324, R339). -/
def Dev.drRoom (d : Dev) (r : Nat) : Bool :=
  d.drEn r && !(d.dring r).err && !ringFull (d.drN r) (d.dring r).prod (d.dring r).cons

/-- The byte and bit of an entry that hold its phase (R338). -/
def phasePos (r : Nat) : Nat × Nat :=
  if 256 ≤ r ∧ r < 272 then (28, 7) else if isSealRing r then (35, 0) else (1, 0)

/-- An entry with its phase bit written. -/
def withPhase (r : Nat) (ph : Bool) (bs : Bytes) : Bytes :=
  let (o, b) := phasePos r
  let x := fieldAt bs o 1
  overwrite bs o (le 1 (x - bitsAt x b 1 * 2 ^ b + b2n ph * 2 ^ b))

/-- Raise the ring's vector and clear what was not signalled (R340). -/
def Dev.interrupt (d : Dev) (r : Nat) : Dev :=
  let vec := fld (d.reg (drCfgOff r)) 16 11
  { d.setDring r { d.dring r with unsig := 0, since := none } with msix := d.msix ++ [(d.ringFn r, vec)] }

/-- Write an entry into a device-produced ring that has room, with its interrupt (R338, R340). -/
def Dev.drWrite (d : Dev) (r : Nat) (bs : Bytes) (intr : Bool) : Dev :=
  let x := d.dring r
  let n := d.drN r
  let d1 := d.toHostMem (d.ringFn r) (d.drAddr r + drEntry r * x.prod) (withPhase r x.phase bs)
  let p' := (x.prod + 1) % 2 ^ n
  let x' := { x with prod := p', phase := (if p' = 0 then !x.phase else x.phase), unsig := x.unsig + 1,
                     since := (match x.since with | some c => some c | none => some 0) }
  let d2 := d1.setDring r x'
  if d.drInt r && (intr || decide (d.drModCnt r ≤ x'.unsig)) then d2.interrupt r else d2

/-- A ring-error event (R344). -/
def ringErrEvent (k : Clk) (cause ring kind idx dev seq : Nat) : Bytes :=
  le 1 0x10 ++ zeros 1 ++ le 1 cause ++ le 1 (ring % 16 + kind % 8 * 16) ++ le 2 idx ++ le 2 dev ++ le 4 seq ++ zeros 4 ++
    le 8 k.beat ++ le 2 k.notch ++ zeros 6

/-- The kind code of a device-produced ring in a ring-error event. -/
def drKind (r : Nat) : Nat :=
  if r < 256 then 1 else if r < 272 then 2 else if r < 288 then 3 else if r < 304 then 4 else if r < 320 then 5 else 3

/-- Halt a device-produced ring's producer side: RING_ERR and a ring-error event (R324). -/
def Dev.drHalt (d : Dev) (k : Clk) (r cause idx seq : Nat) : Dev :=
  let x := d.dring r
  let d1 := d.setDring r { x with err := true, retry := false, torn := false, reading := false }
  d1.raise k (match ringPart r with | some p => p | none => pfRing)
    (ringErrEvent k cause (if r < 256 then r % 16 else 0) (drKind r) idx x.prod seq)

/-- Halt a submission ring: nothing more is fetched, RING_ERR and a ring-error event (R323). -/
def Dev.srHalt (d : Dev) (k : Clk) (r cause idx seq : Nat) : Dev :=
  let x := d.sring r
  let d1 := d.setSring r { x with err := true, retry := false, torn := false, reading := false }
  d1.raise k (r / 16) (ringErrEvent k cause (r % 16) 0 idx x.cons seq)

/-- The offset of a submission ring's slot registers. -/
def srOff (r : Nat) : Nat := 0x40000 + 0x1000 * (r / 16) + 0x80 * (r % 16)

/-- EN of a submission ring. -/
def Dev.srEn (d : Dev) (r : Nat) : Bool := flag (d.reg (srOff r + 0x08)) 8

/-- Its size exponent. -/
def Dev.srN (d : Dev) (r : Nat) : Nat := fld (d.reg (srOff r + 0x08)) 0 5

/-- Its engine. -/
def Dev.srEngine (d : Dev) (r : Nat) : Nat := fld (d.reg (srOff r + 0x08)) 12 4

/-! ### Commands in flight -/

/-- The command of a model number. -/
def Dev.cmd (d : Dev) (cid : Nat) : Option Cmd := d.cmds.find? (fun c => c.cid == cid)

/-- Replace the command of the same model number. -/
def Dev.setCmd (d : Dev) (c : Cmd) : Dev := { d with cmds := d.cmds.map (fun x => if x.cid = c.cid then c else x) }

/-- Change the command of a model number. -/
def Dev.onCmd (d : Dev) (cid : Nat) (f : Cmd → Cmd) : Dev :=
  { d with cmds := d.cmds.map (fun x => if x.cid = cid then f x else x) }

/-- Remove a command. -/
def Dev.dropCmd (d : Dev) (cid : Nat) : Dev := { d with cmds := d.cmds.filter (fun x => x.cid != cid) }

/-- The commands of a partition. -/
def Dev.cmdsOf (d : Dev) (p : Nat) : List Cmd := d.cmds.filter (fun c => c.part == p)

/-- Opcode of a descriptor (R330). -/
def Cmd.op (c : Cmd) : Nat := fieldAt c.desc 0 1
/-- Priority class. -/
def Cmd.cls (c : Cmd) : Nat := bitsAt (fieldAt c.desc 1 1) 4 2
/-- Flags. -/
def Cmd.flags (c : Cmd) : Nat := fieldAt c.desc 2 2
/-- Client. -/
def Cmd.client (c : Cmd) : Nat := fieldAt c.desc 4 1
/-- Tag. -/
def Cmd.tag (c : Cmd) : Nat := fieldAt c.desc 8 8

/-! ### Tallies (R11, R371) -/

/-- A tally's count. -/
def Dev.tallyOf (d : Dev) (p i : Nat) : Nat := Sparse.get (fun _ => 0) d.tally (4096 * p + i)

/-- Set a tally. -/
def Dev.setTally (d : Dev) (p i v : Nat) : Dev := { d with tally := Sparse.put (fun _ => 0) d.tally (4096 * p + i) (v % 2 ^ 64) }

/-- A wait on target `t` is satisfied by count `c` (R11). -/
def waitMet (c t : Nat) : Bool := decide ((c + 2 ^ 64 - t % 2 ^ 64) % 2 ^ 64 < 2 ^ 63)

/-! ### Clients (R388) -/

/-- Key of a client's counter `j`: 0 launched, 1 committed, 2 felled, 3 window, 4 overflow bits. -/
def clientKey (p c j : Nat) : Nat := (256 * p + c) * 8 + j

/-- A client counter. -/
def Dev.clientCnt (d : Dev) (p c j : Nat) : Word := Sparse.get (fun _ => 0) d.client (clientKey p c j)

/-- Set a client counter. -/
def Dev.setClient (d : Dev) (p c j : Nat) (w : Word) : Dev :=
  { d with client := Sparse.put (fun _ => 0) d.client (clientKey p c j) w }

/-- One event at a client counter (R9, R388). -/
def Dev.bumpClient (d : Dev) (p c j : Nat) : Dev :=
  if d.clientCnt p c j = 0xFFFFFFFF then d.setClient p c 4 (d.clientCnt p c 4 ||| BitVec.ofNat 32 (2 ^ j))
  else d.setClient p c j (d.clientCnt p c j + 1)

/-! ### Buffers (R346) -/

/-- No entry. -/
def bufReset : Nat → BufEnt := fun _ => ⟨0, 0, false, false, false, false, false⟩

/-- A buffer-table entry. -/
def Dev.buf (d : Dev) (p h : Nat) : BufEnt := Sparse.get bufReset d.bufs (4096 * p + h)

/-- Replace a buffer-table entry. -/
def Dev.setBuf (d : Dev) (p h : Nat) (e : BufEnt) : Dev := { d with bufs := Sparse.put bufReset d.bufs (4096 * p + h) e }

/-- The entry that 32 staged bytes describe. -/
def bufOfBytes (bs : Bytes) : BufEnt :=
  let f := fieldAt bs 16 1
  ⟨fieldAt bs 0 8, fieldAt bs 8 5, bitAt f 0, bitAt f 1, bitAt f 2, bitAt f 3, bitAt f 4⟩

/-- The 32 bytes of an entry. -/
def bufToBytes (e : BufEnt) : Bytes :=
  le 8 e.base ++ le 8 e.len ++ le 1 (b2n e.valid + 2 * b2n e.ro + 4 * b2n e.sealed + 8 * b2n e.narrow + 16 * b2n e.near) ++ zeros 15

end Sys2Proof.Machine
end

