-- ==== Sys2Proof/Machine/Beat.lean ====
section
/-! DEFINITION. The beat unit: period learning, edges, holdover, boundaries, notches and their distribution (R34 to R62). -/

namespace Sys2Proof.Machine

/-! ### Operations of the beat unit -/

/-- The package takes its beats from the links (R34). -/
def BeatUnit.fromLinks (u : BeatUnit) : Bool := decide (u.src = 2) || (decide (u.src = 0) && decide (u.role = .member))

/-- SRC forces the source that the role does not choose (R34). -/
def BeatUnit.against (u : BeatUnit) : Bool :=
  (decide (u.src = 1) && decide (u.role = .member)) || (decide (u.src = 2) && decide (u.role ≠ .member))

/-- A beat event on the PF's event ring (R57). -/
def State.beatEvent (s : State) (ty e cause w4 w8 : Nat) : State :=
  let u := s.beat
  let ev := event s.clk ty (2 * e + 4 * b2n u.fromLinks) cause (if u.fromLinks then u.port.val else 0) w4 w8
  { s with dev := s.dev.raise s.clk pfRing ev }

/-- SRC_CONFLICT is re-evaluated; its event is raised each time it sets (R57, R62). -/
def State.reconflict (s : State) : State :=
  let s' := { s with beat := { s.beat with conflict := s.beat.against } }
  if s.beat.against && !s.beat.conflict then s'.beatEvent 0x08 0 0 0 0 else s'

/-- D in ticks of the timebase, rounded up: 1 ns is 1.6 ticks (R34, R48). -/
def delayTicks (ns : Nat) : Nat := cdiv (ns * 8) 5

/-- The delay from a decision of this package to its boundary: the stand delay on the lead, none on a member, whose
arrivals are compensated already, or in a stand of one (R48). -/
def State.fireDelay (s : State) : Nat :=
  if s.beat.role = .lead then delayTicks (s.dev.regN 0x10028) else 0

/-- Boundaries decided and not yet begun. -/
def BeatUnit.ahead (u : BeatUnit) : Nat := u.fires.length + b2n u.fired.isSome

/-- The beat number after `n` more boundaries (R39, R52, R61). -/
def BeatUnit.numAhead (u : BeatUnit) : Nat → Nat
  | 0 => u.num
  | n + 1 =>
    if u.counted || decide (u.num ≠ 0) || u.fromLinks then (u.num + n + 1) % 2 ^ 64
    else (u.base.toNat + n) % 2 ^ 64

/-- The number of the beat whose boundary was decided last. -/
def BeatUnit.decidedNum (u : BeatUnit) : Nat := u.numAhead u.ahead

/-- The ports that are up (R447). -/
def Dev.upPorts (d : Dev) : List Nat := (List.range 6).filter (fun p => fld (d.reg (0xE0104 + 0x20 * p)) 0 3 == 2)

/-- A beat symbol (R420). -/
def beatSym (hop num lat flags ins : Nat) : Bytes :=
  let b := le 1 1 ++ le 1 hop ++ le 2 num ++ le 3 lat ++ le 1 flags ++ le 1 ins ++ zeros 5
  b ++ le 2 (crc16 b)

/-- Send a symbol on ports. -/
def Dev.sendSym (d : Dev) (ports : List Nat) (sym : Bytes) : Dev :=
  { d with toLink := d.toLink ++ ports.map (fun p => .sym p sym) }

/-- A decided boundary: the lead's symbols leave, and the boundary waits to be fired (R40, R48). -/
def State.decideAt (s : State) (tick b16 : Nat) (w : Option Win) (conf : Bool) : State :=
  let u := s.beat
  let dl := s.fireDelay
  let u' := { u with b16 := b16, win := w, extraPrev := u.extraBeat, extraBeat := false,
                     fires := u.fires ++ [⟨tick + dl, b16 + 16 * dl, conf⟩] }
  let d' := if u.role = .member then s.dev else
    s.dev.sendSym s.dev.upPorts (beatSym 0 (u'.decidedNum % 2 ^ 16) 0 (b2n (decide (u.st = .holdover)) * 3) 0)
  { s with beat := u', dev := d' }

/-- The decided beat is synthesised: it counts, and its run starts or grows (R42, R44). -/
def State.synth (s : State) : State :=
  let u := s.beat
  let u1 := { u with miss := min (u.miss + 1) 127 }
  let s1 := { s with dev := s.dev.bump 0x10030 }
  match u.run with
  | some (f, n) => { s1 with beat := { u1 with run := some (f, n + 1) } }
  | none => State.beatEvent { s1 with beat := { u1 with run := some (u.decidedNum, 1) } } 0x02 0 0 0 u.decidedNum

/-- Holdover begins (R44): a window still open closes as synthesised. Entered for a source change even from holdover (R62). -/
def State.toHoldover (s : State) (cause : Nat) : State :=
  if s.beat.st = .holdover ∧ cause ≠ 2 then s else
  let s1 := match s.beat.win with
    | some w => if w.acc then s else s.synth
    | none => s
  let u := s1.beat
  let le' := if cause = 2 then none else u.lastEdge
  let u1 := { u with st := .holdover, win := none, learn := none, lastEdge := le' }
  State.beatEvent { s1 with beat := u1 } 0x04 0 cause (u.p16 % 2 ^ 32) 0

/-- An accepted edge: runs reset, a synthesis run ends, SILENT clears (R41, R42, R43). -/
def State.acceptEdge (s : State) (e : Nat) (endedExtra : Bool) : State :=
  let u := s.beat
  let u1 := { u with miss := 0, anom := (if endedExtra then u.anom else 0), run := none, silent := false, lastAcc := e }
  match u.run with
  | some (f, n) => State.beatEvent { s with beat := u1 } 0x02 1 0 (min n 0xFFFFFFFF) f
  | none => { s with beat := u1 }

/-- P ← P + (interval − P) ÷ 64 in 1/16 tick, to the nearest multiple with ties to the even one (R38). -/
def updateP (p16 interval : Nat) : Nat :=
  let x := 63 * p16 + 16 * interval
  let q := x / 64
  let r := x % 64
  if 2 * r > 64 ∨ (2 * r = 64 ∧ q % 2 = 1) then q + 1 else q

/-- One qualified edge of a learning run (R37): the run it leaves, or the learned period in 1/16 tick once complete.
The mean of 16 intervals in 1/16 tick is their sum. -/
def learnStep (l : Option Learn) (iv : Nat) : Option Learn × Option Nat :=
  if 8000 ≤ iv ∧ iv ≤ 1600000 then
    match l with
    | none => (some ⟨iv, 1, iv⟩, none)
    | some r =>
      if 100 * (max iv r.first - min iv r.first) ≤ r.first then
        if r.cnt + 1 = 16 then (none, some (r.sum + iv)) else (some ⟨r.first, r.cnt + 1, r.sum + iv⟩, none)
      else (none, none)
  else (none, none)

/-- An extra edge: ignored, and an anomaly (R40); the eighth begins holdover (R44). -/
def State.extraEdge (s : State) : State :=
  let u := s.beat
  let s1 := { s with beat := { u with extraBeat := true, anom := min (u.anom + 1) 15 }, dev := s.dev.bump 0x10034 }
  if s1.beat.anom ≥ 8 then s1.toHoldover 0 else s1

/-- An early edge: the next boundary occurs at it (R40). -/
def State.earlyEdge (s : State) (e : Nat) : State :=
  let u := s.beat
  let w : Win := ⟨u.b16 + u.p16, u.p16, true⟩
  let p' := match u.curEdge with
    | some c => updateP u.p16 (e - c)
    | none => u.p16
  let s1 := { s with beat := { u with p16 := p', prevEdge := u.curEdge, curEdge := some e } }
  (s1.decideAt e (16 * e) (some w) true).acceptEdge e u.extraBeat

/-- BEAT_OUT goes high where OUT_EN and the conditions of R53 hold. -/
def BeatUnit.pulse (u : BeatUnit) (t : Nat) (conf : Bool) : BeatUnit :=
  if u.outEn && (u.outSyn || conf) then { u with out := some t } else u

/-- The notches of the beat last decided move to a new phase reference (R40). -/
def BeatUnit.rephase (u : BeatUnit) (ph16 : Nat) : BeatUnit :=
  if u.fires ≠ [] then
    { u with fires := u.fires.dropLast ++ (match u.fires.getLast? with | some f => [{ f with ph16 := ph16 }] | none => []) }
  else match u.fired with
    | some f => { u with fired := some { f with ph16 := ph16 } }
    | none => { u with n16 := ph16 }

/-- A late edge confirms the boundary issued at T and becomes the phase reference (R40). -/
def State.lateEdge (s : State) (e : Nat) (w : Win) : State :=
  let u := s.beat
  let p' := match u.prevEdge with
    | some c => updateP u.p16 (e - c)
    | none => u.p16
  let u1 := { u with p16 := p', curEdge := some e, b16 := 16 * e, win := some { w with acc := true } }
  let u2 := u1.rephase (16 * (e + s.fireDelay))
  let u3 := if u2.outEn && !u2.outSyn then { u2 with out := some e } else u2
  State.acceptEdge { s with beat := u3 } e u.extraPrev

/-- The edge that completes learning: the unit locks, and the edge is the phase reference (R37). -/
def State.lockAt (s : State) (e p16 : Nat) : State :=
  let u := s.beat
  let u1 : BeatUnit :=
    { u with
      st := .locked, p16 := p16, b16 := 16 * e, curEdge := some e, prevEdge := none,
      anom := 0, extraBeat := false, extraPrev := false, win := none, learn := none, ever := u.ever || !u.fromLinks }
  State.acceptEdge { s with beat := u1 } e false

/-- The edge that completes re-learning ends holdover (R45): early in notches 512 to 1023, late in 0 to 511. -/
def State.relockAt (s : State) (e p16 : Nat) : State :=
  let u := s.beat
  let u1 := { u with st := .locked, p16 := p16, curEdge := some e, prevEdge := none, anom := 0, win := none, learn := none }
  let s1 : State :=
    if u.counted && decide (u.notch ≥ 512) then State.decideAt { s with beat := u1 } e (16 * e) none true
    else { s with beat := ({ u1 with b16 := 16 * e }).rephase (16 * (e + s.fireDelay)) }
  (s1.acceptEdge e false).beatEvent 0x05 0 0 (p16 % 2 ^ 32) 0

/-- The source port of a member: the up port of the smallest hop count, the lowest number on a tie (R50). -/
def BeatUnit.bestPort (u : BeatUnit) (up : List Nat) : Option Nat :=
  (List.range 6).foldl (fun best p =>
    if up.contains p && (u.portHops.any (fun e => e.1 == p)) then
      match best with
      | none => some p
      | some b => if Sparse.get (fun _ => 0) u.portHops p < Sparse.get (fun _ => 0) u.portHops b then some p else best
    else best) none

/-- What waits for a boundary happens at it: a source change (R62), a change of source port (R50). -/
def State.atBoundary (s : State) : State :=
  let u := s.beat
  let u1 := match u.bestPort s.dev.upPorts with
    | some p => { u with port := Fin.ofNat 6 p, hops := Sparse.get (fun _ => 0) u.portHops p }
    | none => u
  match u1.pendSrc with
  | none => { s with beat := u1 }
  | some x =>
    if x = u1.src then { s with beat := { u1 with pendSrc := none } }
    else (State.reconflict { s with beat := { u1 with pendSrc := none, src := x } }).toHoldover 2

/-- The boundary predicted at T occurs with no edge before it (R40); in holdover it is a synthesised beat (R44). -/
def State.predictAt (s : State) : State :=
  let u := s.beat
  let t16 := u.b16 + u.p16
  let w : Option Win := if u.st = .locked then some ⟨t16, u.p16, false⟩ else none
  let s1 := { s with beat := { u with prevEdge := u.curEdge, curEdge := none } }
  let s2 := s1.decideAt (cdiv t16 16) t16 w false
  (if u.st = .holdover then s2.synth else s2).atBoundary

/-- The unit predicts boundaries: locked or in holdover. -/
def BeatUnit.predicts (u : BeatUnit) : Bool := decide (u.st = .locked) || decide (u.st = .holdover)

/-- The predicted boundary is due at tick `t`: the first tick at or after T. -/
def BeatUnit.due (u : BeatUnit) (t : Nat) : Bool := u.predicts && decide (u.b16 + u.p16 ≤ 16 * t)

/-- The window has closed by tick `t`: with no edge accepted, the boundary is synthesised (R40, R44). -/
def State.closeWindow (s : State) (t : Nat) : State :=
  match s.beat.win with
  | none => s
  | some w =>
    if 128 * t ≤ 8 * w.t16 + w.p16 then s
    else
      let s1 := { s with beat := { s.beat with win := none } }
      if w.acc then s1
      else
        let s2 := s1.synth
        if s2.beat.miss ≥ 64 then s2.toHoldover 1 else s2

/-- A qualified edge of the source in effect, at tick `e` (R36 to R45). -/
def State.edgeAt (s : State) (e : Nat) : State :=
  let u := s.beat
  match u.st with
  | .off => s
  | .unlocked | .holdover =>
    let iv := match u.lastEdge with
      | some l => e - l
      | none => 0
    let (l', p) := learnStep u.learn iv
    let s1 := { s with beat := { u with lastEdge := some e, learn := l' } }
    match p with
    | none => s1
    | some p16 => if u.st = .unlocked then s1.lockAt e p16 else s1.relockAt e p16
  | .locked =>
    let s1 := { s with beat := { u with lastEdge := some e } }
    match u.win with
    | some w =>
      if 128 * e ≤ 8 * w.t16 + w.p16 then (if w.acc then s1.extraEdge else s1.lateEdge e w)
      else if 8 * (u.b16 + u.p16) ≤ 128 * e + u.p16 then s1.earlyEdge e else s1.extraEdge
    | none => if 8 * (u.b16 + u.p16) ≤ 128 * e + u.p16 then s1.earlyEdge e else s1.extraEdge

/-- What fell due before tick `t` happens first: the window closes, the predicted boundary occurs. -/
def State.beatUpTo (s : State) (t : Nat) : State :=
  let s1 := s.closeWindow t
  if s1.beat.due t then s1.predictAt else s1

/-- Time moves to tick `t` on the device side. -/
def State.at (s : State) (t : Nat) : State := { s with dev := s.dev.at t }

/-- The party that is to become lead learns its own BEAT_IN while it goes on counting beats from its links (R37, R428). -/
def Dev.swapEdge (d : Dev) (t : Nat) : Dev :=
  match d.net.swap with
  | none => d
  | some w =>
    if w.isA || w.p16.isSome then d
    else
      let iv := match w.lastEdge with
        | some l => t - l
        | none => 0
      let (l', p) := learnStep w.learn iv
      { d with net := { d.net with swap := some { w with lastEdge := some t, learn := l', p16 := p } } }

/-- A qualified edge, or the compensated arrival that stands for one (R36, R50). -/
def State.takeEdge (s : State) (t : Nat) : State :=
  if !s.beat.powered || decide (s.beat.st = .off) then s.at t
  else if s.beat.fromLinks then
    match s.beat.comp with
    | [] => (s.at t).onDev (fun d => d.swapEdge t)
    | c :: r =>
      if c ≤ t then State.edgeAt (State.beatUpTo { s.at t with beat := { s.beat with comp := r } } c) c
      else (s.at t).onDev (fun d => d.swapEdge t)
  else ((s.at t).beatUpTo t).edgeAt t

/-! ### Control (R58 to R62) -/

/-- The package's rings: some partition's are live. -/
def State.anyLive (s : State) : Bool := s.dev.anyLive

/-- The beat unit stops at once (R60). -/
def State.stopBeat (s : State) : State :=
  let u := s.beat
  let keep := s.anyLive
  let u1 : BeatUnit :=
    { u with
      en := false, st := .off, fires := [], fired := none, out := none, win := none, comp := [],
      counted := false, ever := u.ever && keep, num := (if keep then u.num else 0),
      notch := (if keep then u.notch else 0), learn := none, lastEdge := none, run := none }
  { s with beat := u1 }

/-- Learning starts afresh at tick `t` from the selected source (R61). -/
def State.startBeat (s : State) (t : Nat) : State :=
  let u := s.beat
  let u1 : BeatUnit :=
    { u with
      en := true, st := .unlocked, learn := none, lastEdge := none, silent := false,
      anom := 0, miss := 0, run := none, src := u.srcSel, pendSrc := none, enAt := t, noLockSaid := false, curEdge := none,
      prevEdge := none, win := none }
  State.reconflict { s with beat := u1 }

/-- A changed SRC takes effect: at the next boundary while locked or in holdover, at once while unlocked (R62). -/
def State.changeSrc (s : State) (x : BitVec 2) : State :=
  let u := s.beat
  match u.st with
  | .locked | .holdover => { s with beat := { u with srcSel := x, pendSrc := some x } }
  | .unlocked => State.reconflict { s with beat := { u with srcSel := x, src := x, learn := none, lastEdge := none } }
  | .off => { s with beat := { u with srcSel := x } }

/-- A write of BEAT_CTRL (R58): SRC 0b11 is refused; then the fields take effect. -/
def State.beatCtrlWrite (s : State) (path : Path) (v : Word) (t : Nat) : State :=
  if fld v 1 2 = 3 then { s with dev := s.dev.refuse path 0x10000 1 }
  else
    let u := s.beat
    let x := BitVec.ofNat 2 (fld v 1 2)
    let s1 := { s with beat := { u with outEn := flag v 3, outSyn := flag v 4, out := (if flag v 3 then u.out else none) } }
    let s2 := if x = u.srcSel then s1 else s1.changeSrc x
    if flag v 0 && !u.en then (if u.powered then s2.startBeat t else { s2 with beat := { s2.beat with en := true } })
    else if !flag v 0 && u.en then s2.stopBeat
    else s2

/-- A write of one word of BEAT_BASE: accepted only while unlocked or off with a held beat number of 0 (R59). -/
def State.beatBaseWrite (s : State) (path : Path) (hi : Bool) (v : Word) : State :=
  let u := s.beat
  if (u.st = .unlocked ∨ u.st = .off) ∧ u.num = 0 then
    { s with beat := { u with base := (if hi then v ++ u.base.setWidth 32 else (u.base >>> 32).setWidth 32 ++ v) } }
  else { s with dev := s.dev.refuse path (if hi then 0x10024 else 0x10020) 2 }

/-- BEAT_CTRL as it reads. -/
def BeatUnit.ctrl (u : BeatUnit) : Nat := b2n u.en + 2 * u.srcSel.toNat + 8 * b2n u.outEn + 16 * b2n u.outSyn

/-- The code of BEAT_STATUS.STATE. -/
def BeatSt.code : BeatSt → Nat
  | .unlocked => 0
  | .locked => 1
  | .holdover => 2
  | .off => 3

/-- BEAT_STATUS as it reads (R58). -/
def BeatUnit.status (u : BeatUnit) : Nat :=
  u.st.code + 8 * b2n u.silent + 16 * b2n u.fromLinks + 32 * b2n u.conflict +
    (if u.fromLinks then 256 * (u.hops % 256) + 65536 * u.port.val else 0)

/-! ### Distribution (R48 to R52) -/

/-- The mean hop latency of a port, in ticks (R421, R447). -/
def Dev.hopLat (d : Dev) (port : Nat) : Nat := fld (d.reg (0xE0108 + 0x20 * port)) 0 24

/-- A control symbol that arrived whole: 16 bytes with a matching CRC-16 (R420). -/
def symOk (sym : Bytes) : Bool := sym.length == 16 && fieldAt sym 14 2 == crc16 (sym.take 14)

/-- A member's source port, or any port while none has brought a symbol. -/
def BeatUnit.sourcePort (u : BeatUnit) (port : Nat) : Bool := u.portHops.isEmpty || u.port.val == port

/-- A beat symbol arrives (R48, R50, R51): forwarded on by a member, and taken as an edge after compensation. -/
def State.beatSymbol (s : State) (port : Nat) (sym : Bytes) (t : Nat) : State :=
  if !symOk sym || fieldAt sym 0 1 != 1 then s.at t
  else
    let hop := fieldAt sym 1 1
    let lat := fieldAt sym 4 3 + s.dev.hopLat port + fieldAt sym 8 1
    let fwd := s.dev.upPorts.filter (fun p => p != port)
    let d1 := if s.beat.role = .member then
        (s.dev.at t).sendSym fwd (beatSym (hop + 1) (fieldAt sym 2 2) lat (fieldAt sym 7 1) 0) else s.dev.at t
    let u := s.beat
    let isSrc := u.sourcePort port
    let u1 := { u with portHops := (if u.fromLinks then Sparse.ins u.portHops port hop else u.portHops),
                       port := (if u.fromLinks && u.portHops.isEmpty then Fin.ofNat 6 port else u.port),
                       hops := (if u.fromLinks && u.sourcePort port then hop else u.hops) }
    let dl := delayTicks (if u.role = .member then u.delay else s.dev.regN 0x10028)
    let s1 : State := { s with beat := u1, dev := d1 }
    if !u.fromLinks || !isSrc || decide (u.st = .off) || !u.powered then s1
    else if lat ≤ dl then { s1 with beat := { u1 with comp := u1.comp ++ [t + (dl - lat)] } }
    else
      let s2 := { s1 with beat := { u1 with comp := u1.comp ++ [t], lateQuiet := 0 } }
      if u.lateQuiet ≥ 1000 then s2.beatEvent 0x06 0 0 (cdiv ((lat - dl) * 5) 8 % 2 ^ 32) 0 else s2

/-- A beat-sync message: the lead's number for the next boundary, and D (R52). A member that had no number has it from here on, or
from the boundary at which it takes a higher one. -/
def State.beatSync (s : State) (num d : Nat) : State :=
  let u := s.beat
  if !u.fromLinks then s
  else
    let next := u.numAhead (u.ahead + 1)
    let u1 := { u with nextDelay := some d }
    if num > next then State.beatEvent { s with beat := { u1 with skipTo := some num, holdAt := none } } 0x07 0 0 0 num
    else if num < next then State.beatEvent { s with beat := { u1 with holdAt := some num, skipTo := none, ever := true } } 0x07 0 1 0 num
    else { s with beat := { u1 with skipTo := none, holdAt := none, ever := true } }

/-! ### Notches (R46, R47) -/

/-- Notch k of the beat has begun by tick `t` (R46). -/
def BeatUnit.notchDue (u : BeatUnit) (k t : Nat) : Bool := decide (1024 * u.n16 + k * u.p16 ≤ 16384 * t)

/-- The beat unit's part of a notch: the beat number at notch 0, then the notch value (R47). None where no notch is due.
The flag says that the number wrapped. -/
def BeatUnit.notchStep (u : BeatUnit) (t : Nat) : Option (BeatUnit × Bool) :=
  match u.fired with
  | some f =>
    if u.counted && decide (u.notch < 1023) then some ({ u with notch := u.notch + 1 }, false)
    else
      match u.holdAt with
      | some m =>
        if m < u.num + 1 then some ({ u with fired := none, holdAt := some (m + 1) }, false)
        else
          some ({ u with fired := none, holdAt := none, num := (u.num + 1) % 2 ^ 64, notch := 0, n16 := f.ph16,
                         counted := true, ever := true, lateQuiet := u.lateQuiet + 1 }, decide (u.num + 1 = 2 ^ 64))
      | none =>
        let n := match u.skipTo with
          | some x => x
          | none => ({ u with fired := none, fires := [] } : BeatUnit).numAhead 1
        some ({ u with fired := none, skipTo := none, num := n, notch := 0, n16 := f.ph16, counted := true,
                       ever := u.ever || !u.fromLinks || u.skipTo.isSome, lateQuiet := u.lateQuiet + 1,
                       delay := (match u.nextDelay with | some x => x | none => u.delay), nextDelay := none },
              decide (n = 0) && u.counted)
  | none =>
    if u.counted && u.predicts && decide (u.notch < 1023) && u.notchDue (u.notch + 1) t
    then some ({ u with notch := u.notch + 1 }, false)
    else none

/-- Notches are counted: locked or in holdover, after a first boundary (R328). -/
def BeatUnit.counting (u : BeatUnit) : Bool := u.powered && u.counted && u.predicts

/-- A launch or wait point has been reached (R54, R60, R204). -/
def BeatUnit.reached (u : BeatUnit) (beat notch : Nat) : Bool :=
  if beat = 0 then true
  else if !u.ever || decide (u.st = .off) then false
  else
    let diff := (u.num + 2 ^ 64 - beat) % 2 ^ 64
    decide (diff < 2 ^ 63) && (decide (diff ≠ 0) || decide (notch ≤ u.notch))

/-- A launch point has passed: another beat than its own, or a later notch (R55). -/
def BeatUnit.passed (u : BeatUnit) (beat notch : Nat) : Bool :=
  u.reached beat notch && decide (beat ≠ 0) && !(u.num == beat && u.notch == notch)

/-! ### Meanings -/

/-- BEAT_EDGE (R36). -/
def execBeatEdge (t : Nat) (s : State) : Out := .next (s.takeEdge t)

/-- BEAT_BOUNDARY_PREDICTED (R40). -/
def execBeatBoundaryPredicted (t : Nat) (s : State) : Out :=
  .next (if s.beat.due t then ((s.at t).closeWindow t).predictAt else s.at t)

/-- BEAT_WINDOW_CLOSE (R40). -/
def execBeatWindowClose (t : Nat) (s : State) : Out := .next ((s.at t).closeWindow t)

/-- BEAT_SILENT_TIMEOUT (R43): two learned periods without an accepted edge. -/
def execBeatSilentTimeout (t : Nat) (s : State) : Out :=
  .next (if s.beat.predicts && !s.beat.silent && decide (16 * s.beat.lastAcc + 2 * s.beat.p16 ≤ 16 * t)
    then State.beatEvent { s.at t with beat := { s.beat with silent := true } } 0x03 0 0 0 0 else s.at t)

/-- BEAT_NO_LOCK_TIMEOUT (R39): 100 ms, 160,000,000 ticks, after EN was set. -/
def execBeatNoLockTimeout (t : Nat) (s : State) : Out :=
  .next (if s.beat.powered && decide (s.beat.st = .unlocked) && !s.beat.noLockSaid && decide (s.beat.enAt + 160000000 ≤ t)
    then State.beatEvent { s.at t with beat := { s.beat with noLockSaid := true } } 0x01 0 0 0 0 else s.at t)

/-- BEAT_BOUNDARY_FIRE (R48, R53): the package fires its oldest decided boundary once it is due. -/
def execBeatBoundaryFire (t : Nat) (s : State) : Out :=
  .next (match s.beat.fires with
    | [] => s.at t
    | f :: r =>
      if f.tick ≤ t ∧ s.beat.fired = none
      then { s.at t with beat := ({ s.beat with fires := r, fired := some f }).pulse t f.conf } else s.at t)

/-- BEAT_SYMBOL (R48). -/
def execBeatSymbol (port : Fin 6) (sym : Bytes) (t : Nat) (s : State) : Out := .next (s.beatSymbol port.val sym t)

/-- BEAT_SYNC (R52). -/
def execBeatSync (_port : Fin 6) (num : BitVec 64) (d : BitVec 16) (s : State) : Out := .next (s.beatSync num.toNat d.toNat)

/-- BEAT_OUT_PULSE_END (R53): 1 µs, 1,600 ticks, after the pulse started. -/
def execBeatOutPulseEnd (t : Nat) (s : State) : Out :=
  .next (match s.beat.out with
    | none => s.at t
    | some b => if b + 1600 ≤ t then { s.at t with beat := { s.beat with out := none } } else s.at t)

/-- A write to BEAT_CTRL on a path that reaches the block (R564). -/
def State.beatCtrlVia (s : State) (path : Path) (v : Word) (t : Nat) : State :=
  if reaches s.dev path 0x10000 then s.beatCtrlWrite path v t else s

/-- BEAT_EN_CLEAR (R60). -/
def execBeatEnClear (path : Path) (v : Word) (s : State) : Out := .next (s.beatCtrlVia path v s.dev.now)

/-- BEAT_EN_SET (R61). -/
def execBeatEnSet (path : Path) (v : Word) (t : Nat) (s : State) : Out := .next ((s.at t).beatCtrlVia path v t)

/-- BEAT_SRC_CHANGE (R62). -/
def execBeatSrcChange (path : Path) (v : Word) (s : State) : Out := .next (s.beatCtrlVia path v s.dev.now)

/-- BEAT_BASE_WRITE (R59). -/
def execBeatBaseWrite (path : Path) (hi : Bool) (v : Word) (s : State) : Out :=
  .next (if reaches s.dev path 0x10020 then s.beatBaseWrite path hi v else s)

/-- The window of background duty `k` is open; before first lock and with EN clear those of cruise, calibration and wear
count as open (R557, R558). -/
def State.winOpen (s : State) (k : Nat) : Bool :=
  (decide (k < 3) && (!s.beat.en || !s.beat.counted)) || s.dev.bgOpen.contains k

end Sys2Proof.Machine
end

