-- ==== Sys2Proof/Machine/NetOps.lean ====
section
/-! DEFINITION. The stand as this package sees it: IDs, shape, groups, allocators, routes, port queues, flits and the messages it sends (R22 to R27, R33, R413 to R447). -/

namespace Sys2Proof.Machine

/-! ### The stand -/

/-- The package ID: position straps or their override (R23). -/
def Dev.pkgId (d : Dev) : Nat :=
  let w := d.reg 0xE0000
  if flag w 24 then fld w 0 2 + 4 * fld w 8 2 + 16 * fld w 16 2 else d.strapId

/-- No entry. -/
def groupReset : Nat → GroupEnt := fun _ => ⟨false, [], 0, 0, 0, 1, 0⟩

/-- A group entry, by index + 256 · axis. -/
def Dev.group (d : Dev) (key : Nat) : GroupEnt := Sparse.get groupReset d.net.groups key

/-- State of a package on the roster (R497): 0 absent, 1 present, 2 failed, 3 departed. -/
def Dev.pkgState (d : Dev) (p : Nat) : Nat := fld (d.reg (0x160800 + 8 * p)) 0 2

/-- A package is on the roster. -/
def Dev.onRoster (d : Dev) (p : Nat) : Bool := d.pkgState p == 1 || p == d.pkgId

/-- The coordinates of a package ID: x, y, z (R23). -/
def coordsOf (id : Nat) : List Nat := [id % 4, id / 4 % 4, id / 16 % 4]

/-- The sizes of the stand on X, Y and Z (R24, R447). -/
def Dev.shape (d : Dev) : List Nat := let w := d.reg 0xE0008; [fld w 0 2 + 1, fld w 2 2 + 1, fld w 4 2 + 1]

/-- A package ID lies inside the declared shape. -/
def Dev.inShape (d : Dev) (id : Nat) : Bool := decide (id < 64) && ((coordsOf id).zip (d.shape)).all (fun x => decide (x.1 < x.2))

/-- The packages of the axis group that holds package `p` (R431). -/
def Dev.axisPackages (d : Dev) (e : GroupEnt) (p : Nat) : List Nat :=
  (List.range 64).filter (fun q => d.inShape q && (List.range 3).all (fun a =>
    let x := (coordsOf p).getD a 0
    let y := (coordsOf q).getD a 0
    if bitAt e.axes a then decide (x / 2 ^ bitsAt e.sub (2 * a) 2 = y / 2 ^ bitsAt e.sub (2 * a) 2) else decide (x = y)))

/-- The members of a group as this package sees it, in fixed member order (R429, R431). -/
def Dev.membersOf (d : Dev) (key : Nat) : List Nat :=
  let e := d.group key
  if key < 256 then sortBy (fun a b => decide (a ≤ b)) e.members
  else (d.axisPackages e d.pkgId).flatMap (fun q => ((List.range 16).filter (fun n => bitAt e.parts n)).map (fun n => 16 * q + n))

/-! ### Allocators (R33) -/

/-- Nothing held, nobody waiting. -/
def allocReset : Nat → Alloc := fun _ => ⟨0, []⟩

/-- A landing or frame allocator. -/
def Dev.alloc (d : Dev) (a : Nat) : Alloc := Sparse.get allocReset d.allocs a

/-- Replace an allocator. -/
def Dev.setAlloc (d : Dev) (a : Nat) (x : Alloc) : Dev := { d with allocs := Sparse.put allocReset d.allocs a x }

/-- What an allocator has in all: 64 KiB chunks of a partition's landing, frames of the switch (R248, R425). -/
def Dev.allocTotal (d : Dev) (a : Nat) : Nat := if a < 16 then 16 * fld (d.reg (0xC0010 + 4 * a)) 0 5 else 128

/-- Units that are free. -/
def Dev.allocFree (d : Dev) (a : Nat) : Nat := d.allocTotal a - (d.alloc a).used

/-- Take units. -/
def Dev.allocTake (d : Dev) (a n : Nat) : Dev := d.setAlloc a { d.alloc a with used := (d.alloc a).used + n }

/-- Give units back. -/
def Dev.allocGive (d : Dev) (a n : Nat) : Dev := d.setAlloc a { d.alloc a with used := (d.alloc a).used - n }

/-! ### Flits and ports (R413 to R417, R425) -/

/-- A port as reset leaves it: the first flit carries number 1. -/
def portReset : Nat → Port := fun _ => ⟨1, 0, [], [], 0, 0, false, [], [], []⟩

/-- A port. -/
def Dev.port (d : Dev) (p : Nat) : Port := Sparse.get portReset d.net.ports p

/-- Replace a port. -/
def Dev.setPort (d : Dev) (p : Nat) (x : Port) : Dev := { d with net := { d.net with ports := Sparse.put portReset d.net.ports p x } }

/-- The offset of a port's registers. -/
def portOff (p : Nat) : Nat := 0xE0100 + 0x20 * p

/-- State of a port under PORT_STATUS. -/
def Dev.portSt (d : Dev) (p : Nat) : Nat := fld (d.reg (portOff p + 4)) 0 3

/-- The weight of a partition on a port (R425). -/
def Dev.linkWgt (d : Dev) (p part : Nat) : Nat := fld (d.reg (portOff p + 0x10 + 4 * (part / 8))) (4 * (part % 8)) 4

/-- A flit of sequence number `seq` with some messages' bytes in its slots (Table: Flit). -/
def flitOf (seq kind last : Nat) (nak : Bool) (slots : Bytes) : Bytes :=
  let b := le 2 (seq % 4096 + 4096 * kind) ++ le 2 (last % 4096 + 4096 * b2n nak) ++ zeros 4 ++ padTo 240 slots
  b ++ le 8 (crc64 b)

/-- The bytes of a message: its header slot and its data slots. -/
def msgBytes (m : Msg) : Bytes := m.hdr ++ m.data

/-- The virtual channel of a message. -/
def msgVc (m : Msg) : Nat := bitsAt (fieldAt m.hdr 1 1) 4 2

/-- The partition after `p` in turn, wrapping, that has a message of those given. -/
def nextTurn (qs : List OutMsg) (p : Nat) : Option Nat :=
  ((List.range 16).map (fun i => (p + 1 + i) % 16)).find? (fun q => qs.any (fun m => m.part == some q))

/-- The message that a port sends next: control and forwarded traffic first, contributions ahead of the rest, then the
partitions by weighted round robin (R424, R425). It answers the message with the turn and what is left of its weight. -/
def Dev.nextOut (d : Dev) (p : Nat) (x : Port) : Option (OutMsg × Nat × Nat) :=
  let hi := x.queue.filter (fun m => decide (2 ≤ msgVc m.msg))
  let pick (qs : List OutMsg) : Option (OutMsg × Nat × Nat) :=
    match qs.find? (fun m => m.part.isNone) with
    | some m => some (m, x.turn, x.left)
    | none =>
      if 0 < x.left then
        match qs.find? (fun m => m.part == some x.turn) with
        | some m => some (m, x.turn, x.left - 1)
        | none => turnTo qs
      else turnTo qs
  match x.queue.find? (fun m => m.part.isNone) with
  | some _ => pick (match hi.filter (fun m => m.part.isNone) with | [] => x.queue | l => l)
  | none => if hi.isEmpty then pick x.queue else pick hi
where
  /-- The next partition's turn begins. -/
  turnTo (qs : List OutMsg) : Option (OutMsg × Nat × Nat) :=
    match nextTurn qs x.turn with
    | some q => (qs.find? (fun m => m.part == some q)).map (fun m => (m, q, d.linkWgt p q - 1))
    | none => none

/-- Remove the first element equal to `a`. -/
def eraseOne {α : Type} [DecidableEq α] (a : α) : List α → List α
  | [] => []
  | x :: r => if x = a then r else x :: eraseOne a r

/-- Send flits while the port is up, the replay buffer of 64 has room and a message waits; one message a flit. -/
def Dev.flush : Nat → Dev → Nat → Dev
  | 0, d, _ => d
  | n + 1, d, p =>
    let x := d.port p
    if d.portSt p ≠ 2 ∨ 64 ≤ x.sent.length then d
    else
      match d.nextOut p x with
      | none => d
      | some (m, turn, left) =>
        let f := flitOf x.tx 1 x.rx false (msgBytes m.msg)
        let x' := { x with tx := (x.tx + 1) % 4096, queue := eraseOne m x.queue, sent := x.sent ++ [⟨x.tx, f, 0, m.cid⟩], turn := turn, left := left }
        Dev.flush n (({ d.setPort p x' with toLink := d.toLink ++ [.note p f] } : Dev).charge (m.part.getD devAcct) 12 1) p

/-- Send what a port may send. -/
def Dev.pump (d : Dev) (p : Nat) : Dev := d.flush (d.port p).queue.length p

/-! ### Routes (R423, R424) -/

/-- The ports towards a package, in the order in which they are tried: the shorter way round the first axis on which the IDs
differ, + on a tie, then the other way where the axis is wrapped. -/
def Dev.waysTo (d : Dev) (dest : Nat) : List Nat :=
  let w := d.reg 0xE0008
  match (List.range 3).find? (fun a => decide ((coordsOf d.pkgId).getD a 0 ≠ (coordsOf dest).getD a 0)) with
  | none => []
  | some a =>
    let x := (coordsOf d.pkgId).getD a 0
    let y := (coordsOf dest).getD a 0
    let s := (d.shape).getD a 1
    if flag w (8 + a) then
      if (y + s - x) % s ≤ (x + s - y) % s then [2 * a, 2 * a + 1] else [2 * a + 1, 2 * a]
    else if x < y then [2 * a] else [2 * a + 1]

/-- The port that traffic to a package takes, none where it is unreachable. -/
def Dev.routeTo (d : Dev) (dest : Nat) : Option Nat := (d.waysTo dest).find? (fun p => d.portSt p == 2)

/-- A hop out of a port crosses the dateline of its axis. -/
def Dev.crosses (d : Dev) (p : Nat) : Bool :=
  let x := (coordsOf d.pkgId).getD (p / 2) 0
  let s := (d.shape).getD (p / 2) 1
  if p % 2 = 0 then decide (x + 1 = s) else decide (x = 0)

/-- A message with its virtual channel. -/
def msgWithVc (m : Msg) (vc : Nat) : Msg :=
  let b := fieldAt m.hdr 1 1
  { m with hdr := overwrite m.hdr 1 (le 1 (b % 16 + 16 * vc)) }

/-- The number that stands for the inside of the package among the ports. -/
def innerPort : Nat := 6

/-- Send a message: to this package through its inside, otherwise into the queue of the port its route takes, on the virtual
channel of R424; `inp` is the port it came in by where it is forwarded. A message that has no route is lost. -/
def Dev.netSend (d : Dev) (part cid inp : Option Nat) (m : Msg) : Dev :=
  let dest := fieldAt m.hdr 2 1 % 64
  if dest = d.pkgId then { d with net := { d.net with inbox := d.net.inbox ++ [(innerPort, m)] } }
  else
    match d.routeTo dest with
    | none => d
    | some p =>
      let base := msgVc m / 2 * 2
      let keep := match inp with
        | some i => if i / 2 = p / 2 then msgVc m else base
        | none => base
      let vc := if d.crosses p then base + 1 else keep
      (d.setPort p { d.port p with queue := (d.port p).queue ++ [⟨part, cid, msgWithVc m vc⟩] }).pump p

/-! ### Messages (R418, R422) -/

/-- A message of `data` whole slots; bytes 8 to 15 of the header are `tail`. -/
def msgOf (d : Dev) (ty vc dest srcPart dstPart fin num : Nat) (tail data : Bytes) : Msg :=
  ⟨le 1 ty ++ le 1 (cdiv data.length 16 + 16 * vc) ++ le 1 dest ++ le 1 d.pkgId ++ le 1 (srcPart % 16 + 16 * (dstPart % 16)) ++
    le 1 fin ++ le 2 num ++ padTo 8 tail, padTo (16 * cdiv data.length 16) data⟩

/-- A control message (Table: Control messages). -/
def ctlMsg (d : Dev) (dest srcPart dstPart num kind : Nat) (tail data : Bytes) : Msg :=
  msgOf d 4 0 dest srcPart dstPart 0 num (le 1 kind ++ tail) data

/-- A collective notice about an operation tag: 0 pass, 1 commit, 2 fell, 3 mismatch. -/
def noticeMsg (d : Dev) (code srcPart tag what : Nat) : Msg :=
  ctlMsg d (code / 16) srcPart (code % 16) tag 0x07 (le 2 tag ++ le 1 what) []

/-! ### Operations (R434, R441, R445) -/

/-- The collective of a command. -/
def Dev.coll (d : Dev) (cid : Nat) : Option Coll := d.net.colls.find? (fun c => c.cid == cid)

/-- Replace a collective. -/
def Dev.setColl (d : Dev) (c : Coll) : Dev :=
  { d with net := { d.net with colls := d.net.colls.map (fun x => if x.cid = c.cid then c else x) } }

/-- The operation tag in flits (R434). -/
def Coll.tag (c : Coll) : Nat := c.key % 512 + 512 * (c.num % 8) + 4096 * (c.gen % 16)

/-- The member packages in ascending ID (R436). -/
def Coll.packages (c : Coll) : List Nat := (c.members.map (fun x => x / 16)).eraseDups

/-- A notice from this member to every other member. -/
def Dev.notifyAll (d : Dev) (c : Coll) (what : Nat) : Dev :=
  (c.members.filter (· != c.code)).foldl (fun a m => a.netSend none (some c.cid) none (noticeMsg d m (c.code % 16) c.tag what)) d

/-- Messages of a command that no flit holds leave the queues (R445). -/
def Dev.dropOut (d : Dev) (cid : Nat) : Dev :=
  { d with net := { d.net with ports := d.net.ports.map (fun e => (e.1, { e.2 with queue := e.2.queue.filter (fun m => m.cid != some cid) })) } }

/-- What an operation holds of the landing and the switch is freed, and its requests leave the wait lists; a communication
queue keeps its own (R438, R444). -/
def Dev.collFree (d : Dev) (c : Coll) : Dev :=
  let p := c.code % 16
  let drop (a : Dev) (i : Nat) : Dev := a.setAlloc i { a.alloc i with wait := (a.alloc i).wait.filter (fun w => w.who != c.cid) }
  let d1 := drop (drop d p) 16
  if c.comm then d1
  else (if c.landing then d1.allocGive p 4 else d1).allocGive 16 (c.own.filter (fun o => o.frame)).length

/-- An operation ends at this member: its messages leave the queues and what it holds is freed; where it is felled here, the
other members are told, and the packages it exchanged messages with discard its tag (R441, R445). -/
def Dev.collEnd (d : Dev) (cid : Nat) (tell : Bool) : Dev :=
  match d.coll cid with
  | none => d
  | some c =>
    let d1 := (d.dropOut cid).collFree c
    let d2 := { d1 with net := { d1.net with colls := d1.net.colls.filter (fun x => x.cid != cid) } }
    if tell then
      let d3 := d2.notifyAll c 2
      (c.packages.filter (· != d.pkgId)).foldl (fun a q =>
        a.netSend none none none (ctlMsg d q (c.code % 16) 0 c.tag 0x06 (le 2 c.tag ++ le 1 (c.code % 16)) [])) d3
    else d2

end Sys2Proof.Machine
end

