-- ==== Sys2Proof/Machine/Checks.lean ====
section
/-! DEFINITION. Felling, check failures, completion, commit, receipts and seals (R63 to R109, R333, R374, R398). -/

namespace Sys2Proof.Machine

/-! ### Cores -/

/-- An accumulator tile as a clear leaves it (R213). -/
def tileCleared : Tile := ⟨.cleared, none, false, [], [], [], [], [], [], [], [], 0⟩

/-- A core as reset leaves it (R199; the split and the creation counter: log entry 6). -/
def coreReset : Nat → Core := fun _ =>
  ⟨none, 0, 0, 0, [], [], 1, 0, [], [], [tileCleared, tileCleared, tileCleared, tileCleared], [], [], 0, 0, 0, none, false, 0, 0⟩

/-- The number of a core in the state: 36 · partition + local tile. -/
def coreNo (c : CoreId) : Nat := 36 * c.part.val + c.tile.val

/-- A core. -/
def Dev.core (d : Dev) (n : Nat) : Core := Sparse.get coreReset d.cores n

/-- Replace a core. -/
def Dev.setCore (d : Dev) (n : Nat) (c : Core) : Dev := { d with cores := Sparse.put coreReset d.cores n c }

/-- The offset of a core's CORE_MAP entry (R18, R242). -/
def coreMapOff (p l : Nat) : Nat :=
  let i := 12 * (6 * (p % 4 / 2) + l / 6) + 6 * (p % 2) + l % 6
  0x161000 + 8 * (144 * (p / 4) + i)

/-- The core-map state of a tile: 0 active, 1 spare, 2 blazed, 3 isolated. -/
def Dev.mapState (d : Dev) (p l : Nat) : Nat := fld (d.reg (coreMapOff p l)) 0 2

/-- Its logical number or S-number. -/
def Dev.mapNum (d : Dev) (p l : Nat) : Nat := fld (d.reg (coreMapOff p l)) 3 5

/-- Local tiles of a partition that are active, in ascending logical number (R19). -/
def Dev.activeTiles (d : Dev) (p : Nat) : List Nat :=
  (List.range 32).filterMap (fun n => (List.range 36).find? (fun l => d.mapState p l == 0 && d.mapNum p l == n))

/-- A core that a spare has not been called from and that samples nothing: an idle spare (R69). -/
def Dev.idleSpares (d : Dev) (p : Nat) : List Nat :=
  (List.range 36).filter (fun l => d.mapState p l == 1 && !flag (d.reg (coreMapOff p l)) 2 && (d.core (36 * p + l)).shadow.isNone)

/-- A core emptied of a command's blocks; what is the core's own stays. -/
def Core.emptied (c : Core) : Core :=
  { c with
    blocks := [], groups := [], mq := [], run := [], cmps := [], mmas := 0, corrected := 0 }

/-- Fold over the cores a command holds. -/
def Dev.onCores (d : Dev) (p : Nat) (ls : List Nat) (f : Core → Core) : Dev :=
  ls.foldl (fun a l => a.setCore (36 * p + l) (f (a.core (36 * p + l)))) d

/-- No check result yet. -/
def checksNone : Checks := ⟨0, 0, false, false, false, false, 0, 0, 0, 0, 0⟩

/-! ### Felling (R398) -/

/-- The offset of a partition's PTN page. -/
def ptn (p : Nat) : Nat := 0x20000 + 0x1000 * p

/-- Drop the save slots of a command. -/
def Dev.freeSlots (d : Dev) (p : Nat) (slots : List Nat) : Dev :=
  { d with saveImg := slots.foldl (fun m s => Sparse.drop m (64 * p + s)) d.saveImg }

/-- A shadow sample of a command is abandoned on every spare. -/
def Dev.dropSamples (d : Dev) (cid : Nat) : Dev :=
  { d with cores := d.cores.map (fun e =>
      match e.2.shadow with
      | some (_, c) => if c = cid then (e.1, { e.2 with shadow := none }) else e
      | none => e) }

/-- A command's attempt starts over: nothing dispatched, nothing checked, no progress (R376, R399). -/
def Cmd.restart (c : Cmd) : Cmd :=
  { c with
    chk := { checksNone with zero := c.chk.zero }, run := { c.run with next := 0, retired := 0 }, pos := 0, progN := 0,
    cores := [], slots := [], savedCores := 0, inDig := 0, outDig := 0, poisoned := false }

/-- Phases in which a command has been granted and has not reached its commit point. -/
def Phase.fellable : Phase → Bool
  | .granted | .loaded | .running | .parking | .saving | .saved | .restoring | .digest => true
  | _ => false

/-- The command is a serving step or an entry of one. -/
def Dev.inStep (d : Dev) (c : Cmd) : Bool :=
  match c.kind with
  | .step _ => true
  | .descriptor => false
  | .entry par _ => (match d.cmd par with
    | some pc => (match pc.kind with
      | .step _ => true
      | _ => false)
    | none => false)

/-- Fell a command: issue stops, its waiting stores and held final
writes are discarded, its blocks, tiles and save slots are released, and its end is set (R270, R398). -/
def Dev.fell (d : Dev) (cid : Nat) (fin : FellEnd) : Dev :=
  match d.cmd cid with
  | none => d
  | some c =>
    let d1 := (d.onCores c.part c.cores Core.emptied).dropSamples cid
    let held := (d1.finals ++ d1.finalsQ).filter (fun x => x.cid == cid)
    let d1 := { d1 with streams := d1.streams.filter (fun x => !held.any (fun f => decide (f.port = x.port) && f.stream == x.num)),
                        stores := d1.stores.filter (fun x => x.cid != cid), finals := d1.finals.filter (fun x => x.cid != cid),
                        finalsQ := d1.finalsQ.filter (fun x => x.cid != cid) }
    let d2 := ((d1.freeSlots c.part c.slots).collEnd cid true).setCmd { c with ph := .felling, fellEnd := fin, slots := [], entryLive := false }
    let d3 := d2.bump (ptn c.part + 0x328)
    if d.inStep c then d3 else d3.bumpClient c.part c.client 2

/-! ### Completion (R333, R334) -/

/-- The 32 bytes of a completion (Table: Completion). -/
def completionBytes (k : Clk) (c : Cmd) (status detail b3 : Nat) : Bytes :=
  le 1 status ++ le 1 (2 * b2n c.late + 4 * b2n c.rcpt.isSome) ++ le 1 detail ++ le 1 b3 ++ le 2 c.idx ++
    le 1 (c.ring % 16) ++ le 1 (c.retries % 8) ++ le 8 c.tag ++ le 8 (if c.rcpt.isSome then c.rcptIdx else 0) ++
    le 6 k.beat ++ le 2 k.notch

/-- Entries waiting for a device-produced ring. -/
def Dev.queueEntry (d : Dev) (r : Nat) (e : RingEnt) : Dev :=
  d.setDring r { d.dring r with wait := (d.dring r).wait ++ [e] }

/-- A RUN_LIST's entry has ended without committing: the list stops (R370). -/
def listStopEvent (k : Clk) (par : Cmd) (entry status detail b3 : Nat) : Bytes :=
  le 1 0x51 ++ zeros 1 ++ le 1 status ++ le 1 detail ++ le 1 (par.ring % 16) ++ le 1 (par.part % 16) ++ le 1 b3 ++ zeros 1 ++
    le 8 par.tag ++ le 6 k.beat ++ le 2 k.notch ++ le 4 entry ++ zeros 4

/-- The entry of a completion ring that ends a descriptor's command (R333). -/
def Dev.queueCompletion (d : Dev) (k : Clk) (c : Cmd) (status detail b3 : Nat) : Dev :=
  let intr := bitAt c.flags 2
  (d.queueEntry (16 * c.part + c.ring % 16) ⟨completionBytes k c status detail b3, some c.cid, intr⟩).onCmd c.cid
    (fun x => { x with ph := .completion, status := status, detail := detail, byte3 := b3 })

/-- A sequencer as reset leaves it. -/
def serveReset : Nat → Serve := fun _ => ⟨[], [], 0, none, false, []⟩

/-- The serving sequencer of a partition. -/
def Dev.srv (d : Dev) (p : Nat) : Serve := Sparse.get serveReset d.serve p

/-- Replace it. -/
def Dev.setSrv (d : Dev) (p : Nat) (x : Serve) : Dev := { d with serve := Sparse.put serveReset d.serve p x }

/-- A sequence leaves its slot: its pages are free again, and any request of it leaves the wait list (R404, R407). -/
def Dev.seqLeave (d : Dev) (p : Nat) (q : Seq) : Dev :=
  let sv := d.srv p
  d.setSrv p { sv with seqs := sv.seqs.filter (fun x => x.slot != q.slot), free := sv.free ++ q.pages, wait := sv.wait.filter (· != q.slot) }

/-- A serving step that ended without committing ends every sequence of its batch with its status; their slots and pages
are freed (R406). -/
def Dev.stepFailed (d : Dev) (k : Clk) (c : Cmd) (status detail b3 : Nat) : Dev :=
  let gone := (d.srv c.part).seqs.filter (fun q => q.batch.isSome)
  let d1 := (d.setSrv c.part { d.srv c.part with live := none }).dropCmd c.cid
  gone.foldl (fun a q =>
    match a.cmd q.cid with
    | some x => (a.seqLeave c.part q).queueCompletion k x status detail b3
    | none => a.seqLeave c.part q) d1

/-- A command ends without committing (R334): a descriptor's completion is queued; an entry's list stops; a step's batch ends. -/
def Dev.endCmd (d : Dev) (k : Clk) (cid status detail b3 : Nat) : Dev :=
  match d.cmd cid with
  | none => d
  | some c =>
    match c.kind with
    | .descriptor => d.queueCompletion k c status detail b3
    | .step _ => d.stepFailed k c status detail b3
    | .entry par i =>
      match d.cmd par with
      | none => d.dropCmd cid
      | some pc =>
        match pc.kind with
        | .step _ => ((d.dropCmd cid).onCmd par (fun x => { x with entryLive := false })).stepFailed k pc status detail b3
        | _ =>
          let d1 := (d.dropCmd cid).raise k c.part (listStopEvent k pc i status detail b3)
          d1.queueCompletion k { pc with entryLive := false } status detail b3

/-! ### Failed checks (R74 to R79) -/

/-- A check-failure event (R79). -/
def checkFailEvent (k : Clk) (fin : Bool) (mech : Nat) (c : Cmd) (t1 t2 : Nat) : Bytes :=
  le 1 0x20 ++ le 1 (2 * b2n fin) ++ le 1 mech ++ le 1 (c.part % 16) ++ le 1 t1 ++ le 1 t2 ++ le 1 c.attempt ++ zeros 1 ++
    le 8 c.tag ++ le 8 k.beat ++ le 2 k.notch ++ zeros 6

/-- RETRY_MAX (R76). -/
def Dev.retryMax (d : Dev) : Nat := fld (d.reg 0x80000) 0 3

/-- A failed check of a command (R75, R76): felled and re-queued with the named cores excluded, or ended once its re-runs
are used up. A command that is felled already is not felled twice. -/
def Dev.checkFailCore (d : Dev) (k : Clk) (cid mech t1 t2 : Nat) : Dev :=
  match d.cmd cid with
  | none => d
  | some c =>
    if !c.ph.fellable then d
    else
      let fin := decide (d.retryMax ≤ c.retries)
      let d1 := (d.bump 0x80020).raise k c.part (checkFailEvent k fin mech c t1 t2)
      let ex := [t1, t2].filter (fun t => t != 0xFF)
      if fin then d1.fell cid (.complete 4 mech)
      else
        ((d1.bump 0x80024).onCmd cid (fun x => { x with excl := x.excl ++ ex, attempt := x.attempt + 1, retries := x.retries + 1 })).fell cid .requeue

/-! ### Receipts and seals (R87 to R101) -/

/-- No chain begun: the genesis is set when a chain starts. -/
def chainReset : Nat → Chain := fun _ => ⟨0, 0, 1, zeros 32, [], 1, 0, 0, [], 0, [], none, [], []⟩

/-- A partition's chain. -/
def Dev.chain (d : Dev) (p : Nat) : Chain := Sparse.get chainReset d.chains p

/-- Replace a partition's chain. -/
def Dev.setChain (d : Dev) (p : Nat) (c : Chain) : Dev := { d with chains := Sparse.put chainReset d.chains p c }

/-- The genesis block of a partition's chain (Table: Genesis block). -/
def Dev.genesis (d : Dev) (k : Clk) (p : Nat) : Bytes :=
  [0x4C, 0x55, 0x41, 0x44, 0x45, 0x58, 0x2D, 0x47] ++ le 8 Config.serial.toNat ++ le 1 p ++ le 1 d.pkgId ++ zeros 2 ++
    le 4 (d.regN (0x160380 + 4 * p)) ++ le 8 k.beat ++ zeros 32

/-- A new chain starts at index 1 with a new genesis block (R93, R94); a waiting or signed seal of the old one stays, and so do
recalls that no seal holds yet (R105). -/
def Dev.newChain (d : Dev) (k : Clk) (p : Nat) : Dev :=
  let c := d.chain p
  d.setChain p { c with gen := c.gen + 1, began := k.beat, next := 1, prevHash := (sha384 (d.genesis k p)).take 32, lastRcpt := [],
                        sealNext := 1, sealedTo := 0, sealBeat := k.beat, log := [] }

/-- The verdict of Table: Verdicts: unchecked, order-sensitive, corrected, bounded, exact (R91). -/
def verdict (unc sig ord cor bnd : Bool) : Nat :=
  if unc || sig then 3 else if ord then 5 else if cor then 2 else if bnd then 1 else 0

/-- Coverage bits that Table: Required coverage requires of an opcode, given what the command executed (R64). -/
def requiredCover (op : Nat) (usedMtx usedAlu multi sigs : Bool) : Nat :=
  match op with
  | 0x01 => 0x14
  | 0x02 => 0x94
  | 0x03 => 0x94
  | 0x04 => 0x14 + b2n usedMtx + 2 * b2n usedAlu
  | 0x05 => 0x16 + 0x20 * b2n multi
  | 0x06 => 0x16 + 0x40 * b2n sigs
  | 0x07 => 0x14 + b2n usedMtx + 2 * b2n usedAlu
  | _ => 0

/-- A command's own cores, shadow spares and core mask are reported for kernels and serving requests only (R89). -/
def coreMaskOf (c : Cmd) : Nat := if c.op = 4 ∨ c.op = 7 then c.chk.cores % 2 ^ 36 + c.chk.spares % 16 * 2 ^ 36 else 0

/-- The receipt of a committing command, phase bit 0 (Table: Receipt layout). -/
def Dev.receiptBytes (d : Dev) (k : Clk) (c : Cmd) (idx : Nat) (link : Bytes) : Bytes :=
  let x := c.chk
  let unc := decide (x.absent ≠ 0)
  let cor := decide (x.corrected ≠ 0)
  let cov := if x.zero then 0 else x.cover &&& (0xFF ^^^ x.absent)
  let v := if x.zero then 0 else verdict unc x.sig x.ord cor x.bnd
  le 8 c.tag ++ le 8 idx ++ le 8 k.beat ++ le 2 k.notch ++ le 1 v ++ le 1 cov ++ le 1 (c.part % 16) ++ le 1 d.pkgId ++
    le 1 (c.retries % 8) ++
    le 1 (b2n x.ord + 2 * b2n x.bnd + 4 * b2n cor + 8 * b2n unc + 16 * b2n x.sig + 32 * b2n x.zero) ++
    le 16 (digest c.enc) ++ le 16 c.inDig ++ le 16 c.outDig ++ le 8 (coreMaskOf c) ++
    le 4 (min x.corrected 0xFFFFFFFF) ++ le 4 (min x.shadows 0xFFFFFFFF) ++ link

/-- A command that signals a tally at its commit adds one to it (R331, R360, R371). -/
def Dev.signalled (d : Dev) (c : Cmd) : Dev :=
  if bitAt c.flags 1 || decide (c.op = 8) then
    let i := fieldAt c.desc 28 2 % 4096
    d.setTally c.part i (d.tallyOf c.part i + 1)
  else d

/-- A serving step takes over what the checks of one of its entries found (R406). -/
def Checks.merge (a b : Checks) : Checks :=
  { a with
    cover := a.cover ||| b.cover, absent := a.absent ||| b.absent, ord := a.ord || b.ord, bnd := a.bnd || b.bnd,
    sig := a.sig || b.sig, corrected := a.corrected + b.corrected, shadows := a.shadows + b.shadows,
    cores := a.cores ||| b.cores, spares := a.spares ||| b.spares }

/-- An entry of a list has committed (R369, R370, R405): the next may launch; after the last the list goes on to its digest pass,
a step to its boundary; a list that is to stop completes. -/
def Dev.entryDone (d : Dev) (k : Clk) (c : Cmd) (par i : Nat) : Dev :=
  match d.cmd par with
  | none => d.dropCmd c.cid
  | some pc =>
    let step := match pc.kind with
      | .step _ => true
      | _ => false
    let chk := if step then pc.chk.merge c.chk else pc.chk
    let pc1 := { pc with entryLive := false, entryK := i + 1, pos := i + 1, chk := chk }
    let d1 := (d.dropCmd c.cid).setCmd pc1
    match pc.stop with
    | some (st, de, b3) => d1.queueCompletion k pc1 st de b3
    | none =>
      if fieldAt pc.desc 36 4 ≤ i + 1 then d1.setCmd { pc1 with ph := (if step then .completion else .digest) } else d1

/-- The commit point: the receipt takes its index and is queued for writing (R374 step 5, R95). An entry of a serving step
commits with neither receipt nor completion (R402). -/
def Dev.commitPoint (d : Dev) (k : Clk) (cid : Nat) : Dev :=
  match d.cmd cid with
  | none => d
  | some c =>
    match c.kind with
    | .step _ => d
    | .entry par i => if d.inStep c then (d.signalled c).entryDone k c par i else commitWith d k c
    | .descriptor => commitWith d k c
where
  /-- Give the receipt its index and queue it. -/
  commitWith (d : Dev) (k : Clk) (c : Cmd) : Dev :=
    let ch := d.chain c.part
    let b := d.receiptBytes k c ch.next ch.prevHash
    let d1 := d.setChain c.part { ch with next := (ch.next + 1) % 2 ^ 64, prevHash := (sha384 b).take 32 }
    (d1.queueEntry (256 + c.part) ⟨b, some c.cid, false⟩).onCmd c.cid
      (fun x => { x with ph := .receipt, rcpt := some b, rcptIdx := ch.next })

/-- Step 1 of R374 for a kernel: once every block has retired and every comparison and sample has resolved, execution ends, its
cores are free, and a pre-emption request is withdrawn. -/
def Dev.kernelEnd (d : Dev) (cid : Nat) : Dev :=
  match d.cmd cid with
  | none => d
  | some c =>
    if (c.ph = .running ∨ c.ph = .parking) ∧ c.op = 4 ∧ c.run.total ≤ c.run.retired ∧ c.chk.shadowPend = 0 ∧
        c.cores.all (fun l => (d.core (36 * c.part + l)).cmps.isEmpty) = true then
      d.setCmd { c with ph := .digest, cores := [], chk := { c.chk with cover := c.chk.cover ||| 0x14 } }
    else d

/-- Seal reasons in the order in which Table: Seal record lists them (R96, R100): 2, 3, 0, 1. -/
def reasonRank (r : Nat) : Nat := match r with
  | 2 => 0
  | 3 => 1
  | 0 => 2
  | _ => 3

/-- The oldest waiting seal starts once no other is being signed and none that is signed waits for its ring (R98, R100). It takes
the recall events raised since the last one started (R105, log entry 69). -/
def Dev.sealStart (d : Dev) (p : Nat) : Dev :=
  let c := d.chain p
  if c.signing.isSome ∨ c.signed ≠ [] then d
  else
    match c.waiting with
    | [] => d
    | w :: rest =>
      d.setChain p { c with waiting := rest, signing := some { w with recalls := c.recalls, recallN := c.recallN }, recalls := [], recallN := 0 }

/-- A seal reason falls (R96, R100): it creates a waiting seal, or moves the head of the waiting seal of its chain. The head
is the newest receipt written. -/
def Dev.sealTrigger (d : Dev) (k : Clk) (p reason : Nat) (cid : Option Nat) : Dev :=
  let c := d.chain p
  match c.log with
  | [] => d
  | (top, _) :: _ =>
    let add := match cid with
      | some x => [x]
      | none => []
    if top ≤ c.sealedTo then d
    else
      match c.waiting.find? (fun w => w.chain == c.gen) with
      | some w =>
        let w' := { w with last := top, reason := (if reasonRank reason < reasonRank w.reason then reason else w.reason),
                           head := sha384 c.lastRcpt, cids := w.cids ++ add }
        d.setChain p { c with waiting := c.waiting.map (fun x => if x.chain = c.gen then w' else x), sealedTo := top }
      | none =>
        let w : SealRec := ⟨c.gen, c.sealNext, c.sealedTo + 1, top, k.beat, k.notch, d.now, reason, sha384 c.lastRcpt, [], 0, false, add⟩
        (d.setChain p { c with waiting := c.waiting ++ [w], sealedTo := top, sealBeat := k.beat, sealNext := (c.sealNext + 1) % 2 ^ 64 }).sealStart p

/-- The 128 signed bytes of a seal record (Table: Seal record). -/
def Dev.sealHead (d : Dev) (p : Nat) (w : SealRec) : Bytes :=
  le 8 w.idx ++ le 8 w.first ++ le 8 w.last ++ le 8 w.beat ++ le 2 w.notch ++ le 1 w.reason ++ zeros 1 ++ le 1 p ++ le 1 d.pkgId ++
    zeros 2 ++ w.head ++ le 4 w.recallN ++ zeros 4 ++ le 16 (digest w.recalls) ++ zeros 16

/-- A 256-byte seal record, phase bit 0: the head, then the signature over it, big-endian (R98, R99). -/
def sealRecord (head : Bytes) : Bytes := head ++ be 96 (Config.sign head).toNat ++ zeros 32

end Sys2Proof.Machine
end

