-- ==== Sys2Proof/Machine/Faults.lean ====
section
/-! DEFINITION. The fabric state table, blazing and spares, partition states and mesh routes (R227 to R242, R495 to R508, R513, R518, R522). -/

namespace Sys2Proof.Machine

/-! ### Core entries (R18, R496) -/

/-- The number 144d + i of a core's entry. -/
def entryOf (p l : Nat) : Nat := (coreMapOff p l - 0x161000) / 8

/-- The partition and local tile of an entry. -/
def tileOfEntry (e : Nat) : Nat × Nat :=
  let row := e % 144 / 12
  let col := e % 12
  (4 * (e / 144) + 2 * (row / 6) + col / 6, 6 * (row % 6) + col % 6)

/-- The offset of an entry's state word; its generation stands 4 further. -/
def mapOff (e : Nat) : Nat := 0x161000 + 8 * e

/-- Replace an entry's state and number; its generation rises by one (R496). -/
def Dev.setEntry (d : Dev) (e st num : Nat) : Dev :=
  let w := setFld (setFld (d.reg (mapOff e)) 0 2 st) 3 5 num
  (d.setReg (mapOff e) w).setReg (mapOff e + 4) (d.reg (mapOff e + 4) + 1)

/-- Working active tiles of a partition (R505). -/
def Dev.workingActive (d : Dev) (p : Nat) : Nat :=
  ((List.range 36).filter (fun l => d.mapState p l == 0 && !flag (d.reg (coreMapOff p l)) 2)).length

/-- Working spares of a partition in ascending S-number (R236). -/
def Dev.workingSpares (d : Dev) (p : Nat) : List Nat :=
  (List.range 32).flatMap (fun n => (List.range 36).filter (fun l =>
    d.mapState p l == 1 && d.mapNum p l == n && !flag (d.reg (coreMapOff p l)) 2 && !d.testing.contains (576 + entryOf p l)))

/-- Idle spares in ascending S-number: no shadow sample held (R238). -/
def Dev.idleSpare (d : Dev) (p : Nat) : Option Nat :=
  (d.workingSpares p).find? (fun l => (d.core (36 * p + l)).shadow.isNone)

/-- The lowest S-number that no spare of the partition holds. -/
def Dev.freeSNo (d : Dev) (p : Nat) : Nat :=
  ((List.range 32).find? (fun n => !(List.range 36).any (fun l => d.mapState p l == 1 && d.mapNum p l == n))).getD 31

/-! ### Events (R522) -/

/-- An event of Table: Fault events. -/
def faultEvent (k : Clk) (ty b2 b3 w4 b6 b7 w8 : Nat) : Bytes :=
  le 1 ty ++ zeros 1 ++ le 1 b2 ++ le 1 b3 ++ le 2 w4 ++ le 1 b6 ++ le 1 b7 ++ le 4 w8 ++ zeros 4 ++ le 8 k.beat ++ le 2 k.notch ++ zeros 6

/-- A core event, to the PF's ring and the partition's. -/
def Dev.coreEvent (d : Dev) (k : Clk) (p e reason num sno : Nat) : Dev :=
  let ev := faultEvent k 0x90 reason (e / 144 + 4 * p) (e % 144) num sno (d.regN (mapOff e + 4))
  (d.raise k pfRing ev).raise k p ev

/-- The registers of a partition's state. -/
def partStOff (p : Nat) : Nat := 0x160300 + 8 * p

/-- A partition event (R505, R522); reset-started and reset-done go to the PF's ring only. -/
def Dev.partEvent (d : Dev) (k : Clk) (p cause trigger : Nat) : Dev :=
  let w := d.reg (partStOff p)
  let ev := faultEvent k 0x92 cause p (fld w 8 6 + fld w 16 3 * 256) trigger 0 (d.regN (0x160380 + 4 * p))
  let d1 := d.raise k pfRing ev
  if cause = 3 ∨ cause = 4 then d1 else d1.raise k p ev

/-- A partition's entry changes to a word, under a new generation where it differs (R496, R505). -/
def Dev.putPart (d : Dev) (p : Nat) (w : Word) : Dev :=
  if w = d.reg (partStOff p) then d else (d.setReg (partStOff p) w).setReg (partStOff p + 4) (d.reg (partStOff p + 4) + 1)

/-- A partition's entry with a state and the counts of the moment. -/
def Dev.partWord (d : Dev) (p st : Nat) : Word :=
  setFld (setFld (setFld (d.reg (partStOff p)) 0 3 st) 8 6 (d.workingActive p)) 16 3 (d.workingSpares p).length

/-- Set a partition's state (R505). -/
def Dev.setPartSt (d : Dev) (p st : Nat) : Dev := d.putPart p (d.partWord p st)

/-- The state that the count of working active cores gives (R505). -/
def stateByCount (n : Nat) : Nat := if n = 0 then 4 else if n < 32 then 1 else 0

/-- The counts of a partition are brought up to date (R505). -/
def Dev.partCounts (d : Dev) (p : Nat) : Dev := d.setPartSt p (d.partSt p)

/-- The counts and, in states 0, 1 and 4, the state; every change of state raises its event (R505). -/
def Dev.partUpdate (d : Dev) (k : Clk) (p : Nat) : Dev :=
  let st := d.partSt p
  let new := stateByCount (d.workingActive p)
  if st = 2 ∨ st = 3 ∨ st = new then d.partCounts p
  else (d.setPartSt p new).partEvent k p (if new = 1 then 0 else if new = 4 then 1 else 6) 0

/-! ### Blazing (R236, R237, R501 to R503) -/

/-- A shadow sample held by a core is dropped and counted; its command has one less to wait for (R69, R70, R503). -/
def Dev.dropShadow (d : Dev) (no : Nat) : Dev :=
  match (d.core no).shadow with
  | none => d
  | some (_, cid) =>
    (((d.setCore no { d.core no with shadow := none }).bump 0x80030).onCmd cid (fun c =>
      { c with chk := { c.chk with shadowPend := c.chk.shadowPend - 1 } })).kernelEnd cid

/-- Fell commands for a cause that is no failed check: re-queued at the head with their age, not counted (R503, R234). -/
def Dev.fellAll (d : Dev) (cids : List Nat) : Dev :=
  cids.foldl (fun a c => match a.cmd c with
    | some x => if x.ph.fellable then a.fell c .requeue else a
    | none => a) d

/-- The spare that takes a blazed core's logical number: one core-map update (R236). -/
def Dev.substitute (d : Dev) (k : Clk) (p l sp num : Nat) : Dev :=
  let d1 := (d.dropShadow (36 * p + sp)).setEntry (entryOf p sp) 0 num
  let c := d1.core (36 * p + sp)
  let d2 := d1.setCore (36 * p + sp) { c with l1 := [], readyAt := d1.now + 3200 }
  let d3 := { d2 with cmds := d2.cmds.map (fun (x : Cmd) =>
    if x.part = p ∧ x.cores.contains l then { x with cores := x.cores.map (fun t => if t = l then sp else t) } else x) }
  if (d3.workingSpares p).isEmpty then (d3.partCounts p).partEvent k p 5 0 else d3

/-- Blaze a core with a reason of Table: Blaze reasons. A blazed or isolated core stays as it is. -/
def Dev.blaze (d : Dev) (k : Clk) (p l reason : Nat) : Dev :=
  let e := entryOf p l
  let st := d.mapState p l
  if st = 2 ∨ st = 3 then d
  else
    let num := d.mapNum p l
    let no := 36 * p + l
    let d1 := (d.dropShadow no).setEntry e (if reason = 4 then 3 else 2) num
    let d2 := (if reason = 3 then d1.orReg (mapOff e) 4 else d1).bump 0x160004
    let d3 := { d2 with reasons := Sparse.put (fun _ => 0) d2.reasons e (reason + 1), testing := d2.testing.filter (fun x => x % 576 != e),
                        swaps := (match Sparse.get (fun _ => 0) d2.swaps p with
                          | 0 => d2.swaps
                          | s + 1 => if s / 64 = l then Sparse.drop d2.swaps p else d2.swaps) }
    let hit := match (d3.core no).cid with
      | some c => if (d3.core no).blocks.isEmpty then [] else [c]
      | none => []
    let d4 := d3.fellAll hit
    let spare := if st = 0 then (d4.workingSpares p).head? else none
    let sno := match spare with
      | some sp => d4.mapNum p sp
      | none => 0xFF
    let d5 := match spare with
      | some sp => d4.substitute k p l sp num
      | none => if st = 0 then { d4 with cmds := d4.cmds.map (fun (x : Cmd) => if x.part = p then { x with cores := x.cores.filter (· != l) } else x) }
                else d4
    (d5.coreEvent k p e reason (if spare.isSome then num else 0xFF) sno).partUpdate k p

/-- The offset of a core's suspect count. -/
def suspectOff (e : Nat) : Nat := 0x166000 + 4 * e

/-- A check-failure event names a core: its count rises, and at BLAZE_THRESH it is blazed (R502). -/
def Dev.suspect (d : Dev) (k : Clk) (p l : Nat) : Dev :=
  let off := suspectOff (entryOf p l)
  let n := min 15 (d.regN off + 1)
  let d1 := d.setRegN off n
  if fld (d1.reg 0x160000) 0 4 ≤ n then d1.blaze k p l 1 else d1

/-- A failed check of a command (R74 to R79, R502): its event, its felling, and the counts of the cores it names. -/
def Dev.checkFail (d : Dev) (k : Clk) (cid mech t1 t2 : Nat) : Dev :=
  match d.cmd cid with
  | none => d
  | some c =>
    if !c.ph.fellable then d
    else
      let d1 := d.checkFailCore k cid mech t1 t2
      ([t1, t2].filter (fun t => t < 36)).foldl (fun a t => a.suspect k c.part t) d1

/-! ### Management of the table (R499, R500, R504, R518) -/

/-- The result of a state write. -/
def Dev.fstResult (d : Dev) (r : Nat) : Dev := d.setRegN 0x160018 r

/-- The key of the generation staged for an entry on a path. -/
def stageKey (path : Path) (off : Nat) : Nat := pathKey path off

/-- A generation word written is staged for its path (R499). -/
def Dev.stage (d : Dev) (path : Path) (off : Nat) (v : Word) : Dev :=
  { d with staged := Sparse.put (fun _ => 0) d.staged (stageKey path off) (v.toNat + 1) }

/-- The staged generation matches the entry's. -/
def Dev.stagedOk (d : Dev) (path : Path) (off : Nat) : Bool :=
  Sparse.get (fun _ => 0) d.staged (stageKey path off) == d.regN (off + 4) + 1

/-- A staged value is consumed. -/
def Dev.unstage (d : Dev) (path : Path) (off : Nat) : Dev :=
  { d with staged := Sparse.drop d.staged (stageKey path off) }

/-- The offset of an entry of the table. -/
def fstOff (e : FstEntry) : Nat :=
  match e with
  | .core i => mapOff i.val
  | .part n => partStOff n.val
  | .pkg p => 0x160800 + 8 * p.val

/-- FST_GENERATION_STAGE (R499). -/
def execFstGenerationStage (path : Path) (e : FstEntry) (v : Word) (s : State) : Out :=
  .next (s.onDev (fun d => d.onWrite path (fstOff e + 4) (d.stage path (fstOff e) v)))

/-- A write to a core's state word (R499, R500, R504, R573, R578): bits [1:0] alone are taken. While a return's self-test runs,
FST_RESULT reads busy (log entry 70). -/
def Dev.coreMapWrite (d : Dev) (k : Clk) (path : Path) (i : Nat) (v : Word) : Dev :=
  let off := mapOff i
  let t := tileOfEntry i
  let st := d.mapState t.1 t.2
  let new := fld v 0 2
  let reason := Sparse.get (fun _ => 0) d.reasons i
  d.onWrite path off
    (let out := decide (st = 0 ∨ st = 1) && decide (new = 2)
     let back := decide (st = 2) && decide (new = 1) && decide (reason ≠ 4) && decide (reason ≠ 5)
     if !out && !back then (d.refuse path off 2).fstResult 2
     else if !d.stagedOk path off then (d.refuse path off 4).fstResult 1
     else if out then ((d.unstage path off).fstResult 0).blaze k t.1 t.2 5
     else if d.testing.contains i then (d.refuse path off 4).fstResult 5
     else
       let d1 := (d.unstage path off).setReg (off + 4) (d.reg (off + 4) + 1)
       { d1.fstResult 5 with testing := d1.testing ++ [i] })

/-- CORE_MAP_STATE_WRITE (R499, R500, R504, R578). -/
def execCoreMapStateWrite (path : Path) (i : Fin 576) (v : Word) (s : State) : Out :=
  .next (s.onDev (fun d => d.coreMapWrite s.clk path i.val v))

/-- SELF_TEST_DONE (R504): the returning core becomes a spare with the lowest free S-number, or stays blazed. Where a logical
number is unassigned, it takes the lowest of them at once (R507, log entry 14). A core tested again after its entry was restored
stays as it is, or is blazed (R501, R513). -/
def execSelfTestDone (i : Fin 576) (pass : Bool) (s : State) : Out :=
  .next (s.onDev (fun d =>
    if d.testing.contains i.val then
      let t := tileOfEntry i.val
      let d1 := ({ d with testing := d.testing.filter (· != i.val) } : Dev).fstResult 0
      if pass && !flag (d.reg (mapOff i.val)) 2 then
        let sno := d1.freeSNo t.1
        let d2 := ((d1.setEntry i.val 1 sno).setRegN (suspectOff i.val) 0)
        let d3 := { d2 with reasons := Sparse.drop d2.reasons i.val }
        match (List.range 32).find? (fun n => !(List.range 36).any (fun l => d3.mapState t.1 l == 0 && d3.mapNum t.1 l == n)) with
        | none => (d3.coreEvent s.clk t.1 i.val 6 0xFF sno).partUpdate s.clk t.1
        | some n =>
          let d4 := d3.setReg (mapOff i.val) (setFld (setFld (d3.reg (mapOff i.val)) 0 2 0) 3 5 n)
          let no := 36 * t.1 + t.2
          let d5 := d4.setCore no { d4.core no with readyAt := d4.now + 3200 }
          (d5.coreEvent s.clk t.1 i.val 6 n 0xFF).partUpdate s.clk t.1
      else d1.fstResult 3
    else if d.testing.contains (576 + i.val) then
      let t := tileOfEntry i.val
      let d1 := ({ d with testing := d.testing.filter (· != 576 + i.val) } : Dev)
      if pass then d1 else d1.blaze s.clk t.1 t.2 0
    else d))

/-- SUSPECT_DECAY (R502): 24 hours without an increase. -/
def execSuspectDecay (i : Fin 576) (s : State) : Out :=
  .next (s.onDev (fun d => d.setRegN (suspectOff i.val) (d.regN (suspectOff i.val) - 1)))

/-- FIRMWARE_STORE_SAVE (R513): stress and suspect counts go to the firmware store. -/
def Dev.saveCounts (d : Dev) : Dev :=
  { d with
    fwStress := (List.range 576).foldl (fun m i => Sparse.put (fun _ => 0) m i (d.reg64 (0x164000 + 8 * i))) d.fwStress,
    fwSuspect := (List.range 576).foldl (fun m i => Sparse.put (fun _ => 0) m i (d.regN (suspectOff i))) d.fwSuspect }

/-- FIRMWARE_STORE_SAVE (R513). -/
def execFirmwareStoreSave (s : State) : Out := .next (s.onDev Dev.saveCounts)

/-- FST_ENTRY_ERROR (R495, R513): corrected in place, or restored under a new generation with its core's self-test rerun. -/
def execFstEntryError (e : FstEntry) (corrected : Bool) (s : State) : Out :=
  .next (s.onDev (fun d =>
    if corrected then d.orReg 0x16001C 1
    else
      let off := fstOff e
      let d1 := (d.orReg 0x16001C 2).setReg (off + 4) (d.reg (off + 4) + 1)
      match e with
      | .core i => if d1.testing.contains (576 + i.val) then d1 else { d1 with testing := d1.testing ++ [576 + i.val] }
      | _ => d1))

/-- A write to a package's state word, on the lead (R499, R500, R518, R523, R573). -/
def Dev.pkgStateWrite (d : Dev) (lead : Bool) (path : Path) (i : Nat) (v : Word) : Dev :=
  let off := 0x160800 + 8 * i
  d.onWrite path off
    (if !lead then (d.refuse path off 4).fstResult 4
     else if fld (d.reg off) 0 2 < 2 ∨ fld v 0 2 ≠ 0 then (d.refuse path off 2).fstResult 2
     else if !d.stagedOk path off then (d.refuse path off 4).fstResult 1
     else (((d.unstage path off).setReg off (setFld (d.reg off) 0 2 0)).setReg (off + 4) (d.reg (off + 4) + 1)).fstResult 0)

/-- PKG_STATE_WRITE (R518). -/
def execPkgStateWrite (path : Path) (i : Fin 64) (v : Word) (s : State) : Out :=
  .next (s.onDev (fun d => d.pkgStateWrite (decide (s.beat.role = .lead)) path i.val v))

/-! ### Wear rotation (R239 to R241) -/

/-- The effective state of a die as its DIE_STATE shows it: 0 to 3, or 4 in PS4 (R471). -/
def Dev.dieState (d : Dev) (die : Nat) : Nat :=
  let w := d.reg (0x120010 + 4 * die)
  if flag w 24 then 4 else fld w 20 3

/-- STRESS_TICK (R239): each core's counter adds its weight. -/
def execStressTick (s : State) : Out :=
  .next (s.onDev (fun d =>
    (List.range 576).foldl (fun a e =>
      let t := tileOfEntry e
      let ps := a.dieState (e / 144)
      let on := a.mapState t.1 t.2 == 0 || (a.core (36 * t.1 + t.2)).shadow.isSome
      if on && decide (ps < 4) && a.ready then a.accumulate (0x164000 + 8 * e) (0x164004 + 8 * e + 2 ^ 23) (4 - ps) else a) d))

/-- The stress of a core, wraps included. -/
def Dev.stressOf (d : Dev) (p l : Nat) : Nat :=
  let off := 0x164000 + 8 * entryOf p l
  d.reg64 off + (d.reg (off + 4 + 2 ^ 23)).toNat * 2 ^ 64

/-- The element of a list with the greatest value, the first of equals. -/
def argMax (f : Nat → Nat) : List Nat → Option Nat
  | [] => none
  | x :: r =>
    match argMax f r with
    | some y => if f x < f y then some y else some x
    | none => some x

/-- The element with the least value, the first of equals. -/
def argMin (f : Nat → Nat) : List Nat → Option Nat
  | [] => none
  | x :: r =>
    match argMin f r with
    | some y => if f y < f x then some y else some x
    | none => some x

/-- WEAR_EVALUATE (R240). -/
def execWearEvaluate (s : State) : Out :=
  .next (s.onDev (fun d =>
    if flag (d.reg 0x160100) 0 then
      (List.range 16).foldl (fun a p =>
        if Sparse.get (fun _ => 0) a.swaps p ≠ 0 then a
        else match argMax (a.stressOf p) (a.activeTiles p), argMin (a.stressOf p) (a.workingSpares p) with
          | some x, some y =>
            if a.regN 0x160104 + a.stressOf p y ≤ a.stressOf p x then
              { a with swaps := Sparse.put (fun _ => 0) a.swaps p (64 * x + y + 1) }
            else a
          | _, _ => a) d
    else d))

/-- WEAR_SWAP (R241): in a wear window, with core a free and spare b without a sample. -/
def execWearSwap (p : Fin 16) (s : State) : Out :=
  let openNow := s.winOpen 2
  .next (s.onDev (fun d =>
    match Sparse.get (fun _ => 0) d.swaps p.val with
    | 0 => d
    | w + 1 =>
      let a := w / 64
      let b := w % 64
      let ca := d.core (36 * p.val + a)
      if openNow && ca.blocks.isEmpty && (d.core (36 * p.val + b)).shadow.isNone && d.mapState p.val a == 0 && d.mapState p.val b == 1 then
        let n := d.mapNum p.val a
        let m := d.mapNum p.val b
        let d1 := ((d.setEntry (entryOf p.val b) 0 n).setEntry (entryOf p.val a) 1 m).bump 0x160108
        let cb := d1.core (36 * p.val + b)
        let d2 := (d1.setCore (36 * p.val + b) { cb with cid := ca.cid, cfg := ca.cfg, l1 := [], readyAt := d1.now + 3200 }).setCore
          (36 * p.val + a) { ca with cid := none, l1 := [] }
        { d2 with swaps := Sparse.drop d2.swaps p.val,
                  cmds := d2.cmds.map (fun (x : Cmd) =>
                    if x.part = p.val ∧ x.cores.contains a then { x with cores := x.cores.map (fun t => if t = a then b else t) } else x) }
      else d))

/-! ### Routes (R229 to R235) -/

/-- Tiles of an X leg from column `c` to `c'` along row `r`, both ends included. -/
def legX (r c c' : Nat) : List Nat :=
  if c ≤ c' then (List.range (c' - c + 1)).map (fun i => 12 * r + c + i) else (List.range (c - c' + 1)).map (fun i => 12 * r + c - i)

/-- Tiles of a Y leg from row `r` to `r'` along column `c`. -/
def legY (c r r' : Nat) : List Nat :=
  if r ≤ r' then (List.range (r' - r + 1)).map (fun i => 12 * (r + i) + c) else (List.range (r - r' + 1)).map (fun i => 12 * (r - i) + c)

/-- The tiles of the XY route, ends included. -/
def routeXY (s t : Nat) : List Nat := legX (s / 12) (s % 12) (t % 12) ++ legY (t % 12) (s / 12) (t / 12)

/-- The tiles of the YX route. -/
def routeYX (s t : Nat) : List Nat := legY (s % 12) (s / 12) (t / 12) ++ legX (t / 12) (s % 12) (t % 12)

/-- A route avoids every dead router. -/
def avoids (dead path : List Nat) : Bool := path.all (fun x => !dead.contains x)

/-- Hops between two tiles. -/
def hops (s t : Nat) : Nat :=
  (max (s / 12) (t / 12) - min (s / 12) (t / 12)) + (max (s % 12) (t % 12) - min (s % 12) (t % 12))

/-- The intermediate tile of class 2: least total hops, then lowest index (R229). -/
def intermediate (dead : List Nat) (s t : Nat) : Option Nat :=
  argMin (fun i => hops s i + hops i t)
    ((List.range 144).filter (fun i => !dead.contains i && avoids dead (routeXY s i) && avoids dead (routeXY i t)))

/-- The route class from tile to tile, with the intermediate of class 2; none where there is no route (R229). -/
def routeOf (dead : List Nat) (s t : Nat) : Option (Nat × Nat) :=
  if avoids dead (routeXY s t) then some (0, 0)
  else if avoids dead (routeYX s t) then some (1, 0)
  else (intermediate dead s t).map (fun i => (2, i))

/-- The physical tiles of the gateways of quadrants 0 to 3 (R232). -/
def gateways : List Nat := [65, 66, 77, 78]

/-- The gateway that serves a quadrant: its own, then q xor 1, 2, 3 (R232). -/
def gatewayOf (dead : List Nat) (q : Nat) : Option Nat :=
  ([q, q ^^^ 1, q ^^^ 2, q ^^^ 3].map (fun i => gateways.getD i 65)).find? (fun g => !dead.contains g)

/-- A tile is isolated: no route to or from a working tile of its partition or any gateway, or no gateway at all (R231). -/
def isolated (dead : List Nat) (t : Nat) : Bool :=
  let q := 2 * (t / 72) + t % 12 / 6
  let own := (List.range 144).filter (fun i => decide (2 * (i / 72) + i % 12 / 6 = q) && !dead.contains i)
  let gws := gateways.filter (fun g => !dead.contains g)
  gws.isEmpty || (own ++ gws).any (fun x => (routeOf dead t x).isNone || (routeOf dead x t).isNone)

/-- The dead routers of a die. -/
def Dev.deadRouters (d : Dev) (die : Nat) : List Nat :=
  (List.range 144).filter (fun i => flag (d.reg (mapOff (144 * die + i))) 2)

/-- Route tables of a die recomputed and loaded: ROUTE_STATE, and the isolated tiles blazed (R231, R234, R242). -/
def Dev.loadRoutes (d : Dev) (k : Clk) (die : Nat) : Dev :=
  let dead := d.deadRouters die
  let c2 := if dead.isEmpty then 0 else
    ((List.range 144).filter (fun s => !dead.contains s)).foldl (fun n s =>
      n + (((List.range 144) ++ gateways).filter (fun t => match routeOf dead s t with
        | some (2, _) => true
        | _ => false)).length) 0
  let d1 := d.setRegN (0x160200 + 4 * die) (min 255 dead.length + min 255 c2 * 256)
  let iso := if dead.isEmpty then [] else (List.range 144).filter (fun t => !dead.contains t && isolated dead t)
  iso.foldl (fun a t => let x := tileOfEntry (144 * die + t); a.blaze k x.1 x.2 4) d1

/-- A fabric event, to the PF's ring. -/
def Dev.fabricEvent (d : Dev) (k : Clk) (cause die idx gen : Nat) : Dev :=
  d.raise k pfRing (faultEvent k 0x91 cause die idx 0 0 gen)

/-- A dead router: marked in its entry, and its core blazed with reason 3 (R231, R234). -/
def Dev.routerDead (d : Dev) (k : Clk) (die i : Nat) : Dev :=
  let e := 144 * die + i
  let t := tileOfEntry e
  let st := d.mapState t.1 t.2
  let d1 := if st = 2 ∨ st = 3 then (d.orReg (mapOff e) 4).setReg (mapOff e + 4) (d.reg (mapOff e + 4) + 1)
            else d.blaze k t.1 t.2 3
  d1.fabricEvent k 1 die i (d1.regN (mapOff e + 4))

/-- Retries so far of a link. -/
def Dev.retriesOf (d : Dev) (die a b : Nat) : Nat :=
  match d.linkRetry.find? (fun x => x.1 == die && x.2.1 == a && x.2.2.1 == b) with
  | some x => x.2.2.2
  | none => 0

/-- Set the retries of a link, none kept for 0. -/
def Dev.setRetries (d : Dev) (die a b n : Nat) : Dev :=
  let r := d.linkRetry.filter (fun x => !(x.1 == die && x.2.1 == a && x.2.2.1 == b))
  { d with linkRetry := if n = 0 then r else r ++ [(die, a, b, n)] }

/-- MESH_FLIT_RECEIVE (R227): good flits pass; each retry counts as a corrected error of the commands it carries; the ninth
failure makes the link suspect (what becomes of the XFR check: log entry 13). -/
def execMeshFlitReceive (die : Fin 4) (a b : Nat) (crcOk : Bool) (cids : List Nat) (s : State) : Out :=
  .next (s.onDev (fun d =>
    if crcOk then d.setRetries die.val a b 0
    else
      let n := d.retriesOf die.val a b
      if n < 8 then
        cids.foldl (fun x c => x.onCmd c (fun y => { y with chk := { y.chk with corrected := y.chk.corrected + 1 } }))
          (d.setRetries die.val a b (n + 1))
      else
        let d1 := d.setRetries die.val a b 0
        ({ d1 with suspects := d1.suspects ++ [(die.val, a, b, cids)] }).fabricEvent s.clk 0 die.val (a % 2 ^ 16) 0))

/-- ROUTE_RECONFIGURE (R234): both routers of a suspect link are tested; the dead ones are marked, routes reloaded, and
commands with lost flits felled uncounted. If neither fails, the XFR failure stands. -/
def execRouteReconfigure (die : Fin 4) (a b : Fin 144) (failA failB : Bool) (lost : List Nat) (s : State) : Out :=
  .next (s.onDev (fun d =>
    match d.suspects.find? (fun x => x.1 == die.val && x.2.1 == a.val && x.2.2.1 == b.val) with
    | none => d
    | some x =>
      let d1 := { d with suspects := d.suspects.filter (· != x) }
      if !failA && !failB then x.2.2.2.foldl (fun acc c => acc.checkFail s.clk c 4 0xFF 0xFF) d1
      else
        let g0 := (List.range 4).map (gatewayOf (d1.deadRouters die.val))
        let d2 := if failA then d1.routerDead s.clk die.val a.val else d1
        let d3 := if failB then d2.routerDead s.clk die.val b.val else d2
        let d4 := (d3.loadRoutes s.clk die.val).fabricEvent s.clk 2 die.val a.val 0
        let g1 := (List.range 4).map (gatewayOf (d4.deadRouters die.val))
        let d5 := if g0 = g1 then d4 else d4.fabricEvent s.clk 3 die.val a.val 0
        d5.fellAll (lost ++ x.2.2.2)))

end Sys2Proof.Machine
end

