-- ==== Sys2Proof/Machine/Dram.lean ====
section
/-! DEFINITION. Placement, the stacked memory, its read outcomes, sealed regions, repair and cruise (R243 to R248, R275 to R308, R102, R103). -/

namespace Sys2Proof.Machine

/-! ### Placement (R244, R245, R276, R277) -/

/-- The exclusive or of `n` fields of `w` bits. -/
def foldXor (w : Nat) : Nat → Nat → Nat
  | 0, _ => 0
  | n + 1, a => (a % 2 ^ w) ^^^ foldXor w n (a / 2 ^ w)

/-- The home slice of a device address, none where it is not homed (R245). -/
def Dev.homeSlice (d : Dev) (addr : Nat) : Option Nat :=
  let a := addr / 128
  if addr < d.spreadLen then some (foldXor 6 6 a)
  else (d.nearDie addr).map (fun die => 16 * die + foldXor 4 9 a)

/-- The address has a home. -/
def Dev.homed (d : Dev) (addr : Nat) : Bool := (d.homeSlice addr).isSome

/-- The die that a spread granule `g` of block β is homed on. -/
def granDie (blk g : Nat) : Nat := foldXor 6 6 (64 * blk + 4 * g) / 16

/-- The die and die offset of a homed address (R276). -/
def Dev.place (d : Dev) (addr : Nat) : Option (Nat × Nat) :=
  if addr < d.spreadLen then
    let a := addr / 128
    let b := a / 64
    let g := a / 4 % 16
    let die := granDie b g
    let r := ((List.range g).filter (fun x => granDie b x == die)).length
    some (die, b * 2048 + r * 512 + a % 4 * 128 + addr % 128)
  else (d.nearDie addr).map (fun die => (die, gib * (48 - d.nearGib) + (addr - nearBase die)))

/-- The address at a die offset, with N of NEAR_GIB (R276). -/
def addrAt (n die off : Nat) : Nat :=
  if off < gib * (48 - n) then
    let b := off / 2048
    let g := (((List.range 16).filter (fun x => granDie b x == die)).getD (off / 512 % 4) 0)
    (64 * b + 4 * g) * 128 + off % 512
  else nearBase die + (off - gib * (48 - n))

/-- Channel, bank, row and column of a granule index of a die (R277). -/
def channelOf (gr : Nat) : Nat := (gr % 32) ^^^ (gr / 32 % 32) ^^^ (gr / 1024 % 32)
/-- The bank of a granule. -/
def bankOf (gr : Nat) : Nat := gr / 32 / 4 % 32
/-- The row of a granule. -/
def rowOf (gr : Nat) : Nat := gr / 32 / 128

/-- The key of a row in the state. -/
def rowKey (die ch bank row : Nat) : Nat := 24576 * (32 * (32 * die + ch) + bank) + row

/-- The key of the row of a granule. -/
def granRow (die gr : Nat) : Nat := rowKey die (channelOf gr) (bankOf gr) (rowOf gr)

/-! ### Events and counters of memory (R305, R306) -/

/-- A memory event. -/
def memEvent (k : Clk) (ty b1 rgn die ch addr detail : Nat) : Bytes :=
  le 1 ty ++ le 1 b1 ++ le 1 rgn ++ le 1 (die + 4 * ch) ++ le 8 addr ++ le 4 detail ++ le 8 k.beat ++ le 2 k.notch ++ zeros 6

/-- The offset of the MEM registers of a die. -/
def memDie (die : Nat) : Nat := 0xA0100 + 0x40 * die

/-- A row starts copying to a spare row of its bank, or the bank's exhaustion is said once (R284). -/
def Dev.remapStart (d : Dev) (k : Clk) (key : Nat) : Dev :=
  if d.rowBusy.contains key then d
  else
    let bank := key / 24576
    if Sparse.get (fun _ => 0) d.bankUsed bank < 8 then { d with rowBusy := d.rowBusy ++ [key] }
    else if d.bankSaid.contains bank then d
    else ({ d with bankSaid := d.bankSaid ++ [bank] }).raise k pfRing (memEvent k 0x42 0 0 (bank / 1024) (bank / 32 % 32) 0 0)

/-- Corrected errors are credited to the commands in flight of a partition that read or write the address (R88). -/
def Dev.credit (d : Dev) (addr : Nat) (p : Option Nat) : Dev :=
  match p with
  | none => d
  | some q => { d with cmds := d.cmds.map (fun (c : Cmd) =>
      if c.part = q ∧ c.ph.fellable = true ∧ (c.ins ++ c.outs).any (fun r => decide (r.addr / 128 ≤ addr / 128) && decide (addr < r.addr + r.len)) = true then
        { c with chk := { c.chk with corrected := c.chk.corrected + 1 } } else c) }

/-- A codeword read with one symbol corrected (R282, R284). -/
def Dev.corrected (d : Dev) (k : Clk) (die gr addr : Nat) (p : Option Nat) : Dev :=
  let key := granRow die gr
  let n := Sparse.get (fun _ => 0) d.rowCe key + 1
  let d1 := (d.bump (memDie die + 0x20)).credit addr p
  let d2 := { d1 with rowCe := Sparse.put (fun _ => 0) d1.rowCe key n }
  if fld (d2.reg 0xA000C) 0 8 ≤ n then d2.remapStart k key else d2

/-! ### Sealed regions (R290 to R299) -/

/-- The offset of a region's registers. -/
def rgnOff (r : Nat) : Nat := 0x82000 + 0x40 * r

/-- No activity of a region. -/
def rgnReset : Nat → Rgn := fun _ => ⟨false, [], [], 0⟩

/-- A region beside its registers. -/
def Dev.region (d : Dev) (r : Nat) : Rgn := Sparse.get rgnReset d.rgn r

/-- Replace a region. -/
def Dev.setRegion (d : Dev) (r : Nat) (x : Rgn) : Dev := { d with rgn := Sparse.put rgnReset d.rgn r x }

/-- State code of a region (R292). -/
def Dev.rgnSt (d : Dev) (r : Nat) : Nat := fld (d.reg (rgnOff r + 0x24)) 0 3

/-- Set a region's state and reason. -/
def Dev.setRgnSt (d : Dev) (r st reason : Nat) : Dev := d.setRegN (rgnOff r + 0x24) (st + 256 * reason)

/-- Base, pages and table address. -/
def Dev.rgnBase (d : Dev) (r : Nat) : Nat := d.reg64 (rgnOff r)
/-- Page count. -/
def Dev.rgnPages (d : Dev) (r : Nat) : Nat := fld (d.reg (rgnOff r + 8)) 0 26
/-- Table address. -/
def Dev.rgnTable (d : Dev) (r : Nat) : Nat := d.reg64 (rgnOff r + 0x10)
/-- Backing address, 0 for none. -/
def Dev.rgnBack (d : Dev) (r : Nat) : Nat := d.reg64 (rgnOff r + 0x18)

/-- The region in one of some states that holds an address. -/
def Dev.regionAt (d : Dev) (sts : List Nat) (addr : Nat) : Option Nat :=
  (List.range 64).find? (fun r => sts.contains (d.rgnSt r) && decide (d.rgnBase r ≤ addr) && decide (addr < d.rgnBase r + 4096 * d.rgnPages r))

/-- The region in one of some states whose table holds an address. -/
def Dev.tableAt (d : Dev) (sts : List Nat) (addr : Nat) : Option Nat :=
  (List.range 64).find? (fun r => sts.contains (d.rgnSt r) && decide (d.rgnTable r ≤ addr) && decide (addr < d.rgnTable r + 32 * d.rgnPages r))

/-- A write to the line would break a region or its table (R293). -/
def Dev.sealedLine (d : Dev) (addr : Nat) : Option Nat :=
  match d.regionAt [1, 2, 3] addr with
  | some r => some r
  | none => d.tableAt [1, 2, 3] addr

/-- A discarded write's event (R293). -/
def Dev.sealViolation (d : Dev) (k : Clk) (r addr : Nat) : Dev :=
  let w := (d.place addr).getD (0, 0)
  d.raise k pfRing (memEvent k 0x45 2 r w.1 (channelOf (w.2 / 512)) (addr / 128 * 128) 0)

/-- A command's inputs intersect [a, a + n). -/
def Cmd.reads (c : Cmd) (a n : Nat) : Bool :=
  c.ins.any (fun r => decide (0 < r.len) && decide (r.addr < a + n) && decide (a < r.addr + r.len))

/-- A command's inputs include a page under repair: it is not eligible (R296). -/
def Dev.repairHeld (d : Dev) (c : Cmd) : Bool :=
  (List.range 64).any (fun r => d.rgnSt r == 3 && (d.region r).pages.any (fun x => c.reads (d.rgnBase r + 4096 * x.1) 4096))

/-- The region in state 4 that a command's inputs intersect (R298). -/
def Dev.damagedFor (d : Dev) (c : Cmd) : Option Nat :=
  (List.range 64).find? (fun r => d.rgnSt r == 4 && c.reads (d.rgnBase r) (4096 * d.rgnPages r))

/-- End a command that has not committed for the sake of its input: felled if granted, at once if it waits (R295, R298). -/
def Dev.endInput (d : Dev) (k : Clk) (cid status detail : Nat) : Dev :=
  match d.cmd cid with
  | none => d
  | some c =>
    if c.ph.fellable then d.fell cid (.complete status detail)
    else if c.ph = .waiting then d.endCmd k cid status detail 0xFF
    else if c.ph = .felling ∨ c.ph = .draining then d.onCmd cid (fun x => { x with fellEnd := (match x.fellEnd with
      | .requeue => .complete status detail
      | e => e) })
    else d

/-- The beat of a page's last clean cruise, from its table entry (R291). -/
def Dev.stamp (d : Dev) (m : Sparse Byte) (r page : Nat) : Nat := leNat (readMem m (d.rgnTable r + 32 * page + 16) 8)

/-- A recall event to one partition, which also enters its next seal (R102 to R105, R299). -/
def Dev.recallTo (d : Dev) (k : Clk) (p r page first last : Nat) (damaged : Bool) : Dev :=
  let c := d.chain p
  let hit := c.log.filter (fun e => decide (first ≤ e.2) && decide (e.2 ≤ last))
  let prior := decide (1 < c.gen) && decide (first < c.began)
  let ev := le 1 0x21 ++ le 1 (2 * b2n prior + 4 * b2n damaged) ++ le 1 r ++ le 1 p ++ le 8 first ++
    le 4 (min (last - first + 1) 0xFFFFFFFF) ++ le 8 ((hit.map (·.1)).foldl (fun a b => if a = 0 then b else min a b) 0) ++
    le 4 hit.length ++ le 4 page
  ((d.setChain p { c with recalls := c.recalls ++ ev, recallN := c.recallN + 1 }).bump 0x80034).raise k p ev

/-- Recall events to every partition that read the page since its stamp (R294, R299). -/
def Dev.recall (d : Dev) (m : Sparse Byte) (k : Clk) (r page detect : Nat) (damaged : Bool) : Dev :=
  let st := d.stamp m r page
  (List.range 16).foldl (fun a p =>
    let b := Sparse.get (fun _ => 0) (a.region r).read p
    if b ≠ 0 ∧ st ≤ b - 1 then a.recallTo k p r page st detect damaged else a) d

/-- The region is damaged: its readers end input-damaged, each partition told, and its recalls raised (R298, R299). -/
def Dev.rgnDamage (d : Dev) (m : Sparse Byte) (k : Clk) (r reason : Nat) : Dev :=
  let x := d.region r
  let page := match x.pages with
    | e :: _ => e.1
    | [] => 0
  let d1 := ((d.setRgnSt r 4 reason).setRegN (rgnOff r + 0x28) page).setRegion r { x with pages := [], tries := 0 }
  let hit := d1.cmds.filter (fun c => c.reads (d1.rgnBase r) (4096 * d1.rgnPages r))
  let parts := (List.range 16).filter (fun p => hit.any (fun c => c.part == p))
  let d2 := hit.foldl (fun a c => a.endInput k c.cid 7 r) d1
  let d3 := parts.foldl (fun a p => a.raise k p (memEvent k 0x40 2 r 0 0 0 4)) d2
  x.pages.foldl (fun a e => a.recall m k r e.1 e.2.2 true) d3

/-- A page joins the repair of its region, in page order; a line joins the page's repair (R296). -/
def addPage (page : Nat) (line : Option Nat) (beat : Nat) :
    List (Nat × Option (List Nat) × Nat) → List (Nat × Option (List Nat) × Nat)
  | [] => [(page, line.map (fun l => [l]), beat)]
  | (q, ls, b) :: r =>
    if page < q then (page, line.map (fun l => [l]), beat) :: (q, ls, b) :: r
    else if page = q then
      (q, (match ls, line with
        | some a, some l => some (if a.contains l then a else a ++ [l])
        | _, _ => none), b) :: r
    else (q, ls, b) :: addPage page line beat r

/-- A bad line, or a page whose digest disagrees, starts or joins a repair; without a backing copy the region is damaged
(R296, R298). -/
def Dev.repairStart (d : Dev) (m : Sparse Byte) (k : Clk) (r page : Nat) (line : Option Nat) : Dev :=
  let x := d.region r
  let d1 := (if d.rgnSt r = 2 then d.setRgnSt r 3 0 else d).setRegion r { x with pages := addPage page line k.beat x.pages }
  if d.rgnBack r = 0 then d1.rgnDamage m k r 3
  else d1.fellAll ((d1.cmds.filter (fun c => c.reads (d1.rgnBase r + 4096 * page) 4096)).map (·.cid))

/-- A line becomes poisoned (R256): counted once. -/
def Dev.poisonLine (d : Dev) (line : Nat) : Dev :=
  if d.poison.contains line then d else ({ d with poison := line :: d.poison }).bump 0xC0050

/-- An uncorrectable read of a line (R282, R295, R296, R300): poisoned, its row remapped, its event raised, and for a sealed
line the repair begun. -/
def Dev.uncorrectable (d : Dev) (m : Sparse Byte) (k : Clk) (die gr line : Nat) (p : Option Nat) : Dev :=
  let old := d.poison.contains line
  let d1 := ((d.bump (memDie die + 0x24)).poisonLine line).remapStart k (granRow die gr)
  if old then d1
  else
    let addr := 128 * line
    let ev (a : Dev) (flag r st : Nat) : Dev :=
      let e := memEvent k 0x40 flag r die (channelOf gr) addr st
      let a1 := a.raise k pfRing e
      match p with
      | some q => a1.raise k q e
      | none => a1
    match d1.regionAt [2, 3] addr with
    | some r =>
      let d2 := d1.repairStart m k r ((addr - d1.rgnBase r) / 4096) (some line)
      ev d2 2 r (d2.rgnSt r)
    | none =>
      match d1.tableAt [2, 3] addr with
      | some r =>
        if d1.rgnBack r = 0 then
          let d2 := d1.rgnDamage m k r 3
          ev d2 2 r (d2.rgnSt r)
        else ev { d1 with poison := d1.poison.filter (· != line) } 2 r (d1.rgnSt r)
      | none => ev d1 0 0 0

/-- The outcomes of a granule's codewords (R282): symbols in error of each, from die offset `off` on. -/
def Dev.readOutcomes (d : Dev) (m : Sparse Byte) (k : Clk) (die off : Nat) (errs : List Nat) (p : Option Nat) : Dev :=
  let n := d.nearGib
  (errs.zip (List.range errs.length)).foldl (fun a x =>
    let o := off + 32 * x.2
    if x.1 = 0 then a
    else if x.1 = 1 then a.corrected k die (o / 512) (addrAt n die o) p
    else a.uncorrectable m k die (o / 512) (addrAt n die o / 128) p) d

/-! ### Bulk and narrow paths (R278 to R284) -/

/-- Slots issued on a channel: the number of its slot time. -/
def Dev.slotNow (d : Dev) (ch : Nat) : Nat := Sparse.get (fun _ => 0) d.slots ch

/-- A channel's slot time becomes `n`. -/
def Dev.setSlot (d : Dev) (ch n : Nat) : Dev := { d with slots := Sparse.put (fun _ => 0) d.slots ch n }

/-- One slot time of a channel has passed. -/
def Dev.slotUsed (d : Dev) (die ch : Nat) : Dev := d.setSlot (32 * die + ch) (d.slotNow (32 * die + ch) + 1)

/-- The slot time, `now` or later, at which a use that may happen `n` times in `w` slot times is due, after the uses of a list, newest first
(R280, R303, log entry 72). -/
def slotDue (now w n : Nat) (old : List Nat) : Nat :=
  match old[n - 1]? with
  | some x => max now (x + w)
  | none => now

/-- BULK_SLOT_ISSUE (R278, R279, R282): a read meets its codewords' outcomes; accesses to a row being copied wait. -/
def execBulkSlotIssue (die : Fin 4) (granule : Nat) (write : Bool) (errs : List Nat) (p : Option (Fin 16)) (s : State) : Out :=
  let k := s.clk
  .next (s.onDev (fun d =>
    if d.rowBusy.contains (granRow die.val granule) then d
    else
      let d1 := (d.slotUsed die.val (channelOf granule)).charge ((p.map Fin.val).getD devAcct) 9 512
      if write then d1 else d1.readOutcomes s.mem k die.val (512 * granule) (errs.take 16) (p.map Fin.val)))

/-- NARROW_ACCESS (R280): at most 1,638 in 1,024 consecutive slot times of a channel; one beyond that is served at the slot time it waits
for (log entry 72). -/
def execNarrowAccess (die : Fin 4) (codeword : Nat) (write : Bool) (errs : List Nat) (p : Option (Fin 16)) (s : State) : Out :=
  let k := s.clk
  .next (s.onDev (fun d =>
    let gr := codeword / 16
    let ch := 32 * die.val + channelOf gr
    let old := Sparse.get (fun _ => []) d.narrow ch
    let due := slotDue (d.slotNow ch) 1024 1638 old
    if d.rowBusy.contains (granRow die.val gr) then d
    else
      let d1 := (({ d with narrow := Sparse.put (fun _ => []) d.narrow ch ((due :: old).take 1638) } : Dev).setSlot ch due).charge
        ((p.map Fin.val).getD devAcct) 10 32
      if write then d1 else d1.readOutcomes s.mem k die.val (32 * codeword) (errs.take 1) (p.map Fin.val)))

/-- ROW_REMAP_DONE (R284, R285): the row is redirected to a spare row of its bank. -/
def execRowRemapDone (die : Fin 4) (ch bank : Fin 32) (row : Nat) (s : State) : Out :=
  let k := s.clk
  .next (s.onDev (fun d =>
    let key := rowKey die.val ch.val bank.val row
    if d.rowBusy.contains key then
      let used := Sparse.get (fun _ => 0) d.bankUsed (key / 24576)
      let d1 := { d with rowBusy := d.rowBusy.filter (· != key), rowCe := Sparse.drop d.rowCe key,
                         rowMap := Sparse.put (fun _ => 0) d.rowMap key (used + 1),
                         bankUsed := Sparse.put (fun _ => 0) d.bankUsed (key / 24576) (used + 1) }
      let d2 := (d1.setRegN (memDie die.val + 0x18) (d1.regN (memDie die.val + 0x18) - 1)).bump (memDie die.val + 0x28)
      d2.raise k pfRing (memEvent k 0x41 0 0 die.val ch.val 0 (bank.val * 65536 + row % 65536))
    else d))

/-! ### Sealing and repair (R292, R297, R308) -/

/-- Two address ranges overlap. -/
def overlap (a n b l : Nat) : Bool := decide (0 < n) && decide (0 < l) && decide (a < b + l) && decide (b < a + n)

/-- A region's registers break R290: no page, an alignment, a range not homed, or an overlap. -/
def Dev.rgnBad (d : Dev) (r : Nat) : Bool :=
  let n := d.rgnPages r
  let own := [(d.rgnBase r, 4096 * n), (d.rgnTable r, 32 * n)]
  decide (n = 0) || isHost (d.rgnBase r) || isHost (d.rgnTable r) || !d.inOneRange (d.rgnBase r) (4096 * n) ||
    !d.inOneRange (d.rgnTable r) (32 * n) || overlap (d.rgnBase r) (4096 * n) (d.rgnTable r) (32 * n) ||
    (decide (d.rgnBack r ≠ 0) && !isHost (d.rgnBack r)) ||
    (List.range 64).any (fun q => decide (q ≠ r) && decide (d.rgnSt q ≠ 0) &&
      own.any (fun x => overlap x.1 x.2 (d.rgnBase q) (4096 * d.rgnPages q) || overlap x.1 x.2 (d.rgnTable q) (32 * d.rgnPages q)))

/-- A buffer table holds a sealed entry within the region (R293). -/
def Dev.sealedEntry (d : Dev) (r : Nat) : Bool :=
  d.bufs.any (fun e => e.2.valid && e.2.sealed && overlap e.2.base e.2.len (d.rgnBase r) (4096 * d.rgnPages r))

/-- SEAL written to RGN_CMD: taken while the region is off and its registers stand within R290 (R292, R308). -/
def Dev.rgnSeal (d : Dev) (path : Path) (r : Nat) (v : Word) : Dev :=
  let off := rgnOff r + 0x20
  d.onWrite path off
    (d.guard path off (firstCause [(decide (d.rgnSt r ≠ 0), 2), (d.rgnBad r, 1)])
      ((d.setRgnSt r 1 0).setRegion r { d.region r with verify := flag v 2, pages := [], tries := 0 }))

/-- UNSEAL written to RGN_CMD (R292, R293, R308). -/
def Dev.rgnUnseal (d : Dev) (path : Path) (r : Nat) : Dev :=
  let off := rgnOff r + 0x20
  d.onWrite path off
    (d.guard path off (firstCause [(decide (d.rgnSt r = 1) || decide (d.rgnSt r = 3) || d.sealedEntry r, 2)])
      ((d.setRgnSt r 0 0).setRegion r { d.region r with pages := [], tries := 0 }))

/-- RGN_SEAL (R292). -/
def execRgnSeal (path : Path) (r : Fin 64) (v : Word) (s : State) : Out := .next (s.onDev (fun d => d.rgnSeal path r.val v))

/-- RGN_UNSEAL (R292). -/
def execRgnUnseal (path : Path) (r : Fin 64) (_v : Word) (s : State) : Out := .next (s.onDev (fun d => d.rgnUnseal path r.val))

/-- T_p of a page (R291). -/
def Dev.pageDigest (d : Dev) (m : Sparse Byte) (r page : Nat) : Nat := digest (readMem m (d.rgnBase r + 4096 * page) 4096)

/-- The T_p that the table holds. -/
def Dev.tableDigest (d : Dev) (m : Sparse Byte) (r page : Nat) : Nat := leNat (readMem m (d.rgnTable r + 32 * page) 16)

/-- Write a table entry's stamp. -/
def Dev.putStamp (d : Dev) (m : Sparse Byte) (r page beat : Nat) : Sparse Byte := writeMem m (d.rgnTable r + 32 * page + 16) (le 8 beat)

/-- RGN_SEALING_DONE (R292): every T_p is written, or compared with VERIFY; an unreadable or mismatching page refuses. The
stamp of every page is the beat at which sealing ends (log entry 15). -/
def execRgnSealingDone (r : Fin 64) (unreadable : List Nat) (s : State) : Out :=
  let d := s.dev
  let beat := s.beat.num
  if d.rgnSt r.val ≠ 1 then .next s
  else
    let pages := List.range (d.rgnPages r.val)
    let bad := pages.find? (fun p => unreadable.contains p ||
      ((d.region r.val).verify && d.pageDigest s.mem r.val p != d.tableDigest s.mem r.val p))
    match bad with
    | some p =>
      .next (s.onDev (fun d => (d.setRgnSt r.val 5 (if unreadable.contains p then 2 else 1)).setRegN (rgnOff r.val + 0x28) p))
    | none =>
      .next ((s.onMem (fun m => pages.foldl (fun a p =>
        d.putStamp (if (d.region r.val).verify then a else writeMem a (d.rgnTable r.val + 32 * p) (le 16 (d.pageDigest s.mem r.val p) ++ zeros 16))
          r.val p beat) m)).onDev (fun d => d.setRgnSt r.val 2 0))

/-- A line rewritten by a repair acts as a full-line InvW: poison clears, the directory entry becomes I and cached copies go
(R252, R297). -/
def Dev.lineRewritten (d : Dev) (line : Nat) : Dev :=
  { d with poison := d.poison.filter (· != line), dir := Sparse.drop d.dir line,
           l2 := d.l2.filter (fun e => e.1 / 16 != line) }

/-- A failed repair attempt: the second one damages the region (R297, R298). -/
def Dev.repairFailed (d : Dev) (m : Sparse Byte) (k : Clk) (r : Nat) : Dev :=
  let x := d.region r
  if x.tries = 0 then d.setRegion r { x with tries := 1 } else d.rgnDamage m k r 4

/-- REPAIR_READ_DONE (R297, R299): a matching page is rewritten from the backing copy, stamped and recalled. -/
def execRepairReadDone (r : Fin 64) (ok : Bool) (data : Bytes) (s : State) : Out :=
  let d := s.dev
  let k := s.clk
  match decide (d.rgnSt r.val = 3), (d.region r.val).pages with
  | true, (page, lines, beat) :: rest =>
    if ok && decide (data.length = 4096) && digest data == d.tableDigest s.mem r.val page then
      let first := (d.rgnBase r.val + 4096 * page) / 128
      let ls := match lines with
        | some l => l
        | none => (List.range 32).map (fun i => first + i)
      let mem0 := s.mem
      .next (((s.onMem (fun m => ls.foldl (fun a l => writeMem a (128 * l) (sub data (128 * (l - first)) 128)) m)).onMem
        (fun m => d.putStamp m r.val page k.beat)).onDev (fun d =>
          let d1 := ls.foldl (fun a l => a.lineRewritten l) d
          let d2 := d1.setRegion r.val { d1.region r.val with pages := rest, tries := 0 }
          let d3 := if rest.isEmpty then d2.setRgnSt r.val 2 0 else d2
          let w := (d3.place (128 * first)).getD (0, 0)
          (d3.raise k pfRing (memEvent k 0x46 2 r.val w.1 (channelOf (w.2 / 512)) (128 * (ls.headD first)) 0)).recall mem0 k r.val page beat false))
    else .next (s.onDev (fun d => d.repairFailed s.mem k r.val))
  | _, _ => .next s

/-- REPAIR_READ_TIMEOUT (R297). -/
def execRepairReadTimeout (r : Fin 64) (s : State) : Out :=
  .next (s.onDev (fun d => if d.rgnSt r.val = 3 then d.repairFailed s.mem s.clk r.val else d))

/-! ### Cruise (R301 to R304) -/

/-- Lines of a die's DRAM. -/
def dieLines : Nat := 402653184

/-- Cruise takes one slot of a channel, at the slot time its budget of 328 in 65,536 gives it; the granule counts to the device (R303, R477). -/
def Dev.cruiseSlot (d : Dev) (die gr : Nat) : Dev :=
  let ch := 32 * die + channelOf gr
  let old := Sparse.get (fun _ => []) d.cruiseUse ch
  let due := slotDue (d.slotNow ch) 65536 328 old
  (({ d with cruiseUse := Sparse.put (fun _ => []) d.cruiseUse ch ((due :: old).take 328) } : Dev).setSlot ch (due + 1)).charge devAcct 9 512

/-- CRUISE_READ (R301, R303, R304): the next granule of a die, within the cruise window. -/
def execCruiseRead (die : Fin 4) (errs : List Nat) (s : State) : Out :=
  let k := s.clk
  let openNow := s.winOpen 0
  .next (s.onDev (fun d =>
    let b := memDie die.val
    let pos := d.reg64 (b + 8)
    if flag (d.reg 0xA0000) 0 && openNow && !d.rowBusy.contains (granRow die.val (pos / 4)) then
      let row := granRow die.val (pos / 4)
      let d1 := if pos / 4 / 32 % 4 = 0 then { d with rowCe := Sparse.drop d.rowCe row } else d
      let d2 := (d1.cruiseSlot die.val (pos / 4)).readOutcomes s.mem k die.val (128 * pos) (errs.take 16) none
      let pos' := (pos + 4) % dieLines
      let d3 := (d2.setReg64 (b + 8) pos').setRegN (b + 0x10) (pos' * 65536 / dieLines)
      if pos' = 0 then { d3.bump (b + 0x14) with lateSaid := d3.lateSaid.filter (· != die.val) } else d3
    else d))

/-- The next page of the sealed pass from region `r`, page `p` on: the lowest region in state 2 that has one (R302). -/
def Dev.nextSealed (d : Dev) (r p : Nat) : Option (Nat × Nat) :=
  if d.rgnSt r = 2 ∧ p < d.rgnPages r then some (r, p)
  else ((List.range 64).find? (fun q => decide (r < q) && d.rgnSt q == 2 && decide (0 < d.rgnPages q))).map (fun q => (q, 0))

/-- Pages of all regions in state 2. -/
def Dev.sealedPages (d : Dev) : Nat := ((List.range 64).filter (fun q => d.rgnSt q == 2)).foldl (fun a q => a + d.rgnPages q) 0

/-- The granules that the sealed pass reads for a page: its own eight and that of its table entry. -/
def Dev.pageGranules (d : Dev) (r page : Nat) : List (Nat × Nat) :=
  (((List.range 8).map (fun i => d.rgnBase r + 4096 * page + 512 * i)) ++ [d.rgnTable r + 32 * page]).filterMap
    (fun a => (d.place a).map (fun w => (w.1, w.2 / 512)))

/-- SEALED_CRUISE_PAGE (R302 to R304): one page read and compared with its T_p; clean pages are stamped, a mismatch or an
uncorrectable line starts repair. -/
def execSealedCruisePage (errs tableErrs : List Nat) (s : State) : Out :=
  let k := s.clk
  let d := s.dev
  if !(flag (d.reg 0xA0000) 0 && s.winOpen 0) then .next s
  else
    let pos := d.reg 0xA0010
    match d.nextSealed (fld pos 0 6) (fld pos 6 26) with
    | none =>
      .next (s.onDev (fun d =>
        let d1 := (d.setRegN 0xA0010 0).setRegN 0xA0014 0
        { d1 with sealedDone := 0, sealedDue := d.sealedPages, lateSaid := d.lateSaid.filter (· != 4) }))
    | some (r, page) =>
      let base := d.rgnBase r + 4096 * page
      let grs := d.pageGranules r page
      if grs.any (fun e => d.rowBusy.contains (granRow e.1 e.2)) then .next s else
      let due := if d.sealedDone = 0 then d.sealedPages else d.sealedDue
      let ue := (errs.take 128).any (fun e => decide (2 ≤ e))
      let good := d.pageDigest s.mem r page == d.tableDigest s.mem r page
      let mem0 := s.mem
      let s1 := if !ue && good then s.onMem (fun m => d.putStamp m r page k.beat) else s
      .next (s1.onDev (fun d0 =>
        let d := grs.foldl (fun a e => a.cruiseSlot e.1 e.2) d0
        let n := d.nearGib
        let tl := d.rgnTable r + 32 * page
        let one (a : Dev) (addr e : Nat) : Dev :=
          match a.place addr with
          | none => a
          | some (die, o) =>
            if e = 0 then a else if e = 1 then a.corrected k die (o / 512) (addrAt n die o) none
            else a.uncorrectable mem0 k die (o / 512) (addr / 128) none
        let d1 := ((errs.take 128).zip (List.range 128)).foldl (fun a x => one a (base + 32 * x.2) x.1) d
        let d2 := ((tableErrs.take 1).zip [0]).foldl (fun a x => one a (tl + 32 * x.2) x.1) d1
        let d3 := if !ue && !good then d2.repairStart mem0 k r page none else d2
        let fin := (d3.nextSealed r (page + 1)).isNone && (d.nextSealed r (page + 1)).isNone
        let done := if fin then 0 else d.sealedDone + 1
        let np := (d.nextSealed r (page + 1)).getD (0, 0)
        let d4 := (d3.setRegN 0xA0010 (np.1 + 64 * np.2)).setRegN 0xA0014 (done * 65536 / max 1 due)
        { d4 with sealedDone := done, sealedDue := due, lateSaid := (if fin then d4.lateSaid.filter (· != 4) else d4.lateSaid) }))

/-- CRUISE_PERIOD_END (R303): a pass that has not finished raises one event. -/
def execCruisePeriodEnd (sealed : Bool) (die : Fin 4) (s : State) : Out :=
  let k := s.clk
  .next (s.onDev (fun d =>
    let key := if sealed then 4 else die.val
    let undone := if sealed then decide (d.sealedDone ≠ 0) else decide (d.reg64 (memDie die.val + 8) ≠ 0)
    if undone && !d.lateSaid.contains key then
      ({ d with lateSaid := d.lateSaid ++ [key] }).raise k pfRing
        (memEvent k 0x44 (4 * b2n sealed) 0 (if sealed then 0 else die.val) 0 0 0)
    else d))

end Sys2Proof.Machine
end

