-- ==== Sys2Proof/Machine/Float.lean ====
section
/-! DEFINITION. The number formats of the device (R110 to R127): exact values, one rounding, and the conversions. -/

namespace Sys2Proof.Machine

/-- The exact value of an encoding: NaN, an infinity, or (−1)^neg × m × 2^e (R111). -/
inductive Fv where
  | nan
  | inf (neg : Bool)
  | fin (neg : Bool) (m : Nat) (e : Int)
  deriving DecidableEq, Repr

/-- A floating-point format: exponent bits, mantissa bits, bias, code of the largest finite magnitude (R112). -/
structure FFmt where
  ebits : Nat
  mbits : Nat
  bias : Nat
  maxCode : Nat
  deriving DecidableEq, Repr

/-- A format by its code (R110): integer of a width, or floating point. -/
inductive NumFmt where
  | int (bits : Nat)
  | flt (f : FFmt) (kind : Nat)
  deriving DecidableEq, Repr

/-- How a format treats NaN, infinity and overflow: block-scaled element, finite only with NaN, IEEE-style (R112, R125). -/
def kindBlock : Nat := 0
def kindFinite : Nat := 1
def kindIeee : Nat := 2

def fmtF4 : FFmt := ⟨2, 1, 1, 7⟩
def fmtF6 : FFmt := ⟨3, 2, 3, 31⟩
def fmtF8a : FFmt := ⟨4, 3, 7, 0x7E⟩
def fmtF8b : FFmt := ⟨5, 2, 15, 0x7B⟩
def fmtB16 : FFmt := ⟨8, 7, 127, 0x7F7F⟩
def fmtH16 : FFmt := ⟨5, 10, 15, 0x7BFF⟩
def fmtS32 : FFmt := ⟨8, 23, 127, 0x7F7FFFFF⟩

/-- The format a 4-bit code names; codes 0xA to 0xF are reserved (R110). -/
def numFmt (code : Nat) : Option NumFmt :=
  match code with
  | 0 => some (.int 4)
  | 1 => some (.flt fmtF4 kindBlock)
  | 2 => some (.flt fmtF6 kindBlock)
  | 3 => some (.int 8)
  | 4 => some (.flt fmtF8a kindFinite)
  | 5 => some (.flt fmtF8b kindIeee)
  | 6 => some (.flt fmtB16 kindIeee)
  | 7 => some (.flt fmtH16 kindIeee)
  | 8 => some (.flt fmtS32 kindIeee)
  | 9 => some (.int 32)
  | _ => none

/-- The width of a format's elements in bits (R110). -/
def fmtBits (code : Nat) : Nat :=
  match code with
  | 0 => 4
  | 1 => 4
  | 2 => 6
  | 3 => 8
  | 4 => 8
  | 5 => 8
  | 6 => 16
  | 7 => 16
  | _ => 32

/-- Rounding modes (R120). -/
inductive Rnd where
  | rne
  | rtz
  | rdn
  | rup
  | sr
  deriving DecidableEq, Repr

/-- The mode a 3-bit code names; codes 5 to 7 are reserved (R120). -/
def rndOf (code : Nat) : Option Rnd :=
  match code with
  | 0 => some .rne
  | 1 => some .rtz
  | 2 => some .rdn
  | 3 => some .rup
  | 4 => some .sr
  | _ => none

/-- The least exponent of a unit in the last place of a format: that of its subnormals. -/
def FFmt.qmin (f : FFmt) : Int := 1 - (f.bias : Int) - (f.mbits : Int)

/-- The value of an encoding of a floating-point format (R111, R112, R113). -/
def decodeF (f : FFmt) (kind : Nat) (bits : Nat) : Fv :=
  let code := bits % 2 ^ (f.ebits + f.mbits)
  let neg := bits / 2 ^ (f.ebits + f.mbits) % 2 == 1
  let ex := code / 2 ^ f.mbits
  let man := code % 2 ^ f.mbits
  if kind = kindIeee ∧ f.maxCode < code then (if man = 0 then .inf neg else .nan)
  else if kind = kindFinite ∧ f.maxCode < code then .nan
  else if ex = 0 then .fin neg man f.qmin
  else .fin neg (2 ^ f.mbits + man) (f.qmin + (ex : Int) - 1)

/-- The sign a two's-complement encoding of `n` bits has, and its value (R116). -/
def intOf (n bits : Nat) : Int :=
  let v := bits % 2 ^ n
  if v < 2 ^ (n - 1) then (v : Int) else (v : Int) - 2 ^ n

/-- The `n`-bit two's-complement encoding of an integer. -/
def intBits (n : Nat) (x : Int) : Nat := (x % (2 ^ n : Int)).toNat

/-- An exact value from an integer. -/
def Fv.ofInt (x : Int) : Fv := .fin (x < 0) x.natAbs 0

/-- The exact value of an encoding of any format (R110 to R116). -/
def valueOf (fmt : Nat) (bits : Nat) : Fv :=
  match numFmt fmt with
  | some (.int n) => Fv.ofInt (intOf n bits)
  | some (.flt f k) => decodeF f k bits
  | none => .nan

/-- The multiple of 2^q that a magnitude m × 2^e rounds to, as a count of 2^q (R120, R122). `r` is the random value of SR. -/
def roundQ (mode : Rnd) (r : Nat) (neg : Bool) (m : Nat) (e q : Int) : Nat :=
  if q ≤ e then m * 2 ^ (e - q).toNat
  else
    let k := (q - e).toNat
    let n := m / 2 ^ k
    let rem := m % 2 ^ k
    if rem = 0 then n
    else
      let up : Bool :=
        match mode with
        | .rne => decide (2 ^ k < 2 * rem) || (decide (2 * rem = 2 ^ k) && n % 2 == 1)
        | .rtz => false
        | .rdn => neg
        | .rup => !neg
        | .sr => decide (65536 ≤ rem * 65536 / 2 ^ k + r)
      if up then n + 1 else n

/-- Whether the magnitude m × 2^e exceeds n × 2^q. -/
def magGt (m : Nat) (e : Int) (n : Nat) (q : Int) : Bool :=
  if q ≤ e then decide (n < m * 2 ^ (e - q).toNat) else decide (n * 2 ^ (q - e).toNat < m)

/-- The largest finite magnitude of a format, as mantissa and exponent. -/
def FFmt.maxMag (f : FFmt) : Nat × Int :=
  (2 ^ f.mbits + f.maxCode % 2 ^ f.mbits, f.qmin + (f.maxCode / 2 ^ f.mbits : Nat) - 1)

/-- The sign bit of a format, set or clear. -/
def FFmt.signBit (f : FFmt) (neg : Bool) : Nat := if neg then 2 ^ (f.ebits + f.mbits) else 0

/-- The canonical NaN of a format (R113). -/
def FFmt.canonNaN (f : FFmt) (kind : Nat) : Nat :=
  if kind = kindFinite then f.maxCode + 1 else f.maxCode + 1 + 2 ^ (f.mbits - 1)

/-- What an overflow of the given sign becomes (R122, R125, Table: Conversion special cases). -/
def overflowF (f : FFmt) (kind : Nat) (mode : Rnd) (neg : Bool) : Nat :=
  let toInf : Bool :=
    match mode with
    | .rne => true
    | .sr => true
    | .rtz => false
    | .rdn => neg
    | .rup => !neg
  if kind = kindIeee ∧ toInf = true then f.signBit neg + f.maxCode + 1 else f.signBit neg + f.maxCode

/-- One rounding of an exact value into a floating-point format (R121, R122, R125).
A NaN or infinity into a block-scaled element is decided by the block (R126) and encodes here as zero. -/
def encodeF (f : FFmt) (kind : Nat) (mode : Rnd) (r : Nat) (v : Fv) : Nat :=
  match v with
  | .nan => if kind = kindBlock then 0 else f.canonNaN kind
  | .inf neg =>
    if kind = kindIeee then f.signBit neg + f.maxCode + 1
    else if kind = kindFinite then f.signBit neg + f.maxCode
    else 0
  | .fin neg m e =>
    if m = 0 then f.signBit neg
    else
      let mode' := if mode = .sr ∧ magGt m e f.maxMag.1 f.maxMag.2 = true then Rnd.rne else mode
      let q := max f.qmin ((Nat.log2 m : Int) + e - (f.mbits : Int))
      let n := roundQ mode' r neg m e q
      let code := (q - f.qmin).toNat * 2 ^ f.mbits + n
      if f.maxCode < code then overflowF f kind mode' neg else f.signBit neg + code

/-- One rounding of an exact value into an n-bit integer, saturating; NaN gives 0 (R122, R125). -/
def encodeI (n : Nat) (mode : Rnd) (r : Nat) (v : Fv) : Nat :=
  let lim (neg : Bool) : Int := if neg then -(2 ^ (n - 1)) else 2 ^ (n - 1) - 1
  match v with
  | .nan => 0
  | .inf neg => intBits n (lim neg)
  | .fin neg m e =>
    let top : Nat := if neg then 2 ^ (n - 1) else 2 ^ (n - 1) - 1
    let mode' := if mode = .sr ∧ magGt m e top 0 = true then Rnd.rne else mode
    let k := roundQ mode' r neg m e 0
    if top < k then intBits n (lim neg) else intBits n (if neg then -(k : Int) else (k : Int))

/-- One rounding of an exact value into the format a code names (R125). -/
def encodeTo (fmt : Nat) (mode : Rnd) (r : Nat) (v : Fv) : Nat :=
  match numFmt fmt with
  | some (.int n) => encodeI n mode r v
  | some (.flt f k) => encodeF f k mode r v
  | none => 0

/-- The signed integer that m × 2^(e − q) is, for q ≤ e. -/
def alignTo (neg : Bool) (m : Nat) (e q : Int) : Int :=
  let x : Int := (m * 2 ^ (e - q).toNat : Nat)
  if neg then -x else x

/-- The exact sum of two values, with the IEEE sign of an exact zero under a rounding mode (R114). -/
def Fv.add (mode : Rnd) (a b : Fv) : Fv :=
  match a, b with
  | .nan, _ => .nan
  | .inf _, .nan => .nan
  | .fin _ _ _, .nan => .nan
  | .inf s, .inf t => if s = t then .inf s else .nan
  | .inf s, .fin _ _ _ => .inf s
  | .fin _ _ _, .inf t => .inf t
  | .fin s m e, .fin t n f =>
    let q := min e f
    let x := alignTo s m e q + alignTo t n f q
    if x = 0 then
      (if m = 0 ∧ n = 0 ∧ s = t then .fin s 0 q else .fin (decide (mode = .rdn)) 0 q)
    else .fin (decide (x < 0)) x.natAbs q

/-- The exact product of two values (R114, R128). -/
def Fv.mul (a b : Fv) : Fv :=
  match a, b with
  | .nan, _ => .nan
  | .inf _, .nan => .nan
  | .fin _ _ _, .nan => .nan
  | .inf s, .inf t => .inf (s != t)
  | .inf s, .fin t n _ => if n = 0 then .nan else .inf (s != t)
  | .fin s m _, .inf t => if m = 0 then .nan else .inf (s != t)
  | .fin s m e, .fin t n f => .fin (s != t) (m * n) (e + f)

/-- The value with its sign inverted. -/
def Fv.neg (a : Fv) : Fv :=
  match a with
  | .nan => .nan
  | .inf s => .inf (!s)
  | .fin s m e => .fin (!s) m e

/-- The value with its sign cleared. -/
def Fv.abs (a : Fv) : Fv :=
  match a with
  | .nan => .nan
  | .inf _ => .inf false
  | .fin _ m e => .fin false m e

/-- Whether a value is a NaN. -/
def Fv.isNan (a : Fv) : Bool :=
  match a with
  | .nan => true
  | _ => false

/-- −1, 0 or 1 as `a` lies below, at or above `b`; neither is a NaN; −0 equals +0 (R114). -/
def Fv.cmp (a b : Fv) : Int :=
  match a, b with
  | .inf s, .inf t => if s = t then 0 else if s then -1 else 1
  | .inf s, _ => if s then -1 else 1
  | _, .inf t => if t then 1 else -1
  | .fin s m e, .fin t n f =>
    let q := min e f
    let x := alignTo s m e q - alignTo t n f q
    if x < 0 then -1 else if x = 0 then 0 else 1
  | _, _ => 0

/-- Minimum (`mx` false) or maximum under R179: the other operand for one NaN, NaN for two, −0 below +0. -/
def Fv.minMax (mx : Bool) (a b : Fv) : Fv :=
  if a.isNan then b
  else if b.isNan then a
  else
    let c := Fv.cmp a b
    if c = 0 then
      match a with
      | .fin s _ _ => if s = mx then b else a
      | _ => a
    else if (c < 0) = (mx = false) then a else b

/-- Conversion of one element (R125). -/
def convert (src dst : Nat) (mode : Rnd) (r : Nat) (bits : Nat) : Nat := encodeTo dst mode r (valueOf src bits)

/-- The magnitude of a finite value as (m, e), `none` for NaN, infinity or zero. -/
def Fv.mag? (a : Fv) : Option (Nat × Int) :=
  match a with
  | .fin _ m e => if m = 0 then none else some (m, e)
  | _ => none

/-- ⌊log₂⌋ of the largest magnitude of a block, `none` when every element is zero (R126). -/
def blockLog (vs : List Fv) : Option Int :=
  vs.foldl (fun acc v =>
    match v.mag? with
    | none => acc
    | some (m, e) =>
      let l := (Nat.log2 m : Int) + e
      match acc with
      | none => some l
      | some a => some (max a l)) none

/-- Whether a value is finite. -/
def Fv.isFin (a : Fv) : Bool :=
  match a with
  | .fin _ _ _ => true
  | _ => false

/-- A value times 2^k. -/
def Fv.scale (a : Fv) (k : Int) : Fv :=
  match a with
  | .fin s m e => .fin s m (e + k)
  | x => x

/-- The scale code and the element codes of a packed F4 or F6 block (R126). `f4` selects F4. -/
def packBlock (f4 : Bool) (mode : Rnd) (rs : List Nat) (vs : List Fv) : Nat × List Nat :=
  let f := if f4 then fmtF4 else fmtF6
  let emax : Int := if f4 then 2 else 4
  if vs.all Fv.isFin = false then (0xFF, vs.map (fun _ => 0))
  else
    match blockLog vs with
    | none => (127, vs.map (fun v => encodeF f kindBlock mode 0 v))
    | some l =>
      let s : Nat := (max 0 (min 254 (l - emax + 127))).toNat
      (s, (vs.zip rs).map (fun p => encodeF f kindBlock mode p.2 (p.1.scale (127 - (s : Int)))))

/-- The value of a block-scaled element (R118, R127): scale code 0xFF makes it NaN. -/
def blockValue (f4 : Bool) (scale code : Nat) : Fv :=
  if scale = 0xFF then .nan
  else (decodeF (if f4 then fmtF4 else fmtF6) kindBlock code).scale ((scale : Int) - 127)

end Sys2Proof.Machine
end

