-- ==== Sys2Proof/Machine/Flags.lean ====
section
/-! DEFINITION. Condition codes and comparisons: what a predicate-writing instruction decides (R178). -/

namespace Sys2Proof.Machine

/-- A condition code over the sign of a comparison: 0 eq, 1 ne, 2 lt, 3 le, 4 gt, 5 ge (R178). -/
def condHolds (cc : Nat) (sign : Int) : Bool :=
  match cc with
  | 0 => decide (sign = 0)
  | 1 => decide (sign ≠ 0)
  | 2 => decide (sign < 0)
  | 3 => decide (sign ≤ 0)
  | 4 => decide (0 < sign)
  | 5 => decide (0 ≤ sign)
  | _ => false

/-- An integer comparison of two words, signed or unsigned (R177). -/
def intCond (unsigned : Bool) (cc : Nat) (a b : Word) : Bool :=
  condHolds cc (if unsigned then (a.toNat : Int) - b.toNat else a.toInt - b.toInt)

/-- A floating-point comparison: false with a NaN operand, except ne (R178). -/
def floatCond (cc : Nat) (a b : Fv) : Bool :=
  if a.isNan || b.isNan then decide (cc = 1) else condHolds cc (Fv.cmp a b)

/-- The four predicate operations of PLOP: and, or, xor, and-not (R182). -/
def predOp (op : Nat) (a b : BitVec 32) : BitVec 32 :=
  match op with
  | 0 => a &&& b
  | 1 => a ||| b
  | 2 => a ^^^ b
  | _ => a &&& ~~~b

/-- The bits that a mask takes from a new value, its other bits unchanged. -/
def mergeMask (m old new : BitVec 32) : BitVec 32 := (old &&& ~~~m) ||| (new &&& m)

end Sys2Proof.Machine
end

