-- ==== Sys2Proof/Machine/Coherence.lean ====
section
/-! DEFINITION. Homes, directories, snoops and the L2s (R249 to R256). The one image of device memory holds the latest value of every
byte; an L2 line's state says who may write it (log entry 16). -/

namespace Sys2Proof.Machine

/-- No entry. -/
def dirReset : Nat → DirEnt := fun _ => ⟨.i, [], 0, none, []⟩

/-- A line's directory entry. -/
def Dev.dirEnt (d : Dev) (line : Nat) : DirEnt := Sparse.get dirReset d.dir line

/-- Replace a line's directory entry. -/
def Dev.setDir (d : Dev) (line : Nat) (e : DirEnt) : Dev := { d with dir := Sparse.put dirReset d.dir line e }

/-- The state of a line in the directory: P wherever its data is unusable (R250, R256). -/
def Dev.dirSt (d : Dev) (line : Nat) : DirSt := if d.poison.contains line then .p else (d.dirEnt line).st

/-- The state of a line in a partition's L2. -/
def Dev.l2St (d : Dev) (p line : Nat) : L2St := Sparse.get (fun _ => L2St.i) d.l2 (16 * line + p)

/-- Set the state of a line in a partition's L2. -/
def Dev.setL2 (d : Dev) (p line : Nat) (st : L2St) : Dev :=
  { d with l2 := Sparse.put (fun _ => L2St.i) d.l2 (16 * line + p) st }

/-- A partition answers no snoop: it is non-responsive (R255). -/
def Dev.silent (d : Dev) (p : Nat) : Bool := d.partSt p == 2 || decide (8 ≤ Sparse.get (fun _ => 0) d.resetting p)

/-! ### Stores of the cores (R189, R193, R251, R254) -/

/-- A load or atomic that its group issued before place `seq` and that holds back a later store or atomic to `line`: a plain load until it
has returned, an atomic until it is performed; every atomic holds a release back (R260, R261, log entry 73). -/
def Load.holds (l : Load) (seq line : Nat) (rel : Bool) : Bool :=
  decide (l.seq < seq) &&
    (match l.aop with
      | none => l.lanes.any (fun e => e.2 / 128 == line)
      | some _ => l.atoms.any (fun a => a.old.isNone && (rel || l.lanes.any (fun e => e.1 == a.lane && e.2 / 128 == line))))

/-- The loads and atomics of a group that have not returned. -/
def Dev.loadsOf (d : Dev) (no slot : Nat) : List Load :=
  match (d.core no).groups.find? (fun g => g.slot == slot) with
  | some g => g.loads
  | none => []

/-- The next place in the order of a group's global accesses. -/
def Dev.nextSeq (d : Dev) (no slot : Nat) : Nat :=
  1 + (((d.stores.filter (fun p => p.no == no && p.slot == slot)).map (·.seq)) ++ ((d.loadsOf no slot).map (·.seq))).foldl max 0

/-- A waiting store may be performed: its L2 holds the line in E, M or P, a release waits for its group's earlier stores and atomics, and
it passes no earlier access of its group to its line. -/
def Dev.storable (d : Dev) (before : List Pend) (x : Pend) : Bool :=
  (match d.l2St x.part (x.addr / 128) with
    | .e => true
    | .m => true
    | .p => true
    | _ => false) && !(x.rel && before.any (fun y => y.no == x.no && y.slot == x.slot)) &&
    !before.any (fun y => y.no == x.no && y.addr / 128 == x.addr / 128) &&
    !(d.loadsOf x.no x.slot).any (fun l => l.holds x.seq (x.addr / 128) x.rel)

/-- The first waiting store that may be performed, and the list without it. -/
def Dev.pickStore (d : Dev) : List Pend → List Pend → Option (Pend × List Pend)
  | _, [] => none
  | before, x :: r => if d.storable before x then some (x, before ++ r) else d.pickStore (before ++ [x]) r

/-- Perform stores while one may be: an owner moves to M without telling the home (R250); a store to a sealed line is
discarded with its event (R293). -/
def State.sweepStores : Nat → State → State
  | 0, s => s
  | n + 1, s =>
    match s.dev.pickStore [] s.dev.stores with
    | none => s
    | some (x, rest) =>
      let line := x.addr / 128
      match s.dev.sealedLine x.addr with
      | some r => State.sweepStores n (s.onDev (fun d => ({ d with stores := rest }).sealViolation s.clk r x.addr))
      | none =>
        State.sweepStores n ((s.store x.addr x.data).onDev (fun d =>
          let d1 := { d with stores := rest }
          if d1.l2St x.part line = .p then d1 else d1.setL2 x.part line .m))

/-- Perform every store that may be. -/
def State.sweep (s : State) : State := s.sweepStores s.dev.stores.length

/-! ### Atomics (R194, R252) -/

/-- The result of an atomic operation on `n` bits (Table: Atomic operations); 16 is compare-and-swap. -/
def atomResult (aop n old arg swap : Nat) : Nat :=
  let so := intOf n old
  let sa := intOf n arg
  match aop with
  | 0 => (old + arg) % 2 ^ n
  | 1 => old &&& arg
  | 2 => old ||| arg
  | 3 => old ^^^ arg
  | 4 => if so ≤ sa then old else arg
  | 5 => if so ≤ sa then arg else old
  | 6 => min old arg
  | 7 => max old arg
  | 8 => arg
  | 9 => encodeTo 8 .rne 0 (Fv.add .rne (valueOf 8 old) (valueOf 8 arg))
  | 10 => encodeTo 8 .rne 0 (Fv.minMax false (valueOf 8 old) (valueOf 8 arg))
  | 11 => encodeTo 8 .rne 0 (Fv.minMax true (valueOf 8 old) (valueOf 8 arg))
  | _ => if old = arg then swap else old

/-- A command receives poison (R295): a failed MEM check where it wrote the storage itself, input-poisoned otherwise; a line
under repair has felled it already (R296). -/
def Dev.receivePoison (d : Dev) (k : Clk) (cid addr : Nat) : Dev :=
  match d.cmd cid with
  | none => d
  | some c =>
    if (d.regionAt [3] addr).isSome then d
    else if c.outs.any (fun r => decide (r.addr ≤ addr) && decide (addr < r.addr + r.len)) then d.checkFail k cid 2 0xFF 0xFF
    else
      let w := (d.place addr).getD (0, 0)
      let e := memEvent k 0x40 0 0 w.1 (channelOf (w.2 / 512)) (addr / 128 * 128) 0
      ((d.raise k pfRing e).raise k c.part e).endInput k cid 6 0

/-- Change a group of a core. -/
def Dev.onGrp (d : Dev) (no slot : Nat) (f : Grp → Grp) : Dev :=
  let c := d.core no
  d.setCore no { c with groups := c.groups.map (fun g => if g.slot = slot then f g else g) }

/-- A load is an atomic in which a lane has not been performed. -/
def Load.lacks (l : Load) (lane : Nat) : Bool := l.aop.isSome && l.atoms.any (fun a => a.lane == lane && a.old.isNone)

/-- The atomic of a lane that waits: its load, lane entry and address. -/
def Dev.atomOf (d : Dev) (no slot lane : Nat) : Option (Nat × Nat × AtomLane × Nat) :=
  match (d.core no).groups.find? (fun g => g.slot == slot) with
  | none => none
  | some g =>
    match g.loads.find? (fun l => l.lacks lane) with
    | none => none
    | some l =>
      match l.atoms.find? (fun a => a.lane == lane), l.lanes.find? (fun a => a.1 == lane) with
      | some a, some x => some (l.aop.getD 0, l.size, a, x.2)
      | _, _ => none

/-- Record the old value of a lane in the oldest atomic that lacks it. -/
def loadsDone (lane old : Nat) : List Load → List Load
  | [] => []
  | l :: r =>
    if l.lacks lane then { l with atoms := l.atoms.map (fun a => if a.lane = lane then { a with old := some old } else a) } :: r
    else l :: loadsDone lane old r

/-- Record the old value of a lane's atomic. -/
def Dev.atomDone (d : Dev) (no slot lane old : Nat) : Dev :=
  d.onGrp no slot (fun g => { g with loads := loadsDone lane old g.loads })

/-- The atomic of a lane performed at the slice of its line (R252): on a poisoned line it writes nothing and returns poison. -/
def State.performAtom (s : State) (line no slot lane : Nat) : State :=
  match s.dev.atomOf no slot lane with
  | none => s
  | some (aop, size, a, addr) =>
    if addr / 128 ≠ line then s
    else if s.dev.poison.contains (addr / 128) then
      s.onDev (fun d =>
        let (v, d1) := d.take 5
        let d2 := d1.atomDone no slot lane (v.toNat % 2 ^ (8 * size))
        match (d2.core no).cid with
        | some cid => d2.receivePoison s.clk cid addr
        | none => d2)
    else
      let old := leNat (readMem s.mem addr size)
      match s.dev.sealedLine addr with
      | some r => s.onDev (fun d => (d.atomDone no slot lane old).sealViolation s.clk r addr)
      | none => (s.store addr (le size (atomResult aop (8 * size) old a.arg a.swap))).onDev (fun d => d.atomDone no slot lane old)

/-! ### The home (R252, R253, R255) -/

/-- A line leaves every L2 of a list. -/
def Dev.dropL2 (d : Dev) (line : Nat) (ps : List Nat) : Dev := ps.foldl (fun a p => a.setL2 p line .i) d

/-- The 32 words of a line. -/
def lineWords (m : Sparse Byte) (line : Nat) : List Word :=
  (List.range 32).map (fun i => BitVec.ofNat 32 (leNat (readMem m (128 * line + 4 * i) 4)))

/-- The engine of an agent without a cache that meets poison: its commands that read the line (R256). -/
def Dev.agentPoison (d : Dev) (who : Agent) (line : Nat) : Dev :=
  let hit (p : Nat) (e : Nat) : Dev := { d with cmds := d.cmds.map (fun (c : Cmd) =>
    if c.part = p ∧ c.eng = e ∧ c.ph.fellable = true ∧ c.reads (128 * line) 128 = true then { c with poisoned := true } else c) }
  match who with
  | .copy p => hit p.val 1
  | .collective p => hit p.val 2
  | .layering p => hit p.val 4
  | _ => d

/-- A full-line mask. -/
def fullMask : Nat := 2 ^ 128 - 1

/-- What a request does at its home once no snoop is outstanding (Table: Coherence transitions). `p0` is the directory
state before. -/
def State.homeDone (s : State) (line : Nat) (req : HomeReq) : State :=
  let e := s.dev.dirEnt line
  if s.dev.dirSt line = .p then
    match req with
    | .rds _ => s
    | .rdu p => (s.onDev (fun d => d.setL2 p line .p)).sweep
    | .upg p => (s.onDev (fun d => d.setL2 p line .p)).sweep
    | .pkr who => s.onDev (fun d => (d.agentPoison who line).answer [])
    | .invw _ mask data =>
      let s1 := s.onMem (fun m => writeMasked m (128 * line) mask data)
      if mask = fullMask then s1.onDev (fun d => ({ d with poison := d.poison.filter (· != line) }).setDir line { e with st := .i, sharers := [] })
      else s1
    | .atm no slot lane => (s.performAtom line no slot lane).sweep
  else
    match req with
    | .rds p =>
      match e.st with
      | .i => s.onDev (fun d => (d.setDir line { e with st := .e, owner := p }).setL2 p line .e)
      | .s => s.onDev (fun d => (d.setDir line { e with sharers := if e.sharers.contains p then e.sharers else e.sharers ++ [p] }).setL2 p line .s)
      | _ =>
        if e.owner = p then s
        else s.onDev (fun d => ((d.setDir line { e with st := .s, sharers := [e.owner, p] }).setL2 e.owner line .s).setL2 p line .s)
    | .rdu p =>
      (s.onDev (fun d => ((d.dropL2 line (e.sharers.filter (· != p) ++ (if e.st = .e ∧ e.owner ≠ p then [e.owner] else []))).setDir line
        { e with st := .e, sharers := [], owner := p }).setL2 p line (if d.l2St p line = .m then .m else .e))).sweep
    | .upg p =>
      (s.onDev (fun d => ((d.dropL2 line (e.sharers.filter (· != p) ++ (if e.st = .e ∧ e.owner ≠ p then [e.owner] else []))).setDir line
        { e with st := .e, sharers := [], owner := p }).setL2 p line (if d.l2St p line = .m then .m else .e))).sweep
    | .pkr _ => s.onDev (fun d => d.answer (lineWords s.mem line))
    | .invw _ mask data =>
      (s.onMem (fun m => writeMasked m (128 * line) mask data)).onDev (fun d =>
        (d.dropL2 line (e.sharers ++ (if e.st = .e then [e.owner] else []))).setDir line { e with st := .i, sharers := [] })
    | .atm no slot lane =>
      ((s.onDev (fun d => (d.dropL2 line (e.sharers ++ (if e.st = .e then [e.owner] else []))).setDir line { e with st := .i, sharers := [] })).performAtom
        line no slot lane).sweep

/-- The partitions that a request must snoop (Table: Coherence transitions). -/
def snoopSet (e : DirEnt) (req : HomeReq) : List Nat :=
  let others (p : Nat) : List Nat :=
    match e.st with
    | .s => e.sharers.filter (· != p)
    | .e => if e.owner = p then [] else [e.owner]
    | _ => []
  match req with
  | .rds p => if e.st = .e then others p else []
  | .rdu p => others p
  | .upg p => others p
  | .pkr _ => if e.st = .e then [e.owner] else []
  | .invw _ _ _ => others 16
  | .atm _ _ _ => others 16

/-- Before a request is served: a line owned by a non-responsive partition becomes P, and such partitions leave the sharer
vector (R255). -/
def Dev.shunSilent (d : Dev) (line : Nat) : Dev :=
  let e := d.dirEnt line
  if e.st = .e ∧ d.silent e.owner = true then (d.poisonLine line).setDir line { e with st := .i, sharers := [] }
  else if e.st = .s then
    let sh := e.sharers.filter (fun p => !d.silent p)
    d.setDir line { e with sharers := sh, st := if sh.isEmpty then .i else .s }
  else d

/-- A request reaches its home with no transaction open on its line: snoops go out, or it is served at once. -/
def State.homeStart (s : State) (line : Nat) (req : HomeReq) : State :=
  let s1 := s.onDev (fun d => d.shunSilent line)
  let e := s1.dev.dirEnt line
  let set := if s1.dev.dirSt line = .p then [] else snoopSet e req
  if set.isEmpty then s1.homeDone line req
  else s1.onDev (fun d => d.setDir line { e with txn := some ⟨req, set, []⟩ })

/-- Serve the requests that wait on a line, in arrival order, until one opens a transaction (R253). -/
def State.homeNext : Nat → State → Nat → State
  | 0, s, _ => s
  | n + 1, s, line =>
    let e := s.dev.dirEnt line
    match e.txn, e.queue with
    | none, r :: q => State.homeNext n ((s.onDev (fun d => d.setDir line { e with queue := q })).homeStart line r) line
    | _, _ => s

/-- A slice that must make room evicts a line it holds, recalling it first (R251): a free value chooses among the lines of
the set (log entry 17). -/
def Dev.sliceEvict (d : Dev) (line : Nat) : Dev :=
  match d.homeSlice (128 * line) with
  | none => d
  | some sl =>
    let sets := max 1 (d.regN (0xC0060 + 4 * (sl / 16)))
    let setOf (l : Nat) : Nat := (if 128 * l < d.spreadLen then l / 64 else l / 16) % sets
    let held := (d.dir.filter (fun e => e.1 != line && decide (e.2.st ≠ .i) && e.2.txn.isNone && d.homeSlice (128 * e.1) == some sl &&
      setOf e.1 == setOf line)).map (·.1)
    if held.length < 16 then d
    else
      let (v, d1) := d.take 6
      let victim := held.getD (v.toNat % held.length) line
      let e := d1.dirEnt victim
      let d2 := if e.st = .e ∧ d1.silent e.owner = true then d1.poisonLine victim else d1
      (d2.dropL2 victim (e.sharers ++ [e.owner])).setDir victim { e with st := .i, sharers := [] }

/-- The account a home request counts to (R477): its partition, or that of its engine's command. -/
def HomeReq.acct : HomeReq → Nat
  | .rds p => p
  | .rdu p => p
  | .upg p => p
  | .atm no _ _ => no / 36
  | .pkr who => agentAcct who
  | .invw who _ _ => agentAcct who
where
  /-- The partition of an agent, the device's account for the host and a link. -/
  agentAcct : Agent → Nat
    | .copy p => p.val
    | .collective p => p.val
    | .layering p => p.val
    | _ => devAcct

/-- A request at its home (R252, R253): the read it needs meets its outcome, it waits behind an open transaction, or it is
served. -/
def State.atHome (s0 : State) (addr : Nat) (req : HomeReq) (errs : List Nat) (p : Option Nat) : Out :=
  match s0.dev.place addr with
  | none => .fault (.notHomed addr)
  | some w =>
    let s := s0.onDev (fun d => d.charge req.acct 11 1)
    let line := addr / 128
    let e := s.dev.dirEnt line
    if e.txn.isSome then .next (s.onDev (fun d => d.setDir line { e with queue := e.queue ++ [req] }))
    else
      let off := w.2 / 128 * 128
      let s1 := if e.st = .e then s else s.onDev (fun d => d.readOutcomes s.mem s.clk w.1 off (errs.take 4) p)
      .next (s1.homeStart line req)

/-- RDS (R251, R252). -/
def execRds (addr : Nat) (p : Fin 16) (errs : List Nat) (s : State) : Out :=
  (s.onDev (fun d => d.sliceEvict (addr / 128))).atHome addr (.rds p.val) errs (some p.val)

/-- RDU (R251, R252). -/
def execRdu (addr : Nat) (p : Fin 16) (errs : List Nat) (s : State) : Out :=
  (s.onDev (fun d => d.sliceEvict (addr / 128))).atHome addr (.rdu p.val) errs (some p.val)

/-- UPG: a requester no longer a sharer is handled as RdU (R252). -/
def execUpg (addr : Nat) (p : Fin 16) (errs : List Nat) (s : State) : Out := s.atHome addr (.upg p.val) errs (some p.val)

/-- PKR: the data is answered and no state changes (R252). -/
def execPkr (addr : Nat) (who : Agent) (errs : List Nat) (s : State) : Out := s.atHome addr (.pkr who) errs none

/-- An atomic of a group waits for the group's earlier accesses to its line, and a release for every earlier store and atomic (R260, R261,
log entry 73). -/
def Dev.atomHeld (d : Dev) (no slot lane line : Nat) : Bool :=
  match (d.loadsOf no slot).find? (fun l => l.lacks lane) with
  | none => false
  | some l =>
    d.stores.any (fun p => p.no == no && p.slot == slot && decide (p.seq < l.seq) && (l.rel || p.addr / 128 == line)) ||
      (d.loadsOf no slot).any (fun y => y.holds l.seq line l.rel)

/-- A request is being served or waits at the home of its line. -/
def DirEnt.asked (e : DirEnt) (r : HomeReq) : Bool := decide (e.txn.map (·.req) = some r) || e.queue.contains r

/-- A lower lane of the same atomic names the same address and has not been performed (R194). -/
def Dev.atomLower (d : Dev) (no slot lane addr : Nat) : Bool :=
  match (d.loadsOf no slot).find? (fun l => l.lacks lane) with
  | none => false
  | some l => l.atoms.any (fun a => decide (a.lane < lane) && a.old.isNone && l.lanes.any (fun e => e.1 == a.lane && e.2 == addr))

/-- ATM: the lane's atomic at its home; a lower lane that names the same address goes first (R194, R252), and so do its group's earlier
accesses to the line. -/
def execAtm (addr : Nat) (g : At) (lane : Fin 32) (errs : List Nat) (s : State) : Out :=
  let no := 36 * g.part.val + g.tile.val
  match s.dev.place addr with
  | none => .fault (.notHomed addr)
  | some _ =>
    match s.dev.atomOf no g.slot.val lane.val with
    | none => .next s
    | some (_, _, _, a) =>
      if a / 128 ≠ addr / 128 ∨ s.dev.atomLower no g.slot.val lane.val a = true ∨ s.dev.atomHeld no g.slot.val lane.val (addr / 128) = true ∨
          (s.dev.dirEnt (addr / 128)).asked (.atm no g.slot.val lane.val) = true then .next s
      else s.atHome addr (.atm no g.slot.val lane.val) errs (some g.part.val)

/-- INVW: a write to a sealed region or its table is discarded with an event (R252, R293). -/
def execInvw (addr : Nat) (who : Agent) (mask : BitVec 128) (data : Bytes) (errs : List Nat) (s : State) : Out :=
  match s.dev.place addr with
  | none => .fault (.notHomed addr)
  | some _ =>
    match s.dev.sealedLine addr with
    | some r => .next (s.onDev (fun d => d.sealViolation s.clk r addr))
    | none => s.atHome addr (.invw who mask.toNat data) (if mask.toNat = fullMask then [] else errs) none

/-- EVC: the evicting holder of a clean line leaves the directory (R252). -/
def execEvc (addr : Nat) (p : Fin 16) (s : State) : Out :=
  match s.dev.place addr with
  | none => .fault (.notHomed addr)
  | some _ =>
    let line := addr / 128
    .next (s.onDev (fun d0 =>
      let d := d0.charge p.val 11 1
      let e := d.dirEnt line
      let d1 := if d.l2St p.val line = .m then d else d.setL2 p.val line .i
      match e.st with
      | .s => let sh := e.sharers.filter (· != p.val)
              d1.setDir line { e with sharers := sh, st := if sh.isEmpty then .i else .s }
      | .e => if e.owner = p.val ∧ d.l2St p.val line ≠ .m then d1.setDir line { e with st := .i } else d1
      | _ => d1))

/-- WB: the data of an evicted modified line is written to the slice (R252). -/
def execWb (addr : Nat) (p : Fin 16) (s : State) : Out :=
  match s.dev.place addr with
  | none => .fault (.notHomed addr)
  | some _ =>
    let line := addr / 128
    .next (s.onDev (fun d0 =>
      let d := d0.charge p.val 11 1
      let e := d.dirEnt line
      if e.st = .e ∧ e.owner = p.val ∧ d.l2St p.val line = .m then (d.setL2 p.val line .i).setDir line { e with st := .i } else d))

/-- SNOOP: an L2 answers a snoop at once, whatever request of its own is outstanding; snoops count to the device (R252, R253, R477). -/
def execSnoop (addr : Nat) (p : Fin 16) (s : State) : Out :=
  match s.dev.place addr with
  | none => .fault (.notHomed addr)
  | some _ =>
    let line := addr / 128
    .next (s.onDev (fun d0 =>
      let d := d0.charge devAcct 11 1
      let e := d.dirEnt line
      match e.txn with
      | none => d
      | some t =>
        if t.wait.contains p.val && !d.silent p.val then
          let st := d.l2St p.val line
          let new : L2St := match t.req with
            | .rds _ => if st = .i ∨ st = .p then st else .s
            | .pkr _ => st
            | _ => .i
          (d.setL2 p.val line new).setDir line { e with txn := some { t with wait := t.wait.filter (· != p.val), answered := t.answered ++ [p.val] } }
        else d))

/-- SNOOP_REPLY: the last reply completes the open transaction, and the requests that wait follow (R252, R253). -/
def execSnoopReply (addr : Nat) (p : Fin 16) (s : State) : Out :=
  match s.dev.place addr with
  | none => .fault (.notHomed addr)
  | some _ =>
    let line := addr / 128
    let e := s.dev.dirEnt line
    match e.txn with
    | none => .next s
    | some t =>
      if t.answered.contains p.val then
        let t' := { t with answered := t.answered.filter (· != p.val) }
        if t'.wait.isEmpty && t'.answered.isEmpty then
          .next (State.homeNext e.queue.length ((s.onDev (fun d => d.setDir line { e with txn := none })).homeDone line t.req) line)
        else .next (s.onDev (fun d => d.setDir line { e with txn := some t' }))
      else .next s

/-- The line of an expired snoop becomes P, its requester and those that wait receive poison, and the silent partition is
marked non-responsive with its events (R255, R257). The partition's reset under AUTO_RST is the step's other part. -/
def State.homeExpired (s : State) (line p : Nat) : State :=
  let k := s.clk
  let e := s.dev.dirEnt line
  match e.txn with
  | none => s
  | some t =>
    let s1 := s.onDev (fun d =>
      let d1 := ((d.poisonLine line).setDir line { e with st := .i, sharers := [], txn := none }).bump 0xC0054
      let d2 := if d1.partSt p = 3 ∨ d1.partSt p = 2 then d1 else (d1.setPartSt p 2).partEvent k p 2 0
      let ev := le 1 0x30 ++ zeros 1 ++ le 1 p ++ le 1 ((d2.homeSlice (128 * line)).getD 0) ++ le 8 (128 * line) ++ zeros 4 ++
        le 8 k.beat ++ le 2 k.notch ++ zeros 6
      d2.raise k p ev)
    State.homeNext e.queue.length (s1.homeDone line t.req) line

end Sys2Proof.Machine
end

