-- ==== Sys2Proof/Machine/Operands.lean ====
section
/-! DEFINITION. Operand fields, guards, decode faults and the shared shape of a thread instruction (R169 to R175, R206, R207). -/

namespace Sys2Proof.Machine

/-! ### Registers of a group -/

/-- A thread register of a lane; t255 reads as 0 (R172). -/
def Grp.rdT (g : Grp) (n lane : Nat) : Word := if n = 255 then 0 else Sparse.get (fun _ => 0) g.t (32 * n + lane)

/-- Write a thread register of a lane; t255 discards the write (R172). -/
def Grp.wrT (g : Grp) (n lane : Nat) (w : Word) : Grp :=
  if n = 255 then g else { g with t := Sparse.put (fun _ => 0) g.t (32 * n + lane) w }

/-- A uniform register. -/
def Grp.rdU (g : Grp) (n : Nat) : Word := Sparse.get (fun _ => 0) g.u n

/-- Write a uniform register. -/
def Grp.wrU (g : Grp) (n : Nat) (w : Word) : Grp := { g with u := Sparse.put (fun _ => 0) g.u n w }

/-- A predicate over the lanes. -/
def Grp.rdP (g : Grp) (n : Nat) : BitVec 32 := Sparse.get (fun _ => 0) g.p n

/-- Write a predicate in the lanes of a mask. -/
def Grp.wrP (g : Grp) (n : Nat) (m v : BitVec 32) : Grp :=
  { g with p := Sparse.put (fun _ => 0) g.p n (mergeMask m (g.rdP n) v) }

/-- An operand of one lane: a uniform or a thread register. -/
def Grp.rd (g : Grp) (uni : Bool) (n lane : Nat) : Word := if uni then g.rdU n else g.rdT n lane

/-- A 64-bit operand of one lane: tN low and tN + 1 high; 255 reads 0 in every word (R173). -/
def Grp.rd64 (g : Grp) (uni : Bool) (n lane : Nat) : Nat :=
  if uni then (g.rdU n).toNat + (g.rdU (n + 1)).toNat * 2 ^ 32
  else if n = 255 then 0 else (g.rdT n lane).toNat + (g.rdT (n + 1) lane).toNat * 2 ^ 32

/-- Words of an operand of several registers, lowest first (R173). -/
def Grp.rdWords (g : Grp) (n lane cnt : Nat) : List Word :=
  (List.range cnt).map (fun i => if n = 255 then 0 else g.rdT (n + i) lane)

/-- Write words to consecutive registers of a lane; register 255 discards every one (R173). -/
def Grp.wrWords (g : Grp) (n lane : Nat) (ws : List Word) : Grp :=
  if n = 255 then g else (ws.zip (List.range ws.length)).foldl (fun a e => a.wrT (n + e.2) lane e.1) g

/-- The lanes of a mask, ascending. -/
def lanesOf (m : BitVec 32) : List Nat := (List.range 32).filter (fun i => bitAt m.toNat i)

/-- The mask of a list of lanes. -/
def maskOf (ls : List Nat) : BitVec 32 := BitVec.ofNat 32 (ls.foldl (fun a l => a + 2 ^ l) 0)

/-- The mask of the lanes for which `f` holds. -/
def maskWhere (f : Nat → Bool) : BitVec 32 := maskOf ((List.range 32).filter f)

/-- The lanes whose guard is true: pGP, inverted with GN; GP 0 with GN 0 is always (R174). -/
def Grp.guard (g : Grp) (gn : Bool) (gp : BitVec 3) : BitVec 32 :=
  if gp = 0 then 0xFFFFFFFF else if gn then ~~~(g.rdP gp.toNat) else g.rdP gp.toNat

/-! ### Decode faults -/

/-- A register that an instruction names: its index, how many words it spans, and whether it is uniform. -/
structure Use where
  reg : Nat
  words : Nat
  uni : Bool
  deriving DecidableEq, Repr

/-- The field breaks R172 or R173: high bits of a uniform index, a misaligned pair or quad. -/
def Use.bad (u : Use) : Bool :=
  if u.uni then decide (64 ≤ u.reg) || (decide (1 < u.words) && decide (u.reg % u.words ≠ 0))
  else decide (u.reg ≠ 255) && decide (1 < u.words) && decide (u.reg % u.words ≠ 0)

/-- A thread register named lies at or beyond REGS; t255 is exempt (R145, R173). -/
def Use.range (regs : Nat) (u : Use) : Bool :=
  !u.uni && decide (u.reg ≠ 255) &&
    (List.range u.words).any (fun i => decide (u.reg + i ≠ 255) && decide (regs ≤ u.reg + i))

/-- What decoding an instruction must find: nothing illegal, registers in range, an accumulator in range. -/
structure Chk where
  illegal : Bool
  uses : List Use
  acc : Option Nat
  deriving DecidableEq, Repr

/-- The decode fault of an instruction, in the order of R207: illegal-instruction, register-range, accumulator-range. -/
def Chk.fault (c : Chk) (regs accN : Nat) : Option Nat :=
  if c.illegal || c.uses.any Use.bad then some 0x10
  else if c.uses.any (Use.range regs) then some 0x01
  else match c.acc with
    | some a => if accN ≤ a then some 0x03 else none
    | none => none

/-- A guard that cannot be: GP 0 with GN 1 (R174). -/
def badGuard (gn : Bool) (gp : BitVec 3) : Bool := gn && decide (gp = 0)

/-- A source field of form R: used at a width, or reserved and so zero with its uniform select (R170). -/
def srcUse (w : Option Nat) (n : BitVec 8) (uni : Bool) : Bool × List Use :=
  match w with
  | some k => (false, [⟨n.toNat, k, uni⟩])
  | none => (decide (n ≠ 0) || uni, [])

/-- How the destination field is used. -/
inductive DstUse where
  /-- A thread register of so many words. -/
  | reg (words : Nat)
  /-- A predicate in DST[2:0]. -/
  | pred
  /-- A uniform register in DST[5:0]. -/
  | uni
  /-- Reserved. -/
  | none
  deriving DecidableEq, Repr

/-- What the destination field adds to the decode checks. -/
def dstUse (u : DstUse) (n : BitVec 8) : Bool × List Use :=
  match u with
  | .reg w => (false, [⟨n.toNat, w, false⟩])
  | .pred => (decide (8 ≤ n.toNat), [])
  | .uni => (decide (64 ≤ n.toNat), [])
  | .none => (decide (n ≠ 0), [])

/-- The checks of a form R instruction: FMT, RM and the modifier bits it may set, which sources it uses, its destination;
`extra` names a further condition that is illegal. -/
def rChk (f : RForm) (okFmt okRm : Bool) (mods : Nat) (a b c : Option Nat) (dst : DstUse) (extra : Bool) : Chk :=
  let sa := srcUse a f.sa f.ua
  let sb := srcUse b f.sb f.ub
  let sc := srcUse c f.sc f.uc
  let sd := dstUse dst f.dst
  ⟨badGuard f.gn f.gp || !okFmt || !okRm || decide ((f.mods &&& ~~~(BitVec.ofNat 10 mods)) ≠ 0) || sa.1 || sb.1 || sc.1 || sd.1 || extra,
   sa.2 ++ sb.2 ++ sc.2 ++ sd.2, none⟩

/-- The checks of a form I instruction: source used or reserved, X in a set, destination. -/
def iChk (f : IForm) (a : Option Nat) (okX : Bool) (dst : DstUse) : Chk :=
  let sa := srcUse a f.sa f.ua
  let sd := dstUse dst f.dst
  ⟨badGuard f.gn f.gp || !okX || sa.1 || sd.1, sa.2 ++ sd.2, none⟩

/-! ### The group an instruction runs in -/

/-- What an instruction sees: its core, group, block and command. -/
structure Thr where
  no : Nat
  part : Nat
  tile : Nat
  cmd : Cmd
  core : Core
  grp : Grp
  blk : Blk
  deriving DecidableEq, Repr

/-- The resident group that a position names (R139), with its block and the command of its core. -/
def State.thr (s : State) (g : At) : Option Thr :=
  let no := 36 * g.part.val + g.tile.val
  let c := s.dev.core no
  match c.cid with
  | none => none
  | some cid =>
    match s.dev.cmd cid, c.groups.find? (fun x => x.slot == g.slot.val) with
    | some cmd, some grp =>
      match c.blocks.find? (fun b => b.k == grp.k) with
      | some blk => some ⟨no, g.part.val, g.tile.val, cmd, c, grp, blk⟩
      | none => none
    | _, _ => none

/-- A group that a condition of R152, a park or a drain holds: it issues nothing. -/
def Grp.blocked (g : Grp) : Bool :=
  g.atBar || g.fence.isSome || g.beatWait.isSome || g.matWait.isSome || g.parked || g.drain || g.loads.any (·.acq)

/-- A register that the instruction names awaits the data of a load (R152). -/
def Grp.hazard (g : Grp) (us : List Use) : Bool :=
  g.loads.any (fun l => us.any (fun u =>
    !u.uni && decide (l.dst ≠ 255) && decide (u.reg ≠ 255) && decide (u.reg < l.dst + max 1 (l.size / 4)) && decide (l.dst < u.reg + u.words)))

/-- Replace a core's group. -/
def Core.setGrp (c : Core) (g : Grp) : Core := { c with groups := c.groups.map (fun x => if x.slot = g.slot then g else x) }

/-- Replace a core's block. -/
def Core.setBlk (c : Core) (b : Blk) : Core := { c with blocks := c.blocks.map (fun x => if x.k = b.k then b else x) }

/-- Reconvergence (R157, R159): a path that reaches its reconvergence address, or loses its last lane, gives way to the
alternate path or pops its entry. The first argument bounds the steps: two for each entry of the stack. -/
def Grp.settle : Nat → Grp → Grp
  | 0, g => g
  | n + 1, g =>
    match g.stack with
    | [] => g
    | e :: r =>
      if g.mask = 0 ∨ g.pc = e.reconv then
        if e.altMask ≠ 0 then Grp.settle n { g with pc := e.alt, mask := e.altMask, stack := { e with altMask := 0 } :: r }
        else Grp.settle n { g with pc := e.reconv, mask := e.full &&& ~~~g.exited, stack := r }
      else g

/-- The group after an instruction that goes on to the next one. -/
def Grp.advance (g : Grp) : Grp := Grp.settle 66 { g with pc := g.pc + 8, held := false }

/-- The state with a group replaced. -/
def State.putGrp (s : State) (x : Thr) (g : Grp) : State :=
  s.onDev (fun d => d.setCore x.no ((d.core x.no).setGrp g))

/-- The state with a core replaced. -/
def State.putCore (s : State) (x : Thr) (c : Core) : State := s.onDev (fun d => d.setCore x.no c)

/-- A kernel-fault event (R380). -/
def kernelFaultEvent (k : Clk) (code logical gi part tag mask pc : Nat) : Bytes :=
  le 1 0x50 ++ zeros 1 ++ le 1 code ++ le 1 logical ++ le 1 gi ++ le 1 part ++ zeros 2 ++ le 8 tag ++ le 6 k.beat ++ le 2 k.notch ++
    le 4 mask ++ le 4 pc

/-- A core fault ends the command (R167): every group is felled, and it completes with kernel-fault. Later faults of the
same command are discarded (R168). -/
def Dev.kernelFault (d : Dev) (k : Clk) (cid part tile gi code : Nat) (mask : BitVec 32) (pc : Nat) : Dev :=
  match d.cmd cid with
  | none => d
  | some c =>
    if !c.ph.fellable then d
    else (d.raise k part (kernelFaultEvent k code (d.mapNum part tile) gi part c.tag mask.toNat pc)).fell cid (.complete 5 code)

/-- A core fault of an instruction's group. -/
def State.faultThr (s : State) (x : Thr) (code : Nat) (mask : BitVec 32) : State :=
  s.onDev (fun d => d.kernelFault s.clk x.cmd.cid x.part x.tile x.grp.gi code mask x.grp.pc)

/-- One thread instruction: the group issues it unless it is blocked; a program counter outside the code is pc-range
(R188); decode faults fall on every active lane whatever the guard (R175); otherwise it acts in the taking-part lanes, and counts
as issued unless it was held back (R477). -/
def State.issue (s : State) (g : At) (gn : Bool) (gp : BitVec 3) (chk : Chk) (go : Thr → BitVec 32 → State) : State :=
  match s.thr g with
  | none => s
  | some x =>
    if x.grp.blocked || x.grp.hazard chk.uses || !x.cmd.ph.fellable then s
    else if x.cmd.run.codeLen ≤ x.grp.pc then s.faultThr x 0x13 x.grp.mask
    else
      match chk.fault x.cmd.run.regs x.cmd.run.accN with
      | some code => s.faultThr x code x.grp.mask
      | none =>
        let s1 := go x (x.grp.mask &&& x.grp.guard gn gp)
        let held := match s1.thr g with
          | some y => y.grp.held
          | none => false
        if held then s1 else s1.onDev (fun d => d.charge x.part 8 1)

/-- A lane-wise result written to a thread register in the taking-part lanes. -/
def Grp.lanes (g : Grp) (m : BitVec 32) (dst : Nat) (f : Nat → Word) : Grp :=
  (lanesOf m).foldl (fun a l => a.wrT dst l (f l)) g

/-- RES covers the command: it executed a vector or special-function instruction (R64); on a core without its check unit the
mechanism is absent (R65). -/
def Cmd.usesAlu (noCheck : Bool) (c : Cmd) : Cmd :=
  { c with chk := { c.chk with cover := c.chk.cover ||| 2, absent := c.chk.absent ||| (2 * b2n noCheck) } }

/-- An instruction that computes lane by lane from the group's registers and goes on. -/
def State.alu (s : State) (g : At) (gn : Bool) (gp : BitVec 3) (chk : Chk) (f : Thr → BitVec 32 → Grp) : State :=
  s.issue g gn gp chk (fun x m => (s.putGrp x (f x m).advance).onDev (fun d => d.onCmd x.cmd.cid (Cmd.usesAlu x.core.noCheck)))

/-- The same for an instruction of data movement or of the uniform class, which RES does not count (log entry 9). -/
def State.move (s : State) (g : At) (gn : Bool) (gp : BitVec 3) (chk : Chk) (f : Thr → BitVec 32 → Grp) : State :=
  s.issue g gn gp chk (fun x m => s.putGrp x (f x m).advance)

end Sys2Proof.Machine

namespace Sys2Proof

/-- A field of the modifiers. -/
def RForm.m (f : RForm) (lo len : Nat) : Nat := Machine.bitsAt f.mods.toNat lo len
/-- Operand A of a lane. -/
def RForm.a (f : RForm) (g : Machine.Grp) (l : Nat) : Word := g.rd f.ua f.sa.toNat l
/-- Operand B of a lane. -/
def RForm.b (f : RForm) (g : Machine.Grp) (l : Nat) : Word := g.rd f.ub f.sb.toNat l
/-- Operand C of a lane. -/
def RForm.c (f : RForm) (g : Machine.Grp) (l : Nat) : Word := g.rd f.uc f.sc.toNat l
/-- Operand A of a lane in form I. -/
def IForm.a (f : IForm) (g : Machine.Grp) (l : Nat) : Word := g.rd f.ua f.sa.toNat l
/-- U of form I (R171). -/
def IForm.u (f : IForm) : Bool := decide (f.x.toNat % 2 = 1)
/-- U of form R (R177). -/
def RForm.u (f : RForm) : Bool := decide (f.m 9 1 = 1)

end Sys2Proof
end

