-- ==== Sys2Proof/Machine/Sfu.lean ====
section
/-! DEFINITION. The approximate functions: a free result within the error bound of Table: Special-function accuracy (R181). -/

namespace Sys2Proof.Machine

/-- Fixed-point precision of the reference values below. -/
def fxP : Nat := 400

/-- π × 2⁴⁰⁰, rounded down. -/
def fxPi : Nat := 8112377246730971238862271351300894519161151600179265203591191037615230905373990498745523360926816815427566779727327576236

/-- ln 2 × 2⁴⁰⁰, rounded down. -/
def fxLn2 : Nat := 1789879222497203190815761498240779176894896805856420935579692301363062920687047601279850318367644315849030039181347319086

/-- A fixed-point product. -/
def fxMul (a b : Int) : Int := a * b / 2 ^ fxP

/-- Σ xᵏ ÷ k! from term `k` on, for |x| < 1 in fixed point: `n` terms. -/
def fxExpGo (x : Int) : Nat → Nat → Int → Int → Int
  | 0, _, _, acc => acc
  | n + 1, k, term, acc => fxExpGo x n (k + 1) (fxMul term x / (k + 1 : Nat)) (acc + term)

/-- e^x for |x| < 1. -/
def fxExp (x : Int) : Int := fxExpGo x 90 0 (2 ^ fxP) 0

/-- Σ ± x^(2k+s) ÷ (2k+s)!: sine for s = 1, cosine for s = 0, `n` terms. -/
def fxTrigGo (x2 : Int) : Nat → Nat → Int → Int → Int
  | 0, _, _, acc => acc
  | n + 1, j, term, acc => fxTrigGo x2 n (j + 2) (-(fxMul term x2) / (((j + 1) * (j + 2) : Nat) : Int)) (acc + term)

/-- A magnitude m × 2^e in fixed point, rounded toward zero. -/
def fxOf (neg : Bool) (m : Nat) (e : Int) : Int :=
  let k := e + (fxP : Int)
  let v : Int := if 0 ≤ k then ((m * 2 ^ k.toNat : Nat) : Int) else ((m / 2 ^ (-k).toNat : Nat) : Int)
  if neg then -v else v

/-- A fixed-point number as an exact value. -/
def fxFv (x : Int) : Fv := .fin (decide (x < 0)) x.natAbs (-(fxP : Int))

/-- An integer square root that is exact to one unit, by Newton's method from above. -/
def isqrtGo (n : Nat) : Nat → Nat → Nat
  | 0, x => x
  | k + 1, x => let y := (x + n / x) / 2
                if y < x then isqrtGo n k y else x

/-- The integer square root of `n`. -/
def isqrt (n : Nat) : Nat := if n = 0 then 0 else isqrtGo n (Nat.log2 n + 8) (2 ^ (Nat.log2 n / 2 + 1))

/-- 1 ÷ (m × 2^e), to 300 bits. -/
def refRcp (neg : Bool) (m : Nat) (e : Int) : Fv := .fin neg (2 ^ 400 / m) (-400 - e)

/-- √(m × 2^e), to some 300 bits. -/
def refSqrt (m : Nat) (e : Int) : Fv :=
  let e' := if e % 2 = 0 then e - 600 else e - 601
  .fin false (isqrt (m * 2 ^ (e - e').toNat)) (e' / 2)

/-- 1 ÷ √(m × 2^e). -/
def refRsq (m : Nat) (e : Int) : Fv :=
  match refSqrt m e with
  | .fin _ n f => .fin false (2 ^ 700 / n) (-700 - f)
  | x => x

/-- 2^x for x = ±m × 2^e, |x| bounded by 300. -/
def refEx2 (neg : Bool) (m : Nat) (e : Int) : Fv :=
  let x := max (-300 * 2 ^ fxP) (min (300 * 2 ^ fxP) (fxOf neg m e))
  let n := x / 2 ^ fxP
  let f := x % 2 ^ fxP
  (fxFv (fxExp (fxMul f fxLn2))).scale n

/-- Binary digits of log₂ y for y in [1, 2), by repeated squaring: `n` digits. -/
def lg2Go : Nat → Int → Int → Int
  | 0, _, acc => acc
  | n + 1, y, acc =>
    let z := fxMul y y
    if 2 * 2 ^ fxP ≤ z then lg2Go n (z / 2) (2 * acc + 1) else lg2Go n z (2 * acc)

/-- log₂ (m × 2^e), to 120 binary digits. -/
def refLg2 (m : Nat) (e : Int) : Fv :=
  let k := (Nat.log2 m : Int)
  let y := fxOf false m (-k)
  let d := lg2Go 120 y 0 + (k + e) * 2 ^ 120
  .fin (decide (d < 0)) d.natAbs (-120)

/-- x mod 2π in fixed point, for a magnitude m × 2^e: reduced with π to 400 bits. -/
def fxReduce (neg : Bool) (m : Nat) (e : Int) : Int :=
  if e ≤ 0 then fxOf neg m e % (2 * fxPi)
  else
    let x : Int := ((m * 2 ^ e.toNat : Nat) : Int) * 2 ^ fxP
    (if neg then -x else x) % (2 * fxPi)

/-- sin or cos of a reduced angle, brought to [−π, π) first. -/
def fxTrig (cosine : Bool) (x : Int) : Int :=
  let y := if (fxPi : Int) ≤ x then x - 2 * fxPi else x
  let y2 := fxMul y y
  if cosine then fxTrigGo y2 60 0 (2 ^ fxP) 0 else fxTrigGo y2 60 1 y 0

/-- tanh of ±m × 2^e: x − x³ ÷ 3 below 2⁻³⁰, ±1 from 32 on, the quotient of exponentials between. -/
def refTanh (neg : Bool) (m : Nat) (e : Int) : Fv :=
  let top := (Nat.log2 m : Int) + e
  if top < -30 then .fin neg ((3 * m * 2 ^ 200 - m * m * m * 2 ^ 200 / 2 ^ (-2 * e).toNat) / 3) (e - 200)
  else if 5 ≤ top then .fin neg 1 0
  else
    let x := 2 * fxOf false m e
    let n := x * 2 ^ fxP / fxLn2 / 2 ^ fxP
    let r := x - n * fxLn2
    let ex := fxExp r * 2 ^ n.toNat
    let t := (ex - 2 ^ fxP) * 2 ^ fxP / (ex + 2 ^ fxP)
    .fin neg t.natAbs (-(fxP : Int))

/-- The unit in the last place of S32 at a finite value, as an exponent of two. -/
def ulpExp (a : Fv) : Int :=
  match a.mag? with
  | some (m, e) => max (-149) ((Nat.log2 m : Int) + e - 23)
  | none => -149

/-- |y − a| ≤ n × 2^u, with a margin of 2^(u − 60) for the error of the reference value. -/
def nearBy (y a : Fv) (n : Nat) (u : Int) : Bool :=
  match Fv.add .rne y a.neg with
  | .fin _ m e => !magGt m e (n * 2 ^ 60 + 1) (u - 60)
  | _ => false

/-- A free result within a bound of `n` units 2^u of the reference value, or its rounding where the free one lies outside. -/
def sfuPick (op : Nat) (x : Word) (a : Fv) (n : Nat) (u : Int) : Word :=
  let raw := Config.sfu op x
  if nearBy (valueOf 8 raw.toNat) a n u then raw else BitVec.ofNat 32 (encodeTo 8 .rne 0 a)

/-- The canonical NaN, the infinities and signed zeros and ones of S32. -/
def s32NaN : Word := 0x7FC00000
/-- ±∞. -/
def s32Inf (neg : Bool) : Word := if neg then 0xFF800000 else 0x7F800000
/-- ±0. -/
def s32Zero (neg : Bool) : Word := if neg then 0x80000000 else 0

/-- A special function of an S32 value (R181): op 0 RCP, 1 RSQ, 2 SQRT, 3 EX2, 4 LG2, 5 SIN, 6 COS, 7 TANH. -/
def sfu (op : Nat) (x : Word) : Word :=
  match valueOf 8 x.toNat with
  | .nan => s32NaN
  | .inf neg =>
    match op with
    | 0 => s32Zero neg
    | 1 => if neg then s32NaN else s32Zero false
    | 2 => if neg then s32NaN else s32Inf false
    | 3 => if neg then s32Zero false else s32Inf false
    | 4 => if neg then s32NaN else s32Inf false
    | 5 => s32NaN
    | 6 => s32NaN
    | _ => if neg then 0xBF800000 else 0x3F800000
  | .fin neg m e =>
    if m = 0 then
      match op with
      | 0 => s32Inf neg
      | 1 => s32Inf false
      | 2 => s32Zero neg
      | 3 => sfuPick op x (.fin false 1 0) 2 (-23)
      | 4 => s32Inf true
      | 5 => sfuPick op x (.fin neg 0 0) 1 (-22)
      | 6 => sfuPick op x (.fin false 1 0) 1 (-22)
      | _ => sfuPick op x (.fin neg 0 0) 2 (-149)
    else
      match op with
      | 0 => let a := refRcp neg m e; sfuPick op x a 1 (ulpExp a)
      | 1 => if neg then s32NaN else let a := refRsq m e; sfuPick op x a 1 (ulpExp a)
      | 2 => if neg then s32NaN else let a := refSqrt m e; sfuPick op x a 1 (ulpExp a)
      | 3 => let a := refEx2 neg m e; sfuPick op x a 2 (ulpExp a)
      | 4 => if neg then s32NaN else let a := refLg2 m e; sfuPick op x a 2 (ulpExp a)
      | 5 => sfuPick op x (fxFv (fxTrig false (fxReduce neg m e))) 1 (-22)
      | 6 => sfuPick op x (fxFv (fxTrig true (fxReduce neg m e))) 1 (-22)
      | _ => let a := refTanh neg m e; sfuPick op x a 2 (ulpExp a)

end Sys2Proof.Machine
end

