-- ==== Sys2Proof/Machine/ThreadFp.lean ====
section
/-! DEFINITION. Thread instructions of the S32, packed 16-bit, special-function and conversion classes (R121 to R127, R178 to R181, R184, R185). -/

namespace Sys2Proof.Machine

/-! ### Stochastic rounding (R122 to R124) -/

/-- The global thread index of a lane (R140). -/
def Thr.gtid (x : Thr) (l : Nat) : Nat := (x.blk.lin * 32 * x.cmd.run.groups + 32 * x.grp.gi + l) % 2 ^ 64

/-- The element index of a thread's next operation but `j` (R124). -/
def Thr.srI (x : Thr) (l j : Nat) : Nat := (x.gtid l * 2 ^ 24 + (Sparse.get (fun _ => 0) x.grp.srN l + j) % 2 ^ 24) % 2 ^ 64

/-- The c of R123: bytes 0 to 7 of the command digest. -/
def Cmd.srC (c : Cmd) : Nat := digest c.enc % 2 ^ 64

/-- The random value of a lane's operation, 0 unless the mode is SR. -/
def Thr.rnd (x : Thr) (rm : Rnd) (l j : Nat) : Nat := if rm = .sr then srR x.cmd.srC (x.srI l j) else 0

/-- `k` more SR operations in the lanes of a mask. -/
def Grp.srBump (g : Grp) (rm : Rnd) (m : BitVec 32) (k : Nat) : Grp :=
  if rm = .sr then
    { g with srN := (lanesOf m).foldl (fun a l => Sparse.put (fun _ => 0) a l ((Sparse.get (fun _ => 0) a l + k) % 2 ^ 24)) g.srN }
  else g

/-- The rounding mode of an instruction; a reserved code never reaches it. -/
def rmOf (code : BitVec 3) : Rnd := (rndOf code.toNat).getD .rne
/-- The rounding mode is not reserved (R120, R170). -/
def okRm (code : BitVec 3) : Bool := decide (code.toNat < 5)

/-! ### S32 and packed arithmetic (R179, R180) -/

/-- Input modifiers of source `i`: absolute first, negate second (R179). -/
def fpMod (f : RForm) (i : Nat) (v : Fv) : Fv :=
  let v' := if f.m (8 - 2 * i) 1 = 1 then v.abs else v
  if f.m (9 - 2 * i) 1 = 1 then v'.neg else v'

/-- Element `j` of a register in a format. -/
def elemOf (fmt j : Nat) (w : Word) : Fv := valueOf fmt (bitsAt w.toNat (fmtBits fmt * j) (fmtBits fmt))

/-- The operations that round. -/
inductive FpOp where
  | add
  | sub
  | mul
  | fma
  deriving DecidableEq, Repr

/-- The exact result of an operation; the rounding mode decides the sign of an exact zero (R114). -/
def FpOp.exact (op : FpOp) (rm : Rnd) (a b c : Fv) : Fv :=
  match op with
  | .add => Fv.add rm a b
  | .sub => Fv.add rm a b.neg
  | .mul => Fv.mul a b
  | .fma => Fv.add rm (Fv.mul a b) c

/-- A register made of the elements of a format, `n` of them. -/
def packElems (fmt n : Nat) (f : Nat → Nat) : Word :=
  BitVec.ofNat 32 ((List.range n).foldl (fun a j => a + f j % 2 ^ fmtBits fmt * 2 ^ (fmtBits fmt * j)) 0)

/-- How many elements a register holds: one of 32 bits or two of 16. -/
def elems (fmt : Nat) : Nat := 32 / fmtBits fmt

/-- FMT is S32 (R179, R181). -/
def fmtS (f : RForm) : Bool := decide (f.fmt = 8)
/-- FMT is B16 or H16 (R180). -/
def fmtH (f : RForm) : Bool := decide (f.fmt = 6) || decide (f.fmt = 7)

/-- An arithmetic instruction in form R over the elements of its registers (R179, R180). -/
def State.fpArith (s : State) (g : At) (f : RForm) (ok : Bool) (op : FpOp) : State :=
  let three := decide (op = .fma)
  let fmt := f.fmt.toNat
  let rm := rmOf f.rm
  s.alu g f.gn f.gp
    (rChk f ok (okRm f.rm) (if three then 0x3F0 else 0x3C0) (some 1) (some 1) (if three then some 1 else none) (.reg 1) false)
    (fun x m =>
      (x.grp.lanes m f.dst.toNat (fun l => packElems fmt (elems fmt) (fun j =>
        encodeTo fmt rm (x.rnd rm l j)
          (op.exact rm (fpMod f 0 (elemOf fmt j (f.a x.grp l))) (fpMod f 1 (elemOf fmt j (f.b x.grp l)))
            (fpMod f 2 (elemOf fmt j (f.c x.grp l))))))).srBump rm m (elems fmt))

/-- An arithmetic instruction in form I (R171, R179). -/
def State.fpArithI (s : State) (g : At) (f : IForm) (op : FpOp) : State :=
  let rm := rmOf f.x
  s.alu g f.gn f.gp (iChk f (some 1) (okRm f.x) (.reg 1))
    (fun x m =>
      (x.grp.lanes m f.dst.toNat (fun l => BitVec.ofNat 32 (encodeTo 8 rm (x.rnd rm l 0)
        (op.exact rm (elemOf 8 0 (f.a x.grp l)) (elemOf 8 0 f.imm) (elemOf 8 0 (x.grp.rdT f.dst.toNat l)))))).srBump rm m 1)

/-- FMIN, FMAX and their packed forms: they round nothing (R179, R180). -/
def State.fpMinMax (s : State) (g : At) (f : RForm) (ok mx : Bool) : State :=
  let fmt := f.fmt.toNat
  s.alu g f.gn f.gp (rChk f ok (decide (f.rm = 0)) 0x3C0 (some 1) (some 1) none (.reg 1) false)
    (fun x m => x.grp.lanes m f.dst.toNat (fun l => packElems fmt (elems fmt) (fun j =>
      encodeTo fmt .rne 0
        (Fv.minMax mx (fpMod f 0 (elemOf fmt j (f.a x.grp l))) (fpMod f 1 (elemOf fmt j (f.b x.grp l)))))))

/-- FMIN.I and FMAX.I: X is 0 (R171). -/
def State.fpMinMaxI (s : State) (g : At) (f : IForm) (mx : Bool) : State :=
  s.alu g f.gn f.gp (iChk f (some 1) (decide (f.x = 0)) (.reg 1))
    (fun x m => x.grp.lanes m f.dst.toNat (fun l => BitVec.ofNat 32 (encodeTo 8 .rne 0
      (Fv.minMax mx (elemOf 8 0 (f.a x.grp l)) (elemOf 8 0 f.imm)))))

/-- The comparison of element `j` in the lanes of a group. -/
def fpCmp (f : RForm) (x : Thr) (j : Nat) : BitVec 32 :=
  let fmt := f.fmt.toNat
  maskWhere (fun l => floatCond (f.m 0 3) (fpMod f 0 (elemOf fmt j (f.a x.grp l))) (fpMod f 1 (elemOf fmt j (f.b x.grp l))))

/-- FADD (R179). -/
def execFadd (g : At) (f : RForm) (s : State) : Out := .next (s.fpArith g f (fmtS f) .add)
/-- FSUB (R179). -/
def execFsub (g : At) (f : RForm) (s : State) : Out := .next (s.fpArith g f (fmtS f) .sub)
/-- FMUL (R179). -/
def execFmul (g : At) (f : RForm) (s : State) : Out := .next (s.fpArith g f (fmtS f) .mul)
/-- FFMA: a × b + c with one rounding (R179). -/
def execFfma (g : At) (f : RForm) (s : State) : Out := .next (s.fpArith g f (fmtS f) .fma)
/-- FMIN (R179). -/
def execFmin (g : At) (f : RForm) (s : State) : Out := .next (s.fpMinMax g f (fmtS f) false)
/-- FMAX (R179). -/
def execFmax (g : At) (f : RForm) (s : State) : Out := .next (s.fpMinMax g f (fmtS f) true)
/-- FADD.I (R171, R179). -/
def execFaddI (g : At) (f : IForm) (s : State) : Out := .next (s.fpArithI g f .add)
/-- FSUB.I (R171, R179). -/
def execFsubI (g : At) (f : IForm) (s : State) : Out := .next (s.fpArithI g f .sub)
/-- FMUL.I (R171, R179). -/
def execFmulI (g : At) (f : IForm) (s : State) : Out := .next (s.fpArithI g f .mul)
/-- FFMA.I: a × IMM + dst (R179). -/
def execFfmaI (g : At) (f : IForm) (s : State) : Out := .next (s.fpArithI g f .fma)
/-- FMIN.I (R171, R179). -/
def execFminI (g : At) (f : IForm) (s : State) : Out := .next (s.fpMinMaxI g f false)
/-- FMAX.I (R171, R179). -/
def execFmaxI (g : At) (f : IForm) (s : State) : Out := .next (s.fpMinMaxI g f true)

/-- FSETP: a predicate from a comparison; the condition code in modifiers [2:0] (R178, R179). -/
def execFsetp (g : At) (f : RForm) (s : State) : Out :=
  .next (s.alu g f.gn f.gp
    (rChk f (fmtS f) (decide (f.rm = 0)) 0x3C7 (some 1) (some 1) none .pred (decide (6 ≤ f.m 0 3)))
    (fun x m => x.grp.wrP f.dst.toNat m (fpCmp f x 0)))

/-- FSETP.I: the condition code in X (R171). -/
def execFsetpI (g : At) (f : IForm) (s : State) : Out :=
  .next (s.alu g f.gn f.gp (iChk f (some 1) (decide (f.x.toNat < 6)) .pred)
    (fun x m => x.grp.wrP f.dst.toNat m
      (maskWhere (fun l => floatCond f.x.toNat (elemOf 8 0 (f.a x.grp l)) (elemOf 8 0 f.imm)))))

/-- HADD2 (R180). -/
def execHadd2 (g : At) (f : RForm) (s : State) : Out := .next (s.fpArith g f (fmtH f) .add)
/-- HSUB2 (R180). -/
def execHsub2 (g : At) (f : RForm) (s : State) : Out := .next (s.fpArith g f (fmtH f) .sub)
/-- HMUL2 (R180). -/
def execHmul2 (g : At) (f : RForm) (s : State) : Out := .next (s.fpArith g f (fmtH f) .mul)
/-- HFMA2 (R180). -/
def execHfma2 (g : At) (f : RForm) (s : State) : Out := .next (s.fpArith g f (fmtH f) .fma)
/-- HMIN2 (R180). -/
def execHmin2 (g : At) (f : RForm) (s : State) : Out := .next (s.fpMinMax g f (fmtH f) false)
/-- HMAX2 (R180). -/
def execHmax2 (g : At) (f : RForm) (s : State) : Out := .next (s.fpMinMax g f (fmtH f) true)

/-- HSETP2: element 0 to pD, element 1 to pD+1, D at most 6 (R180). -/
def execHsetp2 (g : At) (f : RForm) (s : State) : Out :=
  .next (s.alu g f.gn f.gp
    (rChk f (fmtH f) (decide (f.rm = 0)) 0x3C7 (some 1) (some 1) none .pred
      (decide (6 ≤ f.m 0 3) || decide (6 < f.dst.toNat)))
    (fun x m => (x.grp.wrP f.dst.toNat m (fpCmp f x 0)).wrP (f.dst.toNat + 1) m (fpCmp f x 1)))

/-! ### Special functions (R181) -/

/-- A special-function instruction: S32 in and out, RM and modifiers 0. -/
def State.special (s : State) (g : At) (f : RForm) (op : Nat) : State :=
  s.alu g f.gn f.gp (rChk f (fmtS f) (decide (f.rm = 0)) 0 (some 1) none none (.reg 1) false)
    (fun x m => x.grp.lanes m f.dst.toNat (fun l => sfu op (f.a x.grp l)))

/-- RCP (R181). -/
def execRcp (g : At) (f : RForm) (s : State) : Out := .next (s.special g f 0)
/-- RSQ (R181). -/
def execRsq (g : At) (f : RForm) (s : State) : Out := .next (s.special g f 1)
/-- SQRT (R181). -/
def execSqrt (g : At) (f : RForm) (s : State) : Out := .next (s.special g f 2)
/-- EX2 (R181). -/
def execEx2 (g : At) (f : RForm) (s : State) : Out := .next (s.special g f 3)
/-- LG2 (R181). -/
def execLg2 (g : At) (f : RForm) (s : State) : Out := .next (s.special g f 4)
/-- SIN (R181). -/
def execSin (g : At) (f : RForm) (s : State) : Out := .next (s.special g f 5)
/-- COS (R181). -/
def execCos (g : At) (f : RForm) (s : State) : Out := .next (s.special g f 6)
/-- TANH (R181). -/
def execTanh (g : At) (f : RForm) (s : State) : Out := .next (s.special g f 7)

/-! ### Conversions (R184, R185) -/

/-- A format that CVT takes: not reserved, not F4, not F6. -/
def cvtFmt (c : Nat) : Bool := decide (c < 10) && decide (c ≠ 1) && decide (c ≠ 2)

/-- CVT: one element per lane; the other destination bits keep their value (R184). -/
def execCvt (g : At) (f : RForm) (s : State) : Out :=
  let src := f.fmt.toNat
  let dst := f.m 6 4
  let ps := f.m 3 3
  let pd := f.m 0 3
  let rm := rmOf f.rm
  let bad := !cvtFmt dst || decide (32 < fmtBits src * (ps + 1)) || decide (32 < fmtBits dst * (pd + 1))
  .next (s.alu g f.gn f.gp (rChk f (cvtFmt src) (okRm f.rm) 0x3FF (some 1) none none (.reg 1) bad)
    (fun x m =>
      (x.grp.lanes m f.dst.toNat (fun l =>
        setFld (x.grp.rdT f.dst.toNat l) (fmtBits dst * pd) (fmtBits dst)
          (encodeTo dst rm (x.rnd rm l 0) (elemOf src ps (f.a x.grp l))))).srBump rm m 1))

/-- The packed stream of 32 elements of `w` bits as one number (R117). -/
def packStream (w : Nat) (codes : List Nat) : Nat :=
  (codes.zip (List.range codes.length)).foldl (fun a e => a + e.1 % 2 ^ w * 2 ^ (w * e.2)) 0

/-- CVTBLK: packs or unpacks a block across the lanes; a 16-bit element lies in bits [15:0] (R185, log entry 10). -/
def execCvtblk (g : At) (f : RForm) (s : State) : Out :=
  let f4 := decide (f.fmt = 1)
  let w := fmtBits f.fmt.toNat
  let words := if f4 then 4 else 6
  let other := f.m 6 4
  let rm := rmOf f.rm
  .next (s.alu g f.gn f.gp
    (rChk f (decide (f.fmt = 1) || decide (f.fmt = 2)) (okRm f.rm) 0x3E0 (some 1) none none (.reg 1)
      (decide (other < 6) || decide (8 < other)))
    (fun x m =>
      if f.m 5 1 = 0 then
        let vs := (List.range 32).map (fun l => if bitAt m.toNat l then elemOf other 0 (f.a x.grp l) else .fin false 0 0)
        let rs := (List.range 32).map (fun l => x.rnd rm l 0)
        let r := packBlock f4 rm rs vs
        let st := packStream w r.2
        let g1 := (List.range words).foldl
          (fun a k => if bitAt m.toNat k then a.wrT f.dst.toNat k (BitVec.ofNat 32 (st / 2 ^ (32 * k))) else a) x.grp
        (if bitAt m.toNat words then g1.wrT f.dst.toNat words (BitVec.ofNat 32 r.1) else g1).srBump rm m 1
      else
        let st := (List.range words).foldl (fun a k => a + (f.a x.grp k).toNat * 2 ^ (32 * k)) 0
        let sc := (f.a x.grp words).toNat % 256
        (x.grp.lanes m f.dst.toNat (fun l =>
          BitVec.ofNat 32 (encodeTo other rm (x.rnd rm l 0) (blockValue f4 sc (bitsAt st (w * l) w))))).srBump rm m 1))

end Sys2Proof.Machine
end

