-- ==== Sys2Proof/Machine/ThreadMem.lean ====
section
/-! DEFINITION. Loads, stores, atomics and fences of the thread instruction set (R148, R189 to R196, R247, R254, R260 to R262). -/

namespace Sys2Proof.Machine

/-! ### Form M -/

/-- Bytes of a SIZE code (R189). -/
def mbytes (f : MForm) : Nat := 2 ^ f.size.toNat

/-- Registers that data of a SIZE spans. -/
def sizeWords (size : BitVec 3) : Nat := if size.toNat ≤ 2 then 1 else if size.toNat = 3 then 2 else 4

/-- The signed offset of form M. -/
def moff (f : MForm) : Int := f.off.toInt

/-- The effective address of a lane: global modulo 2⁶⁴, local modulo 2³² (R189, log entry 18). -/
def effAddr (glob : Bool) (f : MForm) (g : Grp) (l : Nat) : Nat :=
  if glob then (((g.rd64 f.ua f.sa.toNat l : Int) + moff f) % 2 ^ 64).toNat
  else ((((g.rd f.ua f.sa.toNat l).toNat : Int) + moff f) % 2 ^ 32).toNat

/-- What decoding a form M instruction checks (R170, R173, R189, R191). `data` is how SB is used, `dst` how DST is. -/
def mChk (f : MForm) (glob okOrder okAop okSize : Bool) (data : List Use) (sbZero : Bool) (dst : Option Nat) : Chk :=
  let sd := match dst with
    | some w => (false, [(⟨f.dst.toNat, w, false⟩ : Use)])
    | none => (decide (f.dst ≠ 0), [])
  ⟨badGuard f.gn f.gp || decide (5 ≤ f.size.toNat) || !okOrder || !okAop || !okSize || (!glob && decide (2 ≤ f.scope.toNat)) ||
     (sbZero && decide (f.sb ≠ 0)) || sd.1,
   (⟨f.sa.toNat, if glob then 2 else 1, f.ua⟩ : Use) :: data ++ sd.2, none⟩

/-- The bytes a lane stores: SB and the registers after it. -/
def storeBytes (f : MForm) (g : Grp) (l : Nat) : Bytes :=
  ((g.rdWords f.sb.toNat l (sizeWords f.size)).flatMap (fun w => le 4 w.toNat)).take (2 ^ f.size.toNat)

/-- Words of a value, lowest first. -/
def wordsOf (n v : Nat) : List Word := (List.range n).map (fun i => BitVec.ofNat 32 (v / 2 ^ (32 * i)))

/-! ### Range checks (R145, R189, R190, R247) -/

/-- Every byte lies in a range of the command that the access permits: inputs and outputs other than the kernel image for
reads, outputs for writes (R190; the union of the ranges, log entry 18). -/
def Cmd.permits (c : Cmd) (write : Bool) (a n : Nat) : Bool :=
  let rs := if write then c.outs else c.ins.filter (fun r => decide (r.role ≠ 2)) ++ c.outs
  (List.range n).all (fun i => rs.any (fun r => decide (r.addr ≤ a + i) && decide (a + i < r.addr + r.len)))

/-- The fault of a lane's access: misaligned, local-range, access, in that order (R207). `hostOk` is false for atomics and
prefetches, which host memory refuses (R247). -/
def accessFault (x : Thr) (glob write hostOk : Bool) (a n : Nat) : Option Nat :=
  if a % n ≠ 0 then some 0x11
  else if glob then
    (if isHost a && !hostOk then some 0x12 else if x.cmd.permits write a n then none else some 0x12)
  else if x.cmd.run.lmem < a + n then some 0x02 else none

/-- The code of the lowest faulting lane, with the lanes that share it (R207). -/
def laneFault (fs : List (Nat × Option Nat)) : Option (Nat × BitVec 32) :=
  match fs.find? (fun e => e.2.isSome) with
  | some (_, some c) => some (c, maskOf ((fs.filter (fun e => e.2 == some c)).map (·.1)))
  | _ => none

/-- A memory instruction: decoded, its lanes' addresses checked, and then performed. -/
def State.memory (s : State) (g : At) (f : MForm) (glob write hostOk : Bool) (chk : Chk)
    (go : Thr → List (Nat × Nat) → State) : State :=
  s.issue g f.gn f.gp chk (fun x m =>
    let as := (lanesOf m).map (fun l => (l, effAddr glob f x.grp l))
    match laneFault (as.map (fun e => (e.1, accessFault x glob write hostOk e.2 (mbytes f)))) with
    | some (c, lanes) => s.faultThr x c lanes
    | none => if as.isEmpty then s.putGrp x x.grp.advance else go x as)

/-! ### Local memory (R142, R148) -/

/-- What a byte of local memory that the block has not written holds: a free value (R142). -/
def localReset (seed : Nat) : Nat → Byte := fun o => (Config.free 2 (seed * 2 ^ 20 + o)).setWidth 8

/-- Bytes of a block's local memory. -/
def Blk.read (b : Blk) (a n : Nat) : Bytes := (List.range n).map (fun i => Sparse.get (localReset b.seed) b.lmem (a + i))

/-- Write bytes to a block's local memory. -/
def Blk.write (b : Blk) (a : Nat) (bs : Bytes) : Blk :=
  { b with lmem := ((bs.zip (List.range bs.length)).foldl (fun m e => Sparse.put (localReset b.seed) m (a + e.2) e.1) b.lmem) }

/-- The bytes of local memory that an outstanding matrix operation of the block reads: a store over them makes its result
undefined (R201). -/
def Core.dirtied (c : Core) (k a n : Nat) (tileLen : MatOp → List (Nat × Nat)) : Core :=
  let f (o : MatOp) : MatOp := if o.k = k ∧ (tileLen o).any (fun r => decide (r.1 < a + n) && decide (a < r.1 + r.2)) = true then { o with dirty := true } else o
  { c with mq := c.mq.map f, run := c.run.map f }

/-- Bytes of an operand tile of format `f` at depth `kd`, block scales included (R208). -/
def tileBytes (f kd : Nat) (sparseA : Bool) : Nat :=
  let stored := if sparseA then kd / 2 else kd
  128 * stored * fmtBits f / 8 + (if f = 1 ∨ f = 2 then 128 * (kd / 32) else 0)

/-- The depth of an MMA (R208). -/
def depthOf (fa fb : Nat) (sparse : Bool) : Nat :=
  let k := if 16 ≤ fmtBits fa then 32 else if (fa = 0 ∨ fa = 1) ∧ (fb = 0 ∨ fb = 1) then 128 else 64
  if sparse then 2 * k else k

/-- The staged extents that an operation reads: tile A, tile B, metadata (R208, R209, R211). -/
def staged (o : MatOp) : List (Nat × Nat) :=
  match o.kind with
  | .mma =>
    let kd := depthOf o.fa o.fb o.sparse
    [(o.offA, tileBytes o.fa kd o.sparse), (o.offB, tileBytes o.fb kd false)] ++ (if o.sparse then [(o.offM, 128 * kd / 8)] else [])
  | _ => []

/-- Replace the group and block of an instruction, its core's outstanding operations marked where the store meets them. -/
def State.putLocal (s : State) (x : Thr) (g : Grp) (b : Blk) (ws : List (Nat × Nat)) : State :=
  s.onDev (fun d =>
    let c := d.core x.no
    let c1 := ws.foldl (fun a w => a.dirtied b.k w.1 w.2 staged) c
    d.setCore x.no ((c1.setGrp g).setBlk b))

/-- LDL: a local load, 8- and 16-bit values zero-extended (R189). -/
def execLdl (g : At) (f : MForm) (s : State) : Out :=
  .next (s.memory g f false false true
    (mChk f false (decide (f.order.toNat ≤ 1)) (decide (f.aop = 0)) true [] true (some (sizeWords f.size)))
    (fun x as => s.putGrp x
      (as.foldl (fun a e => a.wrWords f.dst.toNat e.1 (wordsOf (sizeWords f.size) (leNat (x.blk.read e.2 (mbytes f))))) x.grp).advance))

/-- STL: a local store; lanes in ascending order (R189, R193). -/
def execStl (g : At) (f : MForm) (s : State) : Out :=
  .next (s.memory g f false true true
    (mChk f false (decide (f.order = 0) || decide (f.order = 2)) (decide (f.aop = 0)) true
      [⟨f.sb.toNat, sizeWords f.size, false⟩] false none)
    (fun x as => s.putLocal x x.grp.advance
      (as.foldl (fun b e => b.write e.2 (storeBytes f x.grp e.1)) x.blk) (as.map (fun e => (e.2, (mbytes f))))))

/-! ### L1 (R148, R191, R192, R196) -/

/-- Lines an L1 holds at a split (R148). -/
def l1Lines (cfg : Nat) : Nat := (384 - 64 * cfg) * 8

/-- The L1 line that holds an address, filled no earlier than the group's last acquire. -/
def Core.l1Line (c : Core) (acq a : Nat) : Option L1Line :=
  c.l1.find? (fun l => l.addr == a / 128 && decide (acq ≤ l.fill))

/-- Fill a line; the oldest one leaves a full L1. -/
def Core.fill (c : Core) (line : Nat) (bs : Bytes) : Core :=
  let rest := c.l1.filter (fun l => l.addr != line)
  let kept := if l1Lines c.cfg ≤ rest.length then rest.drop 1 else rest
  { c with l1 := kept ++ [⟨line, bs, c.fills⟩], fills := c.fills + 1 }

/-- A store updates the line that L1 holds (R191). -/
def Core.l1Store (c : Core) (a : Nat) (bs : Bytes) : Core :=
  { c with l1 := c.l1.map (fun l => if l.addr = a / 128 then { l with data := overwrite l.data (a % 128) bs } else l) }

/-- Device memory under some waiting stores, which lie over the image (R260). -/
def State.underStores (s : State) (ps : List Pend) (a n : Nat) : Bytes :=
  (List.range n).map (fun i =>
    ps.foldl (fun v p => if p.addr ≤ a + i ∧ a + i < p.addr + p.data.length then p.data.getD (a + i - p.addr) v else v) (readByte s.mem (a + i)))

/-- Device memory as a core sees it: under its own waiting stores. -/
def State.coreBytes (s : State) (no a n : Nat) : Bytes := s.underStores (s.dev.stores.filter (fun p => p.no == no)) a n

/-- Device memory as a load of a group sees it: stores that its group issued after it do not count (R260, log entry 73). -/
def State.loadBytes (s : State) (no slot seq a n : Nat) : Bytes :=
  s.underStores (s.dev.stores.filter (fun p => p.no == no && !(p.slot == slot && decide (seq < p.seq)))) a n

/-! ### Global accesses -/

/-- Scope and order make a store or an atomic a release of device or system scope (R191, R261). -/
def releases (f : MForm) : Bool := decide (2 ≤ f.order.toNat) && decide (2 ≤ f.scope.toNat)

/-- Scope and order of a load make it an acquire that L1 may not answer (R191, R196). -/
def acquires (f : MForm) : Bool := f.order.toNat % 2 == 1 && decide (2 ≤ f.scope.toNat)

/-- LDG: answered by L1 where every lane hits; otherwise outstanding until its data returns (R152, R189 to R193, R247). -/
def execLdg (g : At) (f : MForm) (s : State) : Out :=
  .next (s.memory g f true false true
    (mChk f true (decide (f.order.toNat ≤ 1)) (decide (f.aop = 0)) true [] true (some (sizeWords f.size)))
    (fun x as =>
      let hit := decide (f.scope.toNat < 2) && as.all (fun e => !isHost e.2 && (x.core.l1Line x.grp.acq e.2).isSome)
      if hit then
        s.putGrp x (as.foldl (fun a e => a.wrWords f.dst.toNat e.1 (wordsOf (sizeWords f.size)
          (match x.core.l1Line x.grp.acq e.2 with
            | some l => fieldAt l.data (e.2 % 128) (mbytes f)
            | none => 0))) x.grp).advance
      else
        s.putGrp x ({ x.grp with loads := x.grp.loads ++
          [(⟨f.dst.toNat, (mbytes f), as, none, [], decide (f.scope.toNat < 2) && decide (f.hint ≠ 3), acquires f,
            s.dev.nextSeq x.no x.grp.slot, false⟩ : Load)] }).advance))

/-- STG: written through L1 to the partition L2, where it waits for a line it may write; host memory takes a posted write
(R191, R193, R247). -/
def execStg (g : At) (f : MForm) (s : State) : Out :=
  .next (s.memory g f true true true
    (mChk f true (decide (f.order = 0) || decide (f.order = 2)) (decide (f.aop = 0)) true
      [⟨f.sb.toNat, sizeWords f.size, false⟩] false none)
    (fun x as =>
      (s.onDev (fun d =>
        let seq := d.nextSeq x.no x.grp.slot
        let c := as.foldl (fun a e => a.l1Store e.2 (storeBytes f x.grp e.1)) ((d.core x.no).setGrp x.grp.advance)
        as.foldl (fun a e =>
          let bs := storeBytes f x.grp e.1
          if isHost e.2 then a.toHostMem (a.fnOf x.part) e.2 bs
          else { a with stores := a.stores ++ [⟨x.no, x.grp.slot, x.part, x.cmd.cid, e.2, bs,
                          releases f, seq⟩] }) (d.setCore x.no c))).sweep))

/-- PRFG: the line is fetched into L1, or into L2 only with HINT 3; no register is written (R192). -/
def execPrfg (g : At) (f : MForm) (s : State) : Out :=
  .next (s.memory g f true false false
    (mChk f true (decide (f.order = 0)) (decide (f.aop = 0)) true [] true none)
    (fun x as => s.onDev (fun d =>
      let c := (d.core x.no).setGrp x.grp.advance
      d.setCore x.no (if f.hint = 3 then c
        else as.foldl (fun a e => if (a.l1Line x.grp.acq e.2).isSome then a else a.fill (e.2 / 128) (s.coreBytes x.no (e.2 / 128 * 128) 128)) c))))

/-- SIZE and AOP of an atomic (R194). -/
def okAtom (f : MForm) : Bool :=
  decide (f.aop.toNat ≤ 11) && (decide (f.size = 2) || (decide (f.size = 3) && decide (f.aop.toNat ≤ 8)))

/-- The operand of a lane's atomic, and the value a compare-and-swap writes. -/
def atomArgs (f : MForm) (cas : Bool) (g : Grp) (l : Nat) : Nat × Nat :=
  let w := sizeWords f.size
  let rdN (n : Nat) : Nat := leNat ((g.rdWords n l w).flatMap (fun x => le 4 x.toNat))
  (rdN f.sb.toNat, if cas ∧ f.sb ≠ 255 then rdN (f.sb.toNat + w) else 0)

/-- The registers that SB names in an atomic: a compare-and-swap of 32 bits takes SB and SB + 1, of 64 bits a quad (R194). -/
def atomUses (f : MForm) (cas : Bool) : List Use :=
  if cas then (if f.size = 2 then [⟨f.sb.toNat, 1, false⟩] ++ (if f.sb = 255 then [] else [⟨f.sb.toNat + 1, 1, false⟩])
    else [⟨f.sb.toNat, 4, false⟩])
  else [⟨f.sb.toNat, sizeWords f.size, false⟩]

/-- The operation makes its command order-sensitive (R72, R194). -/
def atomOrd (f : MForm) (cas : Bool) : Bool := cas || decide (f.aop = 8) || decide (f.aop = 9)

/-- The decode checks of an atomic. -/
def atomChk (f : MForm) (glob cas : Bool) : Chk :=
  mChk f glob true (if cas then decide (f.aop = 0) else decide (f.aop.toNat ≤ 11))
    (if cas then decide (f.size = 2) || decide (f.size = 3) else okAtom f) (atomUses f cas) false (some (sizeWords f.size))

/-- A command becomes order-sensitive. -/
def State.markOrd (s : State) (x : Thr) (ord : Bool) : State :=
  if ord then s.onDev (fun d => d.onCmd x.cmd.cid (fun c => { c with chk := { c.chk with ord := true } })) else s

/-- A global atomic is sent to its home, lane by lane (R194). -/
def State.atomGlobal (s : State) (g : At) (f : MForm) (cas : Bool) : State :=
  s.memory g f true true false (atomChk f true cas)
    (fun x as => (s.putGrp x ({ x.grp with loads := x.grp.loads ++
        [(⟨f.dst.toNat, (mbytes f), as, some (if cas then 16 else f.aop.toNat),
          as.map (fun (e : Nat × Nat) => let r := atomArgs f cas x.grp e.1; ⟨e.1, r.1, r.2, none⟩), false, acquires f,
          s.dev.nextSeq x.no x.grp.slot, releases f⟩ : Load)] }).advance).markOrd x (atomOrd f cas))

/-- A local atomic: lanes in ascending order, the old value to DST (R194). -/
def State.atomLocal (s : State) (g : At) (f : MForm) (cas : Bool) : State :=
  s.memory g f false true true (atomChk f false cas)
    (fun x as =>
      let r := as.foldl (fun (a : Grp × Blk) e =>
        let old := leNat (a.2.read e.2 (mbytes f))
        let v := atomArgs f cas x.grp e.1
        (a.1.wrWords f.dst.toNat e.1 (wordsOf (sizeWords f.size) old),
         a.2.write e.2 (le (mbytes f) (atomResult (if cas then 16 else f.aop.toNat) (8 * (mbytes f)) old v.1 v.2)))) (x.grp, x.blk)
      (s.putLocal x r.1.advance r.2 (as.map (fun e => (e.2, (mbytes f))))).markOrd x (atomOrd f cas))

/-- ATOMG (R194). -/
def execAtomg (g : At) (f : MForm) (s : State) : Out := .next (s.atomGlobal g f false)
/-- CASG (R194). -/
def execCasg (g : At) (f : MForm) (s : State) : Out := .next (s.atomGlobal g f true)
/-- ATOML (R194). -/
def execAtoml (g : At) (f : MForm) (s : State) : Out := .next (s.atomLocal g f false)
/-- CASL (R194). -/
def execCasl (g : At) (f : MForm) (s : State) : Out := .next (s.atomLocal g f true)

/-- LOAD_DATA_RETURN (R193, R599): the oldest outstanding load or atomic of the group returns its data. An atomic returns
once every lane has been performed; poison is no fault, and its command meets R295. -/
def execLoadDataReturn (g : At) (host : HostData) (s : State) : Out :=
  let no := 36 * g.part.val + g.tile.val
  .next (match (s.dev.core no).cid, (s.dev.core no).groups.find? (fun x => x.slot == g.slot.val) with
  | some cid, some grp =>
    match grp.loads with
    | [] => s
    | l :: rest =>
      if l.aop.isSome && l.atoms.any (fun a => a.old.isNone) then s
      else
        let w := max 1 (l.size / 4)
        let val (e : Nat × Nat) : Nat :=
          match l.aop with
          | some _ => (match l.atoms.find? (fun a => a.lane == e.1) with
            | some a => a.old.getD 0
            | none => 0)
          | none => leNat (if isHost e.2 then hostBytes host e.2 l.size else s.loadBytes no grp.slot l.seq e.2 l.size)
        let g1 := l.lanes.foldl (fun a e => a.wrWords l.dst e.1 (wordsOf w (val e))) { grp with loads := rest }
        let lines := (l.lanes.map (fun e => e.2 / 128)).eraseDups.filter (fun a => !isHost (128 * a))
        State.sweep (s.onDev (fun d =>
          let c := (d.core no).setGrp (if l.acq then { g1 with acq := (d.core no).fills } else g1)
          let c1 := if l.fill then lines.foldl (fun a ln => a.fill ln (s.coreBytes no (128 * ln) 128)) c else c
          let d1 := d.setCore no c1
          if l.aop.isSome then d1
          else match lines.find? (fun ln => d.poison.contains ln) with
            | some ln => d1.receivePoison s.clk cid (128 * ln)
            | none => d1))
  | _, _ => s)

/-! ### Fences (R196, R262) -/

/-- FENCE: a long stall at device and system scope, a short one at group and block scope, until it completes. -/
def execFence (g : At) (f : RForm) (s : State) : Out :=
  .next (s.issue g f.gn f.gp (rChk f (decide (f.fmt = 0)) (decide (f.rm = 0)) 0xF none none none .none (decide (f.m 2 2 = 0)))
    (fun x m => s.putGrp x (if m = 0 then x.grp.advance else { x.grp.advance with fence := some (f.m 0 2, f.m 2 2) })))

/-- A fence's conditions hold: no earlier store or atomic of the group waits at the scope's point, and for an acquire no earlier load
is outstanding (R196, R262). -/
def Dev.fenceDone (d : Dev) (no : Nat) (g : Grp) (scope order : Nat) : Bool :=
  (decide (order % 4 < 2) || decide (scope < 2) || (!d.stores.any (fun p => p.no == no && p.slot == g.slot) &&
      !g.loads.any (fun l => l.atoms.any (fun a => a.old.isNone)))) &&
    (decide (order % 2 = 0) || g.loads.isEmpty)

/-- FENCE_COMPLETE (R196): after an acquire of device or system scope the group hits no L1 line filled before. -/
def execFenceComplete (g : At) (s : State) : Out :=
  let no := 36 * g.part.val + g.tile.val
  .next (s.onDev (fun d =>
    match (d.core no).groups.find? (fun x => x.slot == g.slot.val) with
    | none => d
    | some grp =>
      match grp.fence with
      | none => d
      | some (scope, order) =>
        if d.fenceDone no grp scope order then
          d.onGrp no g.slot.val (fun x => { x with fence := none, acq := if order % 2 = 1 ∧ 2 ≤ scope then (d.core no).fills else x.acq })
        else d))

end Sys2Proof.Machine
end

