-- ==== Sys2Proof/Machine/Matrix.lean ====
section
/-! DEFINITION. The matrix unit and its check lane (R68 to R71, R128 to R137, R198 to R201, R208 to R224). -/

namespace Sys2Proof.Machine

/-! ### Classes (R213, R218) -/

/-- The class that a pair of formats binds a tile to; none where the pair is not allowed. -/
def pairClass (fa fb : Nat) : Option TileCls :=
  let blk (f : Nat) : Bool := f == 1 || f == 2
  let un (f : Nat) : Bool := f == 0 || f == 3 || f == 4 || f == 5
  if blk fa && blk fb then some .block
  else if un fa && un fb then some .unscaled
  else if fa = fb ∧ (fa = 6 ∨ fa = 7) then some .bin32
  else none

/-- A tile of a core. -/
def Core.tile (c : Core) (acc : Nat) : Tile := c.tiles.getD acc tileCleared

/-- Replace a tile. -/
def Core.setTile (c : Core) (acc : Nat) (t : Tile) : Core := { c with tiles := c.tiles.set acc t }

/-- The class of a tile once the operations issued before have completed. -/
def Core.classAfter (c : Core) (acc : Nat) : TileCls :=
  (c.run ++ c.mq).foldl (fun k o =>
    if o.acc ≠ acc then k
    else match o.kind with
      | .mclr => .cleared
      | .mrd => if o.clr then .cleared else k
      | .mma => if o.clr ∨ k = .cleared then (pairClass o.fa o.fb).getD .cleared else k) (c.tile acc).cls

/-! ### Issue (R198 to R200) -/

/-- A field of the modifiers of form X. -/
def xm (f : XForm) (lo len : Nat) : Nat := bitsAt f.mods.toNat lo len

/-- The decode checks of a matrix instruction: illegal conditions, the registers it names, and its accumulator. -/
def xChk (f : XForm) (illegal : Bool) (src : List (BitVec 8)) (dst acc : Bool) : Chk :=
  ⟨badGuard f.gn f.gp || illegal || (!dst && decide (f.dst ≠ 0)),
   (src.map (fun r => (⟨r.toNat, 1, false⟩ : Use))) ++ (if dst then [⟨f.dst.toNat, 1, false⟩] else []),
   if acc then some (xm f 10 2) else none⟩

/-- The token after one: the counter skips 0 (R199). -/
def nextTok (t : Word) : Word := if t + 1 = 0 then 1 else t + 1

/-- The matrix operations of a core that have not completed. -/
def Core.outstandingOps (c : Core) : Nat := c.mq.length + c.run.length

/-- Issue one matrix operation for a group: refused while the queue is full, faulted by its first condition, else queued
with its token in every taking-part lane (R175, R198, R199, R207). -/
def State.matIssue (s : State) (g : At) (f : XForm) (chk : Chk) (bad : Thr → Nat → Option Nat) (op : Thr → Nat → MatOp)
    (after : Thr → Nat → Grp → Grp) : State :=
  s.issue g f.gn f.gp chk (fun x m =>
    match lanesOf m with
    | [] => s.putGrp x x.grp.advance
    | l :: _ =>
      if 16 ≤ x.core.mq.length then s.putGrp x { x.grp with held := true }
      else match bad x l with
        | some code => s.faultThr x code m
        | none =>
          let g1 := after x l (x.grp.lanes m f.dst.toNat (fun _ => x.core.tok)).advance
          s.putCore x { (x.core.setGrp g1) with tok := nextTok x.core.tok, mq := x.core.mq ++ [op x l] })

/-- The physical tile of an accumulator (R147). -/
def Thr.phys (x : Thr) (n : Nat) : Nat := x.blk.k * x.cmd.run.accN + n

/-- An operation with the fields that every kind has. -/
def Thr.matOp (x : Thr) (f : XForm) (l : Nat) (kind : MatKind) : MatOp :=
  ⟨kind, x.core.tok, x.grp.slot, x.blk.k, x.phys (xm f 10 2), decide (xm f 9 1 = 1), false, 0, 0, 0, 0, 0, 0, x.gtid l, l,
   Sparse.get (fun _ => 0) x.grp.srN l, x.grp.mask, x.grp.pc, false⟩

/-- The fault of an MMA at issue: matrix-format, then local-range (R207, R210, R218). -/
def mmaFault (f : XForm) (x : Thr) (l : Nat) : Option Nat :=
  let fa := xm f 16 4
  let fb := xm f 12 4
  let sp := decide (xm f 8 1 = 1)
  let oA := (x.grp.rdT f.sa.toNat l).toNat
  let oB := (x.grp.rdT f.sb.toNat l).toNat
  let oM := if sp then (x.grp.rdT f.sc.toNat l).toNat else 0
  let kd := depthOf fa fb sp
  let cls := if xm f 9 1 = 1 then TileCls.cleared else x.core.classAfter (x.phys (xm f 10 2))
  match pairClass fa fb with
  | none => some 0x14
  | some k =>
    if (sp && decide (k = .bin32)) || (decide (cls ≠ .cleared) && decide (cls ≠ k)) then some 0x14
    else if oA % 128 ≠ 0 ∨ oB % 128 ≠ 0 ∨ oM % 128 ≠ 0 then some 0x14
    else if x.cmd.run.lmem < oA + tileBytes fa kd sp ∨ x.cmd.run.lmem < oB + tileBytes fb kd false ∨
        (sp = true ∧ x.cmd.run.lmem < oM + 128 * kd / 8) then some 0x02
    else none

/-- MMA (R198, R199, R218). -/
def execMma (g : At) (f : XForm) (s : State) : Out :=
  let sp := decide (xm f 8 1 = 1)
  .next (s.matIssue g f
    (xChk f (decide (10 ≤ xm f 16 4) || decide (10 ≤ xm f 12 4) || decide (xm f 0 8 ≠ 0) || (sp == decide (f.sc = 255)))
      ([f.sa, f.sb] ++ (if sp then [f.sc] else [])) true true)
    (mmaFault f)
    (fun x l =>
      let rd (r : BitVec 8) : Nat := (x.grp.rdT r.toNat l).toNat
      { x.matOp f l .mma with sparse := sp, fa := xm f 16 4, fb := xm f 12 4, offA := rd f.sa, offB := rd f.sb,
                              offM := if sp then rd f.sc else 0 })
    (fun _ _ g1 => g1))

/-- The bytes an MRD writes. -/
def mrdBytes (fmt : Nat) : Nat := 16384 * fmtBits fmt / 8

/-- MRD: it takes its thread's SR operations at issue (R217). -/
def execMrd (g : At) (f : XForm) (s : State) : Out :=
  let fmt := xm f 16 4
  .next (s.matIssue g f
    (xChk f (decide (10 ≤ fmt) || decide (5 ≤ xm f 13 3) || decide (xm f 12 1 ≠ 0) || decide (xm f 0 9 ≠ 0) ||
      decide (f.sb ≠ 0) || decide (f.sc ≠ 0)) [f.sa] true true)
    (fun x l =>
      let o := (x.grp.rdT f.sa.toNat l).toNat
      if fmt = 1 ∨ fmt = 2 ∨ o % 128 ≠ 0 then some 0x14
      else if x.cmd.run.lmem < o + mrdBytes fmt then some 0x02 else none)
    (fun x l => { x.matOp f l .mrd with fa := fmt, rm := xm f 13 3, offA := (x.grp.rdT f.sa.toNat l).toNat })
    (fun _ l g1 => if xm f 13 3 = 4 then g1.srBump .sr (maskOf [l]) 16384 else g1))

/-- MCLR. -/
def execMclr (g : At) (f : XForm) (s : State) : Out :=
  .next (s.matIssue g f
    (xChk f (decide (xm f 12 8 ≠ 0) || decide (xm f 0 10 ≠ 0) || decide (f.sa ≠ 0) || decide (f.sb ≠ 0) || decide (f.sc ≠ 0)) [] true true)
    (fun _ _ => none) (fun x l => x.matOp f l .mclr) (fun _ _ g1 => g1))

/-- A wait on a token is over (R200). -/
def tokDone (last t : Word) : Bool := decide (t = 0) || decide ((last - t).toNat < 2 ^ 31)

/-- MWAIT (R200). -/
def execMwait (g : At) (f : XForm) (s : State) : Out :=
  .next (s.issue g f.gn f.gp
    (xChk f (decide (f.mods ≠ 0) || decide (f.sb ≠ 0) || decide (f.sc ≠ 0)) [f.sa] false false)
    (fun x m =>
      match lanesOf m with
      | [] => s.putGrp x x.grp.advance
      | l :: _ =>
        let t := x.grp.rdT f.sa.toNat l
        s.putGrp x (if tokDone x.core.lastTok t then x.grp.advance else { x.grp.advance with matWait := some t })))

/-! ### Operand tiles (R117, R118, R209, R211) -/

/-- A byte of a staged area: what the block's local memory holds, or, where a group wrote the area too early, a free value
(R201). -/
def stagedByte (b : Blk) (dirty : Bool) (seed off base i : Nat) : Nat :=
  if dirty then (Config.free 7 (seed * 2 ^ 20 + base + i)).toNat % 256
  else (Sparse.get (localReset b.seed) b.lmem (off + i)).toNat

/-- Element `i` of a packed tile of `w`-bit elements (R117). -/
def codeAt (rd : Nat → Nat) (w i : Nat) : Nat := bitsAt (rd (w * i / 8) + 256 * rd (w * i / 8 + 1)) (w * i % 8) w

/-- The sparsity nibble of a row and a group of four k (R211). -/
def nibble (rdM : Nat → Nat) (kd row gk : Nat) : Nat := codeAt rdM 4 (row * (kd / 4) + gk)

/-- The position among the stored elements of element k of a row; none where it is not kept (R211). -/
def storedPos (sparse : Bool) (rdM : Nat → Nat) (kd row k : Nat) : Option Nat :=
  if sparse then
    let n := nibble rdM kd row (k / 4)
    if k % 4 = n % 4 then some (row * (kd / 2) + 2 * (k / 4))
    else if k % 4 = n / 4 then some (row * (kd / 2) + 2 * (k / 4) + 1)
    else none
  else some (row * kd + k)

/-- An element of an operand tile with its scale code (127 for a format without block scales). -/
def operand (rd rdM : Nat → Nat) (fmt kd : Nat) (sparse : Bool) (row k : Nat) : Fv × Nat :=
  let stored := if sparse then kd / 2 else kd
  let sc := if fmt = 1 ∨ fmt = 2 then rd (128 * stored * fmtBits fmt / 8 + row * (kd / 32) + k / 32) else 127
  (match storedPos sparse rdM kd row k with
    | some i => valueOf fmt (codeAt rd (fmtBits fmt) i)
    | none => .fin false 0 0, sc)

/-- The rows of an operand tile. -/
def rowsOf (f : Nat → Nat → Fv × Nat) (kd : Nat) : Array (List (Fv × Nat)) :=
  (Array.range 128).map (fun i => (List.range kd).map (f i))

/-- A metadata nibble whose first position is not below its second (R212). -/
def metaBad (rdM : Nat → Nat) (kd : Nat) : Bool :=
  (List.range (128 * (kd / 4))).any (fun i => let n := codeAt rdM 4 i; decide (n / 4 ≤ n % 4))

/-- A product with its combined scale exponent, for block-scaled operands (R130, R134). -/
def product (block : Bool) (p : (Fv × Nat) × (Fv × Nat)) : Option Int × Fv :=
  if !block then (none, Fv.mul p.1.1 p.2.1)
  else if p.1.2 = 255 ∨ p.2.2 = 255 then (none, .nan)
  else
    let e : Int := (p.1.2 : Int) + (p.2.2 : Int) - 254
    (some e, (Fv.mul p.1.1 p.2.1).scale e)

/-- The products of element (i, j), k ascending. -/
def products (block : Bool) (ra rb : Array (List (Fv × Nat))) (i j : Nat) : List (Option Int × Fv) :=
  ((ra.getD i []).zip (rb.getD j [])).map (product block)

/-! ### Lines -/

/-- The element keys of a line: rows 0 to 127, then columns. -/
def lineKeys (l : Nat) : List Nat :=
  if l < 128 then (List.range 128).map (fun j => 128 * l + j) else (List.range 128).map (fun i => 128 * i + (l - 128))

/-- A table of `n` values in canonical form, the default left out. -/
def tableOf {α : Type} [DecidableEq α] (d : α) (n : Nat) (f : Nat → α) : Sparse α :=
  (List.range n).filterMap (fun k => if f k = d then none else some (k, f k))

/-- A number of a table of numbers. -/
def natAt (m : Sparse Nat) (k : Nat) : Nat := Sparse.get (fun _ => 0) m k
/-- A number of a table of integers. -/
def intAt (m : Sparse Int) (k : Nat) : Int := Sparse.get (fun _ => 0) m k

/-- Sum over a line. -/
def lineSum (f : Nat → Int) (l : Nat) : Int := (lineKeys l).foldl (fun a k => a + f k) 0
/-- OR over a line. -/
def lineOr (f : Nat → Nat) (l : Nat) : Nat := (lineKeys l).foldl (fun a k => a ||| f k) 0

/-! ### The wide accumulator (R128 to R135, R214, R220, R221) -/

/-- x × 2^−d rounded RNE. -/
def shiftRne (x : Int) (d : Nat) : Int :=
  let n : Int := (roundQ .rne 0 false x.natAbs 0 d : Nat)
  if x < 0 then -n else n

/-- An element under accumulation: A, flags, its share of the expected sums, and products rounded. -/
structure Elem where
  a : Int
  fl : Nat
  exp : Int
  rn : Nat
  deriving DecidableEq, Repr

/-- A magnitude in units of 2^q, rounded RNE and signed. -/
def inUnits (neg : Bool) (m : Nat) (e q : Int) : Int :=
  let n : Int := (roundQ .rne 0 neg m e q : Nat)
  if neg then -n else n

/-- Add one product to an element at anchor q (R129 to R134). -/
def Elem.add (q : Int) (x : Elem) (p : Option Int × Fv) : Elem :=
  match p.2 with
  | .nan => { x with fl := x.fl ||| 1 }
  | .inf neg => { x with fl := x.fl ||| (if neg then 4 else 2) }
  | .fin neg m e =>
    let below := match p.1 with
      | some s => decide (s < q + 8)
      | none => false
    let t := inUnits neg m e q
    let c := inUnits neg m e (q - 16)
    let y := { x with rn := x.rn + b2n below }
    if bitAt x.fl 3 then y
    else if -2 ^ 95 ≤ x.a + t ∧ x.a + t < 2 ^ 95 then { y with a := x.a + t, exp := x.exp + c }
    else
      let lim : Int := if x.a + t < 0 then -2 ^ 95 else 2 ^ 95 - 1
      { y with a := lim, fl := x.fl ||| 8, exp := x.exp + c - (t - (lim - x.a)) * 2 ^ 16 }

/-- The anchor of a tile for an operation whose combined scale exponents span least to most, and how far its window moves
(R129, R130, R132). -/
def anchor (t : Tile) (cls : TileCls) (span : Option (Int × Int)) : Option Int × Nat :=
  match cls, span with
  | .block, some (lo, hi) =>
    let q := t.q.getD (lo - 8)
    if q + 48 < hi then (some (hi - 48), (hi - 48 - q).toNat) else (some q, 0)
  | .block, none => (t.q, 0)
  | _, _ => (some (-32), 0)

/-- The least and greatest combined scale exponent of an operation (R130, R132). -/
def scaleSpan (ra rb : Array (List (Fv × Nat))) (kd : Nat) : Option (Int × Int) :=
  (List.range (kd / 32)).foldl (fun acc b =>
    let get (r : Array (List (Fv × Nat))) : List Nat :=
      ((List.range 128).map (fun i => ((r.getD i []).getD (32 * b) (.nan, 255)).2)).filter (· != 255)
    match get ra, get rb with
    | x :: xs, y :: ys =>
      let lo : Int := ((xs.foldl min x + ys.foldl min y : Nat) : Int) - 254
      let hi : Int := ((xs.foldl max x + ys.foldl max y : Nat) : Int) - 254
      match acc with
      | none => some (lo, hi)
      | some (l, h) => some (min l lo, max h hi)
    | _, _ => acc) none

/-- A wide tile after an MMA, with the expectations of its check lane, which run since the clear (R219 to R221, log entry 71). -/
def mmaWide (t : Tile) (cls : TileCls) (ra rb : Array (List (Fv × Nat))) (kd : Nat) : Tile :=
  let qd := anchor t cls (scaleSpan ra rb kd)
  let q := qd.1.getD 0
  let moved := decide (qd.2 ≠ 0)
  let els := (Array.range 16384).map (fun k =>
    (products (decide (cls = .block)) ra rb (k / 128) (k % 128)).foldl (Elem.add q)
      ⟨shiftRne (intAt t.a k) qd.2, natAt t.fl k, 0, 0⟩)
  let el (k : Nat) : Elem := els.getD k ⟨0, 0, 0, 0⟩
  { t with
    cls := cls, q := qd.1, n := t.n + 1,
    bounded := t.bounded || moved || els.any (fun x => decide (x.rn ≠ 0) || bitAt x.fl 3),
    a := tableOf 0 16384 (fun k => (el k).a), fl := tableOf 0 16384 (fun k => (el k).fl),
    sums := tableOf 0 256 (fun l => shiftRne (intAt t.sums l) qd.2 + lineSum (fun k => (el k).exp) l),
    rn := tableOf 0 256 (fun l => natAt t.rn l + (lineSum (fun k => ((el k).rn : Int)) l).toNat + 128 * b2n moved),
    pn := tableOf 0 256 (fun l => natAt t.pn l + 128 * kd),
    lfl := tableOf 0 256 (fun l => natAt t.lfl l ||| (lineOr (fun k => (el k).fl % 8) l)) }

/-! ### Fixed-order binary32 accumulation (R136, R137, R219, R222) -/

/-- The value of a binary32 word. -/
def f32 (w : Word) : Fv := valueOf 8 w.toNat
/-- A value rounded RNE to binary32. -/
def toF32 (v : Fv) : Word := BitVec.ofNat 32 (encodeTo 8 .rne 0 v)

/-- A binary32 addition; the flag is set where finite operands overflow. -/
def addF32 (a b : Word × Bool) : Word × Bool :=
  let r := toF32 (Fv.add .rne (f32 a.1) (f32 b.1))
  (r, a.2 || b.2 || ((f32 a.1).isFin && (f32 b.1).isFin && !(f32 r).isFin))

/-- One level of the tree: pairs in ascending order. -/
def pairUp : List (Word × Bool) → List (Word × Bool)
  | a :: b :: r => addF32 a b :: pairUp r
  | r => r

/-- The sum of a slab of 32 products, five levels deep. -/
def slabSum (ps : List (Word × Bool)) : Word × Bool := (pairUp (pairUp (pairUp (pairUp (pairUp ps))))).headD (0, false)

/-- A finite binary32 value in units of 2⁻¹⁴⁹, 0 otherwise. -/
def f32Units (w : Word) : Int :=
  match f32 w with
  | .fin neg m e => inUnits neg m e (-149)
  | _ => 0

/-- The check-lane flags of a binary32 product: NaN, +∞, −∞. -/
def f32Flags (w : Word) : Nat :=
  match f32 w with
  | .nan => 1
  | .inf neg => if neg then 4 else 2
  | .fin _ _ _ => 0

/-- The element of a binary32 tile. -/
def f32At (t : Tile) (k : Nat) : Word := Sparse.get (fun _ => 0) t.f k

/-- A binary32 tile after an MMA (R136, R137, R222, log entry 71). -/
def mmaF32 (t : Tile) (ra rb : Array (List (Fv × Nat))) : Tile :=
  let ps := (Array.range 16384).map (fun k => (products false ra rb (k / 128) (k % 128)).map (fun p => (toF32 p.2, false)))
  let pr (k : Nat) : List (Word × Bool) := ps.getD k []
  let els := (Array.range 16384).map (fun k => addF32 (f32At t k, false) (slabSum (pr k)))
  let el (k : Nat) : Word × Bool := els.getD k (0, false)
  let fin (k : Nat) : Int := (pr k).foldl (fun a p => a + f32Units p.1) 0
  let mags (k : Nat) : Int := (pr k).foldl (fun a p => a + (f32Units p.1).natAbs) 0
  let fls (k : Nat) : Nat := (pr k).foldl (fun a p => a ||| f32Flags p.1) (8 * b2n (el k).2)
  { t with
    cls := .bin32, n := t.n + 1, bounded := true,
    f := tableOf 0 16384 (fun k => (el k).1),
    sums := tableOf 0 256 (fun l => intAt t.sums l + lineSum fin l),
    mag := tableOf 0 256 (fun l => intAt t.mag l + lineSum mags l),
    lfl := tableOf 0 256 (fun l => natAt t.lfl l ||| lineOr fls l) }

/-! ### Start and completion (R199, R216) -/

/-- The counts of MMAs issued by the command, cores in ascending logical number (R68). -/
def Dev.tileSeq (d : Dev) (c : Cmd) (p l : Nat) : Nat :=
  let before := (d.activeTiles p).takeWhile (· != l)
  ((before.filter (fun t => c.cores.contains t)).map (fun t => (d.core (36 * p + t)).mmas)).foldl (· + ·) 0 + (d.core (36 * p + l)).mmas

/-- The products of an MMA count to its partition in the format of its A operand; a sparse one forms half of the dense count (R477). -/
def Dev.chargeMma (d : Dev) (p : Nat) (o : MatOp) : Dev :=
  d.charge p o.fa (16384 * depthOf o.fa o.fb o.sparse / (if o.sparse then 2 else 1))

/-- Shadow sampling of a tile operation (R68, R69). -/
def Dev.sample (d : Dev) (p l cid : Nat) (o : MatOp) : Dev :=
  match d.cmd cid with
  | none => d
  | some c =>
    let t := d.tileSeq c p l
    let no := 36 * p + l
    let d1 := d.setCore no { d.core no with mmas := (d.core no).mmas + 1 }
    if flag (d.reg 0x80000) 3 && decide ((t * 40503 + digest c.enc % 65536) % 65536 < d.regN 0x80004) then
      match d1.idleSpare p with
      | none => d1.bump 0x80030
      | some sp =>
        ((d1.setCore (36 * p + sp) { d1.core (36 * p + sp) with shadow := some (l, cid) }).chargeMma p o).onCmd cid
          (fun x => { x with chk := { x.chk with shadowPend := x.chk.shadowPend + 1 } })
    else d1

/-- The block of an operation. -/
def Core.blkAt (c : Core) (k : Nat) : Blk := (c.blocks.find? (fun b => b.k == k)).getD ⟨0, k, 0, [], false, false⟩

/-- MATRIX_OP_START (R68, R212, R216): the oldest queued operation starts; a broken metadata nibble is a matrix-format
fault. -/
def execMatrixOpStart (core : CoreId) (s : State) : Out :=
  let no := coreNo core
  let c := s.dev.core no
  .next (match c.mq, c.cid with
  | o :: rest, some cid =>
    if o.kind ≠ .mma ∧ c.run.any (fun r => r.acc == o.acc) = true then s
    else
      let rdM (i : Nat) : Nat := stagedByte (c.blkAt o.k) false 0 o.offM 0 i
      if o.kind = .mma ∧ o.sparse = true ∧ metaBad rdM (depthOf o.fa o.fb true) = true then
        let gi := ((c.groups.find? (fun g => g.slot == o.slot)).map (·.gi)).getD 0
        s.onDev (fun d => d.kernelFault s.clk cid core.part.val core.tile.val gi 0x14 o.mask o.pc)
      else
        s.onDev (fun d =>
          let d1 := d.setCore no { c with mq := rest, run := c.run ++ [o] }
          if o.kind = .mma then d1.sample core.part.val core.tile.val cid o else d1)
  | _, _ => s)

/-- An operation has completed: its token is the last one, and the groups that waited on it go on (R199, R200). -/
def Core.opDone (c : Core) (o : MatOp) : Core :=
  { c with
    run := c.run.drop 1, lastTok := o.token,
    groups := c.groups.map (fun g =>
      match g.matWait with
      | some t => if tokDone o.token t then { g with matWait := none } else g
      | none => g) }

/-- The oldest operation in progress, where it is of a kind. -/
def Core.headOp (c : Core) (k : MatKind) : Option MatOp :=
  match c.run with
  | o :: _ => if o.kind = k then some o else none
  | [] => none

/-- The tile that an MMA leaves (R128 to R137, R213, R219). -/
def mmaTile (c : Core) (o : MatOp) (seed : Nat) : Tile :=
  let b := c.blkAt o.k
  let kd := depthOf o.fa o.fb o.sparse
  let rdM := stagedByte b false 0 o.offM 0
  let ra := rowsOf (operand (stagedByte b o.dirty seed o.offA 0) rdM o.fa kd o.sparse) kd
  let rb := rowsOf (operand (stagedByte b o.dirty seed o.offB (2 ^ 18)) rdM o.fb kd false) kd
  let t0 := if o.clr then tileCleared else c.tile o.acc
  match (pairClass o.fa o.fb).getD .unscaled with
  | .bin32 => mmaF32 t0 ra rb
  | cls => mmaWide t0 cls ra rb kd

/-- MMA_COMPLETE: the accumulator update is written, and its comparison is due (R199, R219, R223). Without a working check
unit nothing is compared, and MTX is absent (R65). -/
def execMmaComplete (core : CoreId) (s : State) : Out :=
  let no := coreNo core
  .next (s.onDev (fun d =>
    let c := d.core no
    match c.headOp .mma, c.cid with
    | some o, some cid =>
      let t := mmaTile c o d.fresh
      let c1 := (c.setTile o.acc t).opDone o
      let d1 := (if o.dirty then { d with fresh := d.fresh + 1 } else d).chargeMma core.part.val o
      if c.noCheck then
        (d1.setCore no c1).onCmd cid (fun x => { x with chk := { x.chk with absent := x.chk.absent ||| 1, bnd := x.chk.bnd || t.bounded } })
      else
        (d1.setCore no { c1 with cmps := c1.cmps ++ [(⟨o.k, o.acc, t⟩ : Cmp)] }).onCmd cid
          (fun x => { x with chk := { x.chk with cover := x.chk.cover ||| 1, bnd := x.chk.bnd || t.bounded } })
    | _, _ => d))

/-- The value that reading out an element rounds (R135): a saturated element is beyond every format. -/
def readValue (t : Tile) (k : Nat) : Fv :=
  if t.cls = .bin32 then f32 (f32At t k)
  else
    let fl := natAt t.fl k
    let a := intAt t.a k
    if bitAt fl 0 || (bitAt fl 1 && bitAt fl 2) then .nan
    else if bitAt fl 1 then .inf false
    else if bitAt fl 2 then .inf true
    else if bitAt fl 3 then .fin (decide (a < 0)) 1 4096
    else .fin (decide (a < 0)) a.natAbs (t.q.getD 0)

/-- Codes packed into bytes (R117). -/
def packCodes (w : Nat) : List Nat → Bytes
  | [] => []
  | [a] => le (cdiv w 8) a
  | a :: b :: r => if w = 4 then le 1 (a + 16 * b) ++ packCodes w r else le (w / 8) a ++ le (w / 8) b ++ packCodes w r

/-- The bytes an MRD writes (R217). -/
def mrdOut (c : Cmd) (t : Tile) (o : MatOp) : Bytes :=
  let rm := (rndOf o.rm).getD .rne
  packCodes (fmtBits o.fa) ((List.range 16384).map (fun n =>
    encodeTo o.fa rm (if rm = .sr then srR c.srC ((o.thread * 2 ^ 24 + (o.n0 + n) % 2 ^ 24) % 2 ^ 64) else 0) (readValue t n)))

/-- MRD_COMPLETE: the output tile is written to local memory, and a CLR clears the tile (R199, R213, R217). -/
def execMrdComplete (core : CoreId) (s : State) : Out :=
  let no := coreNo core
  .next (s.onDev (fun d =>
    let c := d.core no
    match c.headOp .mrd, c.cid.bind d.cmd with
    | some o, some cmd =>
      let bs := mrdOut cmd (c.tile o.acc) o
      let c1 := c.opDone o
      let c2 := (c1.setBlk ((c1.blkAt o.k).write o.offA bs)).dirtied o.k o.offA bs.length staged
      d.setCore no (if o.clr then c2.setTile o.acc tileCleared else c2)
    | _, _ => d))

/-- MCLR_COMPLETE (R213). -/
def execMclrComplete (core : CoreId) (s : State) : Out :=
  let no := coreNo core
  .next (s.onDev (fun d =>
    let c := d.core no
    match c.headOp .mclr with
    | some o => d.setCore no ((c.opDone o).setTile o.acc tileCleared)
    | none => d))

/-! ### Comparisons (R69, R71, R221 to R224) -/

/-- A tile as its read-back finds it: an upset adds to an element. -/
def Tile.upset (t : Tile) (us : List Upset) : Tile :=
  us.foldl (fun t u =>
    let k := 128 * u.row.val + u.col.val
    if t.cls = .bin32 then
      let w := match f32 (f32At t k) with
        | .fin _ _ _ =>
          let v := f32Units (f32At t k) + u.delta
          toF32 (.fin (decide (v < 0)) v.natAbs (-149))
        | _ => f32At t k
      { t with f := Sparse.put (fun _ => 0) t.f k w }
    else { t with a := Sparse.put (fun _ => 0) t.a k (intAt t.a k + u.delta) }) t

/-- A line passes its comparison (R220 to R222). -/
def Tile.linePasses (t : Tile) (l : Nat) : Bool :=
  if t.cls = .bin32 then
    let fl := natAt t.lfl l
    let stored := lineSum (fun k => f32Units (f32At t k)) l
    let diff := (stored - intAt t.sums l).natAbs
    let mags := (intAt t.mag l + lineSum (fun k => ((f32Units (f32At t k)).natAbs : Int)) l).toNat
    if (lineKeys l).all (fun k => (f32 (f32At t k)).isFin) then
      (if fl % 8 = 0 then decide (diff * 2 ^ 24 ≤ (t.n + 6) * mags + (t.n + 32) * 64 * 2 ^ 24) else bitAt fl 3)
    else decide (fl ≠ 0)
  else
    let diff := (lineSum (intAt t.a) l * 2 ^ 16 - intAt t.sums l).natAbs
    (if t.bounded then decide (2 * diff ≤ natAt t.rn l * 2 ^ 16 + natAt t.pn l) else decide (diff = 0)) &&
      lineOr (fun k => natAt t.fl k % 8) l == natAt t.lfl l

/-- CHECK_LANE_COMPARE (R219 to R224): the oldest comparison of the core resolves; a line that fails is a failed check that
names the core. -/
def execCheckLaneCompare (core : CoreId) (upsets : List Upset) (s : State) : Out :=
  let no := coreNo core
  .next (s.onDev (fun d =>
    let c := d.core no
    match c.cmps, c.cid with
    | m :: rest, some cid =>
      let t := m.tile.upset upsets
      let c1 := { c.setTile m.acc ((c.tile m.acc).upset upsets) with cmps := rest }
      let bnd := t.bounded || decide (t.cls = .bin32)
      let c2 := c1.setBlk { c1.blkAt m.k with bounded := (c1.blkAt m.k).bounded || bnd }
      if (List.range 256).all t.linePasses then (d.setCore no c2).kernelEnd cid
      else (d.setCore no c2).checkFail s.clk cid 0 core.tile.val 0xFF
    | _, _ => d))

/-- SHADOW_COMPARE_DONE (R69, R71): the comparison counts in the command and in SHADOW_CNT; a difference is a failed check
that names both cores. -/
def execShadowCompareDone (spare : CoreId) (same : Bool) (s : State) : Out :=
  let no := coreNo spare
  .next (s.onDev (fun d =>
    match (d.core no).shadow with
    | none => d
    | some (l, cid) =>
      let sno := d.mapNum spare.part.val spare.tile.val
      let d1 := ((d.setCore no { d.core no with shadow := none }).bump 0x80028).onCmd cid (fun x =>
        { x with chk := { x.chk with shadowPend := x.chk.shadowPend - 1, shadows := x.chk.shadows + 1, cover := x.chk.cover ||| 8,
                                     spares := x.chk.spares ||| 2 ^ sno } })
      if same then d1.kernelEnd cid else (d1.bump 0x8002C).checkFail s.clk cid 3 l spare.tile.val))

end Sys2Proof.Machine
end

