-- ==== Sys2Proof/Machine/ThreadCtl.lean ====
section
/-! DEFINITION. Control instructions: branches, exit, barrier, yield, beat reads and waits, check marks (R156 to R163, R186, R187, R197, R202 to R205). -/

namespace Sys2Proof.Machine

/-- Nothing of the form is used. -/
def bareChk (f : RForm) : Chk := rChk f (decide (f.fmt = 0)) (decide (f.rm = 0)) 0 none none none .none false

/-- NOP. -/
def execNop (g : At) (f : RForm) (s : State) : Out :=
  .next (s.issue g f.gn f.gp (bareChk f) (fun x _ => s.putGrp x x.grp.advance))

/-- A program counter moved by a signed count of instructions, modulo 2³². -/
def pcPlus (pc : Nat) (n : Int) : Nat := (((pc : Int) + 8 * n) % 2 ^ 32).toNat

/-- Go on at an address. -/
def Grp.goTo (g : Grp) (pc : Nat) (mask : BitVec 32) : Grp := Grp.settle 66 { g with pc := pc, mask := mask, held := false }

/-- BRA (R156 to R158, R186). -/
def execBra (g : At) (f : BForm) (s : State) : Out :=
  .next (s.issue g f.gn f.gp ⟨badGuard f.gn f.gp || decide (f.dst ≠ 0) || decide (f.res ≠ 0), [], none⟩ (fun x m =>
    let target := pcPlus x.grp.pc f.tdist.toInt
    let next := x.grp.pc + 8
    if m = x.grp.mask then s.putGrp x (x.grp.goTo target m)
    else if m = 0 then s.putGrp x x.grp.advance
    else if f.rdist = 0 then s.faultThr x 0x10 x.grp.mask
    else if 32 ≤ x.grp.stack.length then s.faultThr x 0x04 x.grp.mask
    else
      let e : DivEnt := ⟨pcPlus x.grp.pc f.rdist.toNat, x.grp.mask, next, x.grp.mask &&& ~~~m⟩
      s.putGrp x ({ x.grp with stack := e :: x.grp.stack }.goTo target m)))

/-- The barrier of a block: its release is due once every group that has not exited has arrived (R162). -/
def Core.barrier (c : Core) (k : Nat) : Core :=
  let gs := c.groups.filter (fun g => g.k == k)
  if !gs.isEmpty && gs.all (fun g => g.atBar) then { c with blocks := c.blocks.map (fun b => if b.k = k then { b with release := true } else b) }
  else c

/-- A group exits: its barrier counts again, and its block retires with its last group (R162, R166). -/
def Core.groupExit (c : Core) (g : Grp) : Core × Bool :=
  let c1 := { c with groups := c.groups.filter (fun x => x.slot != g.slot) }
  if c1.groups.any (fun x => x.k == g.k) then (c1.barrier g.k, false)
  else ({ c1 with blocks := c1.blocks.filter (fun b => b.k != g.k) }, true)

/-- Matrix operations of a group that have not completed. -/
def Core.groupOps (c : Core) (slot : Nat) : Bool := (c.run ++ c.mq).any (fun o => o.slot == slot)

/-- EXIT (R159, R166, R187): the last lanes of a group wait while it has matrix operations or atomics outstanding. -/
def execExit (g : At) (f : RForm) (s : State) : Out :=
  .next (s.issue g f.gn f.gp (bareChk f) (fun x m =>
    let ex := x.grp.exited ||| m
    if ex ≠ 0xFFFFFFFF then
      s.putGrp x ({ x.grp with exited := ex }.goTo (x.grp.pc + 8) (x.grp.mask &&& ~~~m))
    else if x.core.groupOps x.grp.slot || x.grp.loads.any (fun l => l.aop.isSome) then s.putGrp x { x.grp with held := true }
    else
      State.sweep (s.onDev (fun d =>
        let r := (d.core x.no).groupExit x.grp
        let d1 := d.setCore x.no r.1
        if r.2 then
          (d1.onCmd x.cmd.cid (fun c => { c with run := { c.run with retired := c.run.retired + 1 }, pos := c.pos + 1 })).kernelEnd x.cmd.cid
        else d1))))

/-- BAR (R161, R197): every lane that has not exited must take part. -/
def execBar (g : At) (f : RForm) (s : State) : Out :=
  .next (s.issue g f.gn f.gp (bareChk f) (fun x m =>
    let out := ~~~x.grp.exited &&& ~~~m
    if out ≠ 0 then s.faultThr x 0x05 out
    else s.putCore x ((x.core.setGrp { x.grp.advance with atBar := true }).barrier x.grp.k)))

/-- YIELD (R202): with a request pending a group whose every live lane takes part parks, once it has nothing outstanding. -/
def execYield (g : At) (f : RForm) (s : State) : Out :=
  .next (s.issue g f.gn f.gp (bareChk f) (fun x m =>
    if x.cmd.ph = .parking ∧ m = ~~~x.grp.exited then
      (if x.core.groupOps x.grp.slot || !x.grp.loads.isEmpty then s.putGrp x { x.grp with held := true }
       else s.putGrp x { x.grp.advance with parked := true })
    else s.putGrp x x.grp.advance))

/-- BEATRD (R203). -/
def execBeatrd (g : At) (f : RForm) (s : State) : Out :=
  let n := f.dst.toNat
  let chk := rChk f (decide (f.fmt = 0)) (decide (f.rm = 0)) 0 none none none (.reg 1) (decide (n % 2 ≠ 0) || decide (252 < n))
  .next (s.issue g f.gn f.gp { chk with uses := chk.uses ++ [⟨n + 1, 1, false⟩, ⟨n + 2, 1, false⟩] } (fun x m =>
    let k := s.clk
    s.putGrp x ((lanesOf m).foldl (fun a l => a.wrWords n l [BitVec.ofNat 32 k.beat, BitVec.ofNat 32 (k.beat / 2 ^ 32), BitVec.ofNat 32 k.notch])
      x.grp).advance))

/-- BEATWAIT (R54, R204): operands come from the lowest taking-part lane. -/
def execBeatwait (g : At) (f : RForm) (s : State) : Out :=
  .next (s.issue g f.gn f.gp (rChk f (decide (f.fmt = 0)) (decide (f.rm = 0)) 0 (some 2) (some 1) none .none false) (fun x m =>
    match lanesOf m with
    | [] => s.putGrp x x.grp.advance
    | l :: _ =>
      let beat := x.grp.rd64 f.ua f.sa.toNat l
      let notch := (f.b x.grp l).toNat
      if 1023 < notch then s.faultThr x 0x15 m
      else if s.beat.reached beat notch then s.putGrp x x.grp.advance
      else s.putGrp x { x.grp.advance with beatWait := some (beat, notch) }))

/-- Every comparison of the matrix operations that a block issued has resolved (R205). -/
def Dev.blockResolved (d : Dev) (p tile k : Nat) : Bool :=
  let c := d.core (36 * p + tile)
  !(c.cmps.any (fun m => m.k == k)) && !((c.run ++ c.mq).any (fun o => o.k == k && o.kind == .mma)) &&
    (List.range 36).all (fun l => match (d.core (36 * p + l)).shadow with
      | some (t, cid) => !(t == tile && some cid == c.cid)
      | none => true)

/-- CHKMARK (R205). -/
def execChkmark (g : At) (f : RForm) (s : State) : Out :=
  let drain := decide (f.m 0 1 = 1)
  .next (s.issue g f.gn f.gp (rChk f (decide (f.fmt = 0)) (decide (f.rm = 0)) 1 none none none (if drain then .none else .reg 1) false)
    (fun x m =>
      if drain then
        (if m = 0 ∨ s.dev.blockResolved x.part x.tile x.blk.k = true then s.putGrp x x.grp.advance
         else s.putGrp x { x.grp with held := true })
      else
        s.putGrp x (x.grp.lanes m f.dst.toNat (fun _ =>
          BitVec.ofNat 32 (min x.core.corrected 0xFFFF + 2 ^ 16 * b2n x.core.noCheck + 2 ^ 17 * b2n x.blk.bounded))).advance))

end Sys2Proof.Machine
end

