-- ==== Sys2Proof/Machine/ThreadInt.lean ====
section
/-! DEFINITION. Thread instructions of the integer, data-movement and uniform classes (R177, R178, R182, R183). -/

namespace Sys2Proof.Machine

/-- FMT of the integer class is 0x9 and RM is 0 (R177). -/
def intFmt (f : RForm) : Bool := decide (f.fmt = 9)
/-- RM is 0. -/
def rm0 (f : RForm) : Bool := decide (f.rm = 0)

/-- A signed value saturated to 32 bits (R177). -/
def satS32 (x : Int) : Word := BitVec.ofInt 32 (max (-(2 ^ 31)) (min (2 ^ 31 - 1) x))

/-- High 32 bits of the 64-bit product (R177). -/
def mulHi (u : Bool) (a b : Word) : Word :=
  if u then BitVec.ofNat 32 (a.toNat * b.toNat / 2 ^ 32) else BitVec.ofInt 32 (a.toInt * b.toInt / 2 ^ 32)

/-- Minimum or maximum, signed or unsigned (R177). -/
def minMaxW (u mx : Bool) (a b : Word) : Word :=
  let lt := if u then decide (a.toNat < b.toNat) else decide (a.toInt < b.toInt)
  if lt = mx then b else a

/-- Shift left; 32 and above give 0 (R177). -/
def shlW (a b : Word) : Word := if 32 ≤ b.toNat then 0 else BitVec.ofNat 32 (a.toNat * 2 ^ b.toNat)

/-- Shift right, logical with U set, arithmetic with U clear; 32 and above give 0 or the sign fill (R177). -/
def shrW (u : Bool) (a b : Word) : Word :=
  if u then (if 32 ≤ b.toNat then 0 else BitVec.ofNat 32 (a.toNat / 2 ^ b.toNat))
  else BitVec.ofInt 32 (a.toInt / 2 ^ min b.toNat 31)

/-- IBIT: population count, leading zeros (32 for 0), bit reverse (R177). -/
def bitOp (bop : Nat) (a : Word) : Word :=
  match bop with
  | 0 => BitVec.ofNat 32 (popcount 32 a.toNat)
  | 1 => if a = 0 then 32 else BitVec.ofNat 32 (31 - Nat.log2 a.toNat)
  | _ => BitVec.ofNat 32 (bitRev 32 a.toNat)

/-- A form R instruction of two sources over 32-bit integers. -/
def State.int2 (s : State) (g : At) (f : RForm) (mods : Nat) (extra : Bool) (op : Word → Word → Word) : State :=
  s.alu g f.gn f.gp (rChk f (intFmt f) (rm0 f) mods (some 1) (some 1) none (.reg 1) extra)
    (fun x m => x.grp.lanes m f.dst.toNat (fun l => op (f.a x.grp l) (f.b x.grp l)))

/-- A form I instruction over a source and the immediate. -/
def State.int2i (s : State) (g : At) (f : IForm) (okX : Bool) (op : Word → Word → Word) : State :=
  s.alu g f.gn f.gp (iChk f (some 1) okX (.reg 1))
    (fun x m => x.grp.lanes m f.dst.toNat (fun l => op (f.a x.grp l) f.imm))

/-- X[2:1] is reserved where X[0] is U (R171). -/
def xU (f : IForm) : Bool := decide (f.x.toNat < 2)
/-- X is reserved (R171). -/
def x0 (f : IForm) : Bool := decide (f.x = 0)

/-- IADD (R177). -/
def execIadd (g : At) (f : RForm) (s : State) : Out := .next (s.int2 g f 0 false (fun a b => a + b))

/-- IADD.I (R171, R177). -/
def execIaddI (g : At) (f : IForm) (s : State) : Out := .next (s.int2i g f (x0 f) (fun a b => a + b))

/-- ISUB (R177). -/
def execIsub (g : At) (f : RForm) (s : State) : Out := .next (s.int2 g f 0 false (fun a b => a - b))

/-- ISUB.I (R171, R177). -/
def execIsubI (g : At) (f : IForm) (s : State) : Out := .next (s.int2i g f (x0 f) (fun a b => a - b))

/-- IMUL (R177). -/
def execImul (g : At) (f : RForm) (s : State) : Out := .next (s.int2 g f 0 false (fun a b => a * b))

/-- IMUL.I (R171, R177). -/
def execImulI (g : At) (f : IForm) (s : State) : Out := .next (s.int2i g f (x0 f) (fun a b => a * b))

/-- IMULHI (R177). -/
def execImulhi (g : At) (f : RForm) (s : State) : Out := .next (s.int2 g f 0x200 false (mulHi f.u))

/-- IMULHI.I (R171, R177). -/
def execImulhiI (g : At) (f : IForm) (s : State) : Out := .next (s.int2i g f (xU f) (mulHi f.u))

/-- IADDSAT (R177). -/
def execIaddsat (g : At) (f : RForm) (s : State) : Out := .next (s.int2 g f 0 false (fun a b => satS32 (a.toInt + b.toInt)))

/-- IADDSAT.I (R171, R177). -/
def execIaddsatI (g : At) (f : IForm) (s : State) : Out := .next (s.int2i g f (x0 f) (fun a b => satS32 (a.toInt + b.toInt)))

/-- ISUBSAT (R177). -/
def execIsubsat (g : At) (f : RForm) (s : State) : Out := .next (s.int2 g f 0 false (fun a b => satS32 (a.toInt - b.toInt)))

/-- ISUBSAT.I (R171, R177). -/
def execIsubsatI (g : At) (f : IForm) (s : State) : Out := .next (s.int2i g f (x0 f) (fun a b => satS32 (a.toInt - b.toInt)))

/-- IMIN (R177). -/
def execImin (g : At) (f : RForm) (s : State) : Out := .next (s.int2 g f 0x200 false (minMaxW f.u false))

/-- IMIN.I (R171, R177). -/
def execIminI (g : At) (f : IForm) (s : State) : Out := .next (s.int2i g f (xU f) (minMaxW f.u false))

/-- IMAX (R177). -/
def execImax (g : At) (f : RForm) (s : State) : Out := .next (s.int2 g f 0x200 false (minMaxW f.u true))

/-- IMAX.I (R171, R177). -/
def execImaxI (g : At) (f : IForm) (s : State) : Out := .next (s.int2i g f (xU f) (minMaxW f.u true))

/-- AND (R177). -/
def execAnd (g : At) (f : RForm) (s : State) : Out := .next (s.int2 g f 0 false (fun a b => a &&& b))

/-- AND.I (R171, R177). -/
def execAndI (g : At) (f : IForm) (s : State) : Out := .next (s.int2i g f (x0 f) (fun a b => a &&& b))

/-- OR (R177). -/
def execOr (g : At) (f : RForm) (s : State) : Out := .next (s.int2 g f 0 false (fun a b => a ||| b))

/-- OR.I (R171, R177). -/
def execOrI (g : At) (f : IForm) (s : State) : Out := .next (s.int2i g f (x0 f) (fun a b => a ||| b))

/-- XOR (R177). -/
def execXor (g : At) (f : RForm) (s : State) : Out := .next (s.int2 g f 0 false (fun a b => a ^^^ b))

/-- XOR.I (R171, R177). -/
def execXorI (g : At) (f : IForm) (s : State) : Out := .next (s.int2i g f (x0 f) (fun a b => a ^^^ b))

/-- SHL (R177). -/
def execShl (g : At) (f : RForm) (s : State) : Out := .next (s.int2 g f 0 false (shlW))

/-- SHL.I (R171, R177). -/
def execShlI (g : At) (f : IForm) (s : State) : Out := .next (s.int2i g f (x0 f) (shlW))

/-- SHR (R177). -/
def execShr (g : At) (f : RForm) (s : State) : Out := .next (s.int2 g f 0x200 false (shrW f.u))

/-- SHR.I (R171, R177). -/
def execShrI (g : At) (f : IForm) (s : State) : Out := .next (s.int2i g f (xU f) (shrW f.u))

/-- IMAD (R177): a × b + c modulo 2³². -/
def execImad (g : At) (f : RForm) (s : State) : Out :=
  .next (s.alu g f.gn f.gp (rChk f (intFmt f) (rm0 f) 0 (some 1) (some 1) (some 1) (.reg 1) false)
    (fun x m => x.grp.lanes m f.dst.toNat (fun l => f.a x.grp l * f.b x.grp l + f.c x.grp l)))

/-- IMAD.I (R177): a × IMM + dst. -/
def execImadI (g : At) (f : IForm) (s : State) : Out :=
  .next (s.alu g f.gn f.gp (iChk f (some 1) (x0 f) (.reg 1))
    (fun x m => x.grp.lanes m f.dst.toNat (fun l => f.a x.grp l * f.imm + x.grp.rdT f.dst.toNat l)))

/-- ISETP (R177, R178): a predicate from a comparison; condition codes 6 and 7 are reserved. -/
def execIsetp (g : At) (f : RForm) (s : State) : Out :=
  .next (s.alu g f.gn f.gp (rChk f (intFmt f) (rm0 f) 0x3C0 (some 1) (some 1) none .pred (decide (6 ≤ f.m 6 3)))
    (fun x m => x.grp.wrP f.dst.toNat m (maskWhere (fun l => intCond f.u (f.m 6 3) (f.a x.grp l) (f.b x.grp l)))))

/-- ISETP.I (R171): always signed, the condition code in X. -/
def execIsetpI (g : At) (f : IForm) (s : State) : Out :=
  .next (s.alu g f.gn f.gp (iChk f (some 1) (decide (f.x.toNat < 6)) .pred)
    (fun x m => x.grp.wrP f.dst.toNat m (maskWhere (fun l => intCond false f.x.toNat (f.a x.grp l) f.imm))))

/-- IBIT (R177): the bit operation BOP; code 3 is reserved. -/
def execIbit (g : At) (f : RForm) (s : State) : Out :=
  .next (s.alu g f.gn f.gp (rChk f (intFmt f) (rm0 f) 0x030 (some 1) none none (.reg 1) (decide (f.m 4 2 = 3)))
    (fun x m => x.grp.lanes m f.dst.toNat (fun l => bitOp (f.m 4 2) (f.a x.grp l))))

/-! ### Data movement (R182) -/

/-- FMT and RM are 0 for data movement in form R. -/
def fmt0 (f : RForm) : Bool := decide (f.fmt = 0)

/-- MOV: copies a. -/
def execMov (g : At) (f : RForm) (s : State) : Out :=
  .next (s.move g f.gn f.gp (rChk f (fmt0 f) (rm0 f) 0 (some 1) none none (.reg 1) false)
    (fun x m => x.grp.lanes m f.dst.toNat (fun l => f.a x.grp l)))

/-- MOVI: copies IMM; SA, UA and X are reserved. -/
def execMovi (g : At) (f : IForm) (s : State) : Out :=
  .next (s.move g f.gn f.gp (iChk f none (x0 f) (.reg 1)) (fun x m => x.grp.lanes m f.dst.toNat (fun _ => f.imm)))

/-- SEL: a where pK is true, b elsewhere. -/
def execSel (g : At) (f : RForm) (s : State) : Out :=
  .next (s.move g f.gn f.gp (rChk f (fmt0 f) (rm0 f) 7 (some 1) (some 1) none (.reg 1) false)
    (fun x m => x.grp.lanes m f.dst.toNat
      (fun l => if bitAt (x.grp.rdP (f.m 0 3)).toNat l then f.a x.grp l else f.b x.grp l)))

/-- The source lane of SHFL: b, lane − b, lane + b or lane xor b; outside 0 to 31 the lane itself. -/
def shflLane (mode l b : Nat) : Nat :=
  let src : Int :=
    match mode with
    | 0 => b
    | 1 => (l : Int) - b
    | 2 => (l : Int) + b
    | _ => ((l ^^^ b : Nat) : Int)
  if 0 ≤ src ∧ src < 32 then src.toNat else l

/-- SHFL: the SA register of a source lane, which yields its register as it stands. -/
def execShfl (g : At) (f : RForm) (s : State) : Out :=
  .next (s.move g f.gn f.gp (rChk f (fmt0 f) (rm0 f) 3 (some 1) (some 1) none (.reg 1) false)
    (fun x m => x.grp.lanes m f.dst.toNat (fun l => f.a x.grp (shflLane (f.m 0 2) l (f.b x.grp l).toNat))))

/-- VOTE: in every taking-part lane, the mask of taking-part lanes whose pK is true. -/
def execVote (g : At) (f : RForm) (s : State) : Out :=
  .next (s.move g f.gn f.gp (rChk f (fmt0 f) (rm0 f) 7 none none none (.reg 1) false)
    (fun x m => x.grp.lanes m f.dst.toNat (fun _ => m &&& x.grp.rdP (f.m 0 3))))

/-- PLOP: pD = pA op pB, each in the low three bits of its field; the other bits are reserved. -/
def execPlop (g : At) (f : RForm) (s : State) : Out :=
  .next (s.move g f.gn f.gp
    (rChk { f with sa := 0, sb := 0, ua := f.ua, ub := f.ub } (fmt0 f) (rm0 f) 3 none none none .pred
      (decide (8 ≤ f.sa.toNat) || decide (8 ≤ f.sb.toNat)))
    (fun x m => x.grp.wrP f.dst.toNat m (predOp (f.m 0 2) (x.grp.rdP f.sa.toNat) (x.grp.rdP f.sb.toNat))))

/-- LANE: the lane number. -/
def execLane (g : At) (f : RForm) (s : State) : Out :=
  .next (s.move g f.gn f.gp (rChk f (fmt0 f) (rm0 f) 0 none none none (.reg 1) false)
    (fun x m => x.grp.lanes m f.dst.toNat (fun l => BitVec.ofNat 32 l)))

/-- T2U: uD from a of the lowest taking-part lane; nothing if no lane takes part (R175). -/
def execT2u (g : At) (f : RForm) (s : State) : Out :=
  .next (s.move g f.gn f.gp (rChk f (fmt0 f) (rm0 f) 0 (some 1) none none .uni false)
    (fun x m => match lanesOf m with
      | [] => x.grp
      | l :: _ => x.grp.wrU f.dst.toNat (f.a x.grp l)))

/-! ### Uniform instructions (R183) -/

/-- A uniform instruction of two sources: u registers named by bits [5:0], once per group. -/
def State.uni2 (s : State) (g : At) (f : RForm) (op : Word → Word → Word) : State :=
  s.move g f.gn f.gp
    (rChk { f with sa := 0, sb := 0 } (intFmt f) (rm0 f) 0 none none none .uni
      (decide (64 ≤ f.sa.toNat) || decide (64 ≤ f.sb.toNat)))
    (fun x m => if m = 0 then x.grp else x.grp.wrU f.dst.toNat (op (x.grp.rdU f.sa.toNat) (x.grp.rdU f.sb.toNat)))

/-- UADD (R183). -/
def execUadd (g : At) (f : RForm) (s : State) : Out := .next (s.uni2 g f (fun a b => a + b))

/-- USUB (R183). -/
def execUsub (g : At) (f : RForm) (s : State) : Out := .next (s.uni2 g f (fun a b => a - b))

/-- UMUL (R183). -/
def execUmul (g : At) (f : RForm) (s : State) : Out := .next (s.uni2 g f (fun a b => a * b))

/-- UAND (R183). -/
def execUand (g : At) (f : RForm) (s : State) : Out := .next (s.uni2 g f (fun a b => a &&& b))

/-- UOR (R183). -/
def execUor (g : At) (f : RForm) (s : State) : Out := .next (s.uni2 g f (fun a b => a ||| b))

/-- UXOR (R183). -/
def execUxor (g : At) (f : RForm) (s : State) : Out := .next (s.uni2 g f (fun a b => a ^^^ b))

/-- USHL (R183). -/
def execUshl (g : At) (f : RForm) (s : State) : Out := .next (s.uni2 g f (shlW))

/-- USHR (R183). -/
def execUshr (g : At) (f : RForm) (s : State) : Out := .next (s.uni2 g f (shrW true))

/-- UMOVI: writes IMM; SA, UA and X are reserved (R183). -/
def execUmovi (g : At) (f : IForm) (s : State) : Out :=
  .next (s.move g f.gn f.gp (iChk f none (x0 f) .uni) (fun x m => if m = 0 then x.grp else x.grp.wrU f.dst.toNat f.imm))

end Sys2Proof.Machine
end

