-- ==== Sys2Proof/Machine/Cores.lean ====
section
/-! DEFINITION. The core cycle, instruction words, block dispatch and barrier release (R139 to R155, R162, R165, R169, R176). -/

namespace Sys2Proof.Machine

/-! ### Instruction words (R169) -/

/-- Bits of an instruction word. -/
def wbits (w lo len : Nat) : Nat := bitsAt w lo len

/-- Form R. -/
def rForm (w : Nat) : RForm :=
  ⟨bitAt w 55, BitVec.ofNat 3 (wbits w 52 3), BitVec.ofNat 8 (wbits w 44 8), BitVec.ofNat 8 (wbits w 36 8),
   BitVec.ofNat 8 (wbits w 28 8), BitVec.ofNat 8 (wbits w 20 8), bitAt w 19, bitAt w 18, bitAt w 17,
   BitVec.ofNat 3 (wbits w 14 3), BitVec.ofNat 4 (wbits w 10 4), BitVec.ofNat 10 (wbits w 0 10)⟩

/-- Form I. -/
def iForm (w : Nat) : IForm :=
  ⟨bitAt w 55, BitVec.ofNat 3 (wbits w 52 3), BitVec.ofNat 8 (wbits w 44 8), BitVec.ofNat 8 (wbits w 36 8),
   BitVec.ofNat 32 (wbits w 4 32), bitAt w 3, BitVec.ofNat 3 (wbits w 0 3)⟩

/-- Form M. -/
def mForm (w : Nat) : MForm :=
  ⟨bitAt w 55, BitVec.ofNat 3 (wbits w 52 3), BitVec.ofNat 8 (wbits w 44 8), BitVec.ofNat 8 (wbits w 36 8),
   BitVec.ofNat 8 (wbits w 28 8), BitVec.ofNat 14 (wbits w 14 14), BitVec.ofNat 2 (wbits w 12 2), BitVec.ofNat 2 (wbits w 10 2),
   BitVec.ofNat 3 (wbits w 7 3), BitVec.ofNat 2 (wbits w 5 2), BitVec.ofNat 4 (wbits w 1 4), bitAt w 0⟩

/-- Form B. -/
def bForm (w : Nat) : BForm :=
  ⟨bitAt w 55, BitVec.ofNat 3 (wbits w 52 3), BitVec.ofNat 8 (wbits w 44 8), BitVec.ofNat 16 (wbits w 28 16),
   BitVec.ofNat 8 (wbits w 20 8), BitVec.ofNat 20 (wbits w 0 20)⟩

/-- Form X. -/
def xForm (w : Nat) : XForm :=
  ⟨bitAt w 55, BitVec.ofNat 3 (wbits w 52 3), BitVec.ofNat 8 (wbits w 44 8), BitVec.ofNat 8 (wbits w 36 8),
   BitVec.ofNat 8 (wbits w 28 8), BitVec.ofNat 8 (wbits w 20 8), BitVec.ofNat 20 (wbits w 0 20)⟩

/-- A reserved opcode is an illegal instruction (R170, R176). -/
def execReserved (g : At) (s : State) : Out := .next (s.issue g false 0 ⟨true, [], none⟩ (fun _ _ => s))

/-- What an instruction word does in a group (Table: Opcode map). -/
def runWord (g : At) (w : Nat) (s : State) : Out :=
  match wbits w 56 8 with
  | 0x00 => execNop g (rForm w) s
  | 0x01 => execBra g (bForm w) s
  | 0x02 => execExit g (rForm w) s
  | 0x03 => execBar g (rForm w) s
  | 0x04 => execYield g (rForm w) s
  | 0x05 => execBeatrd g (rForm w) s
  | 0x06 => execBeatwait g (rForm w) s
  | 0x07 => execChkmark g (rForm w) s
  | 0x10 => execIadd g (rForm w) s
  | 0x11 => execIsub g (rForm w) s
  | 0x12 => execImul g (rForm w) s
  | 0x13 => execImulhi g (rForm w) s
  | 0x14 => execImad g (rForm w) s
  | 0x15 => execIaddsat g (rForm w) s
  | 0x16 => execIsubsat g (rForm w) s
  | 0x17 => execImin g (rForm w) s
  | 0x18 => execImax g (rForm w) s
  | 0x19 => execAnd g (rForm w) s
  | 0x1A => execOr g (rForm w) s
  | 0x1B => execXor g (rForm w) s
  | 0x1C => execShl g (rForm w) s
  | 0x1D => execShr g (rForm w) s
  | 0x1E => execIsetp g (rForm w) s
  | 0x1F => execIbit g (rForm w) s
  | 0x20 => execIaddI g (iForm w) s
  | 0x21 => execIsubI g (iForm w) s
  | 0x22 => execImulI g (iForm w) s
  | 0x23 => execImulhiI g (iForm w) s
  | 0x24 => execImadI g (iForm w) s
  | 0x25 => execIaddsatI g (iForm w) s
  | 0x26 => execIsubsatI g (iForm w) s
  | 0x27 => execIminI g (iForm w) s
  | 0x28 => execImaxI g (iForm w) s
  | 0x29 => execAndI g (iForm w) s
  | 0x2A => execOrI g (iForm w) s
  | 0x2B => execXorI g (iForm w) s
  | 0x2C => execShlI g (iForm w) s
  | 0x2D => execShrI g (iForm w) s
  | 0x2E => execIsetpI g (iForm w) s
  | 0x30 => execFadd g (rForm w) s
  | 0x31 => execFsub g (rForm w) s
  | 0x32 => execFmul g (rForm w) s
  | 0x33 => execFfma g (rForm w) s
  | 0x34 => execFmin g (rForm w) s
  | 0x35 => execFmax g (rForm w) s
  | 0x36 => execFsetp g (rForm w) s
  | 0x38 => execFaddI g (iForm w) s
  | 0x39 => execFsubI g (iForm w) s
  | 0x3A => execFmulI g (iForm w) s
  | 0x3B => execFfmaI g (iForm w) s
  | 0x3C => execFminI g (iForm w) s
  | 0x3D => execFmaxI g (iForm w) s
  | 0x3E => execFsetpI g (iForm w) s
  | 0x40 => execHadd2 g (rForm w) s
  | 0x41 => execHsub2 g (rForm w) s
  | 0x42 => execHmul2 g (rForm w) s
  | 0x43 => execHfma2 g (rForm w) s
  | 0x44 => execHmin2 g (rForm w) s
  | 0x45 => execHmax2 g (rForm w) s
  | 0x46 => execHsetp2 g (rForm w) s
  | 0x50 => execRcp g (rForm w) s
  | 0x51 => execRsq g (rForm w) s
  | 0x52 => execSqrt g (rForm w) s
  | 0x53 => execEx2 g (rForm w) s
  | 0x54 => execLg2 g (rForm w) s
  | 0x55 => execSin g (rForm w) s
  | 0x56 => execCos g (rForm w) s
  | 0x57 => execTanh g (rForm w) s
  | 0x58 => execCvt g (rForm w) s
  | 0x59 => execCvtblk g (rForm w) s
  | 0x60 => execMov g (rForm w) s
  | 0x61 => execMovi g (iForm w) s
  | 0x62 => execSel g (rForm w) s
  | 0x63 => execShfl g (rForm w) s
  | 0x64 => execVote g (rForm w) s
  | 0x65 => execPlop g (rForm w) s
  | 0x66 => execLane g (rForm w) s
  | 0x67 => execT2u g (rForm w) s
  | 0x70 => execUadd g (rForm w) s
  | 0x71 => execUsub g (rForm w) s
  | 0x72 => execUmul g (rForm w) s
  | 0x73 => execUand g (rForm w) s
  | 0x74 => execUor g (rForm w) s
  | 0x75 => execUxor g (rForm w) s
  | 0x76 => execUshl g (rForm w) s
  | 0x77 => execUshr g (rForm w) s
  | 0x78 => execUmovi g (iForm w) s
  | 0x80 => execLdg g (mForm w) s
  | 0x81 => execStg g (mForm w) s
  | 0x82 => execLdl g (mForm w) s
  | 0x83 => execStl g (mForm w) s
  | 0x84 => execPrfg g (mForm w) s
  | 0x90 => execAtomg g (mForm w) s
  | 0x91 => execAtoml g (mForm w) s
  | 0x92 => execCasg g (mForm w) s
  | 0x93 => execCasl g (mForm w) s
  | 0xA0 => execFence g (rForm w) s
  | 0xB0 => execMma g (xForm w) s
  | 0xB1 => execMrd g (xForm w) s
  | 0xB2 => execMwait g (xForm w) s
  | 0xB3 => execMclr g (xForm w) s
  | _ => execReserved g s

/-- The state after an outcome; a meaning of a thread instruction always goes on. -/
def outState (s : State) : Out → State
  | .next t => t
  | _ => s

/-! ### Readiness (R152, R153, R155) -/

/-- The word at a group's program counter. -/
def State.wordOf (s : State) (cid : Nat) (g : Grp) : Nat :=
  match s.dev.cmd cid with
  | some c => leNat (readMem s.mem (c.run.code + g.pc) 8)
  | none => 0

/-- The position of a group of a core. -/
def groupAt (core : CoreId) (slot : Nat) : At := ⟨core.part, core.tile, Fin.ofNat 64 slot⟩

/-- What the next instruction of a group would do now: issue, or stall. -/
inductive Ready where
  | go
  | long
  | short
  deriving DecidableEq, Repr

/-- Whether a group may issue, by trying its next instruction: unchanged, it waits for the data of a load; held, it waits for
room in the matrix queue (a long stall), or to exit, park or drain (a short one) (Table: Long-latency stalls). -/
def State.ready (s : State) (core : CoreId) (cid : Nat) (g : Grp) : Ready :=
  if g.atBar || g.beatWait.isSome || g.matWait.isSome || g.loads.any (·.acq) ||
      (match g.fence with | some (scope, _) => decide (2 ≤ scope) | none => false) then .long
  else if g.parked || g.drain || g.fence.isSome then .short
  else
    let w := s.wordOf cid g
    if wbits w 56 8 = 1 then .go
    else
      let t := outState s (runWord (groupAt core g.slot) w s)
      match ((t.dev.core (coreNo core)).groups).find? (fun x => x.slot == g.slot) with
      | none => .go
      | some x =>
        if x.held && decide (x.pc = g.pc) then (if 0xB0 ≤ wbits w 56 8 then .long else .short)
        else if x = g then (if (t.dev.cmd cid).map (·.ph) = (s.dev.cmd cid).map (·.ph) then .long else .go)
        else .go

/-- The oldest of a list of groups: ages compare modulo 2³² (R151). -/
def oldest : List Grp → Option Grp
  | [] => none
  | g :: r =>
    match oldest r with
    | none => some g
    | some h => if (g.created + 2 ^ 32 - h.created) % 2 ^ 32 < 2 ^ 31 then some h else some g

/-- The youngest of a list of groups. -/
def youngest : List Grp → Option Grp
  | [] => none
  | g :: r =>
    match youngest r with
    | none => some g
    | some h => if (g.created + 2 ^ 32 - h.created) % 2 ^ 32 < 2 ^ 31 then some g else some h

/-- The moves and the issue of one slot, from the state at the start of the cycle: the groups that enter and leave its active
set, and the one that offers an instruction (R153). -/
def slotStep (rd : Grp → Ready) (gs : List Grp) : Option Nat × Option Nat × Option Grp :=
  let act := gs.filter (·.active)
  let pend := oldest (gs.filter (fun g => !g.active && rd g == .go))
  let iss := oldest (act.filter (fun g => decide (g.wait = 0) && rd g == .go))
  if act.length < 12 then (pend.map (·.slot), none, iss)
  else match pend, youngest (act.filter (fun g => rd g == .long)) with
    | some p, some l => (some p.slot, some l.slot, iss)
    | _, _ => (none, none, iss)

/-- The groups of a list, oldest first. -/
def byAge : Nat → List Grp → List Grp
  | 0, _ => []
  | n + 1, gs =>
    match oldest gs with
    | none => []
    | some g => g :: byAge n (gs.filter (fun x => x.slot != g.slot))

/-- The unit that takes one instruction a cycle: 1 matrix, 2 special function, 0 neither (R155). -/
def unitOf (w : Nat) : Nat :=
  let op := wbits w 56 8
  if op = 0xB0 ∨ op = 0xB1 ∨ op = 0xB3 then 1 else if 0x50 ≤ op ∧ op < 0x58 then 2 else 0

/-- The core issues in this cycle: its partition's duty d gives it d evenly spaced cycles of every 16; a free value says where they lie
(R474, log entry 74). -/
def Dev.issues (d : Dev) (no : Nat) (c : Core) : Bool :=
  let duty := d.regN (0x120080 + 4 * (no / 36))
  decide ((c.phase + (Config.free 21 (32 * no + duty)).toNat) * duty % 16 < duty)

/-- CORE_CYCLE (R149, R152 to R155, R474): each slot fills or swaps and then, in a cycle of its duty, issues one instruction of its oldest
ready group; of several for one shared unit the oldest wins. The oldest group goes first, so that its fault is the one named (R168). -/
def execCoreCycle (core : CoreId) (s : State) : Out :=
  let no := coreNo core
  let c := s.dev.core no
  .next (match c.cid with
  | none => s
  | some cid =>
    let ph := (c.phase + 1) % 16
    if c.stall ≠ 0 then s.onDev (fun d => d.setCore no { c with stall := c.stall - 1, phase := ph })
    else
      let rds := c.groups.map (fun g => (g.slot, s.ready core cid g))
      let rd (g : Grp) : Ready := ((rds.find? (fun e => e.1 == g.slot)).map (·.2)).getD .short
      let steps := (List.range 4).map (fun i => slotStep rd (c.groups.filter (fun g => g.issue == i)))
      let ins := steps.filterMap (·.1)
      let outs := steps.filterMap (·.2.1)
      let offers := if s.dev.issues no c then steps.filterMap (·.2.2) else []
      let u (g : Grp) : Nat := unitOf (s.wordOf cid g)
      let wins := offers.filter (fun g =>
        u g == 0 || ((oldest (offers.filter (fun h => u h == u g))).map (·.slot)) == some g.slot)
      let s1 := s.onDev (fun d => d.setCore no { c with phase := ph, groups := c.groups.map (fun g =>
        if ins.contains g.slot then { g with active := true, wait := 1 }
        else if outs.contains g.slot then { g with active := false, wait := g.wait - 1 }
        else { g with wait := g.wait - 1 }) })
      (byAge 4 wins).foldl (fun a g => outState a (runWord (groupAt core g.slot) (s.wordOf cid g) a)) s1)

/-! ### Dispatch (R142, R146, R147, R149, R150, R165, R166) -/

/-- Blocks of a kernel that one core holds (R146); `lb` is the rounded local allocation. -/
def occupancy (regs groups lb cfg acc : Nat) : Nat :=
  let r8 := 8 * cdiv regs 8
  min (min (2048 / r8 / groups) (if lb = 0 then 16 else cfg * 65536 / lb)) (min (64 / groups) (if acc = 0 then 16 else 4 / acc))

/-- Occupancy of a command's kernel. -/
def KRun.occ (r : KRun) : Nat := occupancy r.regs r.groups r.lmem r.cfg r.accN

/-- Free block capacity of a core for a command: none where the core holds another command's blocks, is not active, or is not
yet accepting dispatch (R149, R165, R236). -/
def Dev.capacity (d : Dev) (c : Cmd) (l : Nat) : Nat :=
  let k := d.core (36 * c.part + l)
  if d.mapState c.part l ≠ 0 ∨ d.now < k.readyAt then 0
  else if k.blocks.isEmpty then c.run.occ
  else if k.cid = some c.cid then c.run.occ - k.blocks.length else 0

/-- A tile that its pending wear swap keeps from new blocks while a wear window is open (R241). -/
def State.wearTile (s : State) (p : Nat) : Option Nat :=
  match Sparse.get (fun _ => 0) s.dev.swaps p with
  | 0 => none
  | w + 1 => if s.winOpen 2 then some (w / 64) else none

/-- The core a block goes to: most free capacity, then the lowest logical number (R165); a barred tile takes none. -/
def Dev.dispatchTo (d : Dev) (c : Cmd) (bar : Option Nat) : Option Nat :=
  match argMax (d.capacity c) ((d.activeTiles c.part).filter (fun l => c.cores.contains l && bar != some l)) with
  | some l => if 0 < d.capacity c l then some l else none
  | none => none

/-- The least number that a list lacks. -/
def leastFree (used : List Nat) (n : Nat) : Nat := ((List.range n).find? (fun i => !used.contains i)).getD 0

/-- The uniform registers a group starts with (Table: Group launch state). -/
def launchU (c : Cmd) (lin gi logical : Nat) : Sparse Word :=
  let gx := fieldAt c.desc 44 4
  let gy := fieldAt c.desc 48 2
  let v : List Nat := [lin % 2 ^ 32, lin / 2 ^ 32, lin % gx, lin / gx % gy, lin / (gx * gy), gi, c.run.groups, logical,
    c.run.args % 2 ^ 32, c.run.args / 2 ^ 32, c.run.lmem]
  (v.zip (List.range 11)).foldl (fun m e => Sparse.put (fun _ => 0) m e.2 (BitVec.ofNat 32 e.1)) []

/-- Create the groups of a block: ascending index, each bound to the slot with the fewest groups (R142, R150, R151). -/
def Core.addGroups (c : Core) (cmd : Cmd) (k lin logical : Nat) : Nat → Nat → Core
  | 0, _ => c
  | n + 1, gi =>
    let bound (i : Nat) : Nat := (c.groups.filter (fun g => g.issue == i)).length
    let g : Grp := ⟨leastFree (c.groups.map (·.slot)) 64, k, gi, (argMin bound [0, 1, 2, 3]).getD 0, false, 0, c.create.toNat,
      cmd.run.entry, 0xFFFFFFFF, 0, [], [], launchU cmd lin gi logical, [], [], none, none, none, false, false, false, false, 0, []⟩
    Core.addGroups { c with groups := c.groups ++ [g], create := c.create + 1 } cmd k lin logical n (gi + 1)

/-- BLOCK_DISPATCH: the next block of a running kernel goes to a core; a die in PS4 leaves it (R142, R147, R149, R165, R470). -/
def execBlockDispatch (p : Fin 16) (cid : Nat) (s : State) : Out :=
  .next (s.onDev (fun d =>
    match d.cmd cid with
    | none => d
    | some c =>
      if c.part ≠ p.val ∨ c.op ≠ 4 ∨ c.ph ≠ .running ∨ c.run.total ≤ c.run.next then d
      else match d.dispatchTo c (s.wearTile p.val) with
        | none => d
        | some l =>
          let no := 36 * c.part + l
          let c0 := d.core no
          let first := decide (c0.cid ≠ some cid)
          let split := decide (c0.cfg ≠ c.run.cfg)
          let c1 := if first then { c0 with cid := some cid, mmas := 0, corrected := 0 } else c0
          let c2 := if split then { c1 with cfg := c.run.cfg, l1 := [], stall := 256 } else c1
          let k := leastFree (c2.blocks.map (·.k)) 16
          let c3 := { c2 with blocks := c2.blocks ++ [(⟨c.run.next, k, d.fresh, [], false, false⟩ : Blk)] }
          let c4 := c3.addGroups c k c.run.next (d.mapNum c.part l) c.run.groups 0
          let die := 0x120010 + 4 * (p.val / 4)
          let d1 := d.setReg die (setFld (d.reg die) 24 1 0)
          ({ d1 with fresh := d.fresh + 1 }.setCore no c4).setCmd
            { c with run := { c.run with next := c.run.next + 1 }, chk := { c.chk with cores := c.chk.cores ||| 2 ^ l } }))

/-- BARRIER_RELEASE (R162): the groups of a block whose barrier is complete go on. -/
def execBarrierRelease (core : CoreId) (pos : Fin 16) (s : State) : Out :=
  let no := coreNo core
  .next (s.onDev (fun d =>
    let c := d.core no
    match c.blocks.find? (fun b => b.k == pos.val) with
    | none => d
    | some b =>
      if b.release then
        d.setCore no { (c.setBlk { b with release := false }) with
          groups := c.groups.map (fun g => if g.k = b.k then { g with atBar := false } else g) }
      else d))

end Sys2Proof.Machine
end

