-- ==== Sys2Proof/Machine/Host.lean ====
section
/-! DEFINITION. The host port: functions, host-written records, ring set-up, the buffer table, wakes (R309 to R329, R338 to R353, R444, R569, R570). -/

namespace Sys2Proof.Machine

/-! ### Paths and host events -/

/-- The number of a path. -/
def pathCode (path : Path) : Nat :=
  match path with
  | .pf => 0
  | .svc => 1
  | .vf k => 2 + k.val

/-- The path of a number. -/
def pathOf (n : Nat) : Path := if n = 0 then .pf else if n = 1 then .svc else .vf (Fin.ofNat 16 (n - 2))

/-- A host-link event (R344). -/
def Dev.hostLinkEvent (d : Dev) (k : Clk) (cause aer off : Nat) : Dev :=
  d.raise k pfRing (event k 0x11 0 cause d.hostRate (d.hostWidth % 2 ^ 16) (aer % 2 ^ 32 + off % 2 ^ 32 * 2 ^ 32))

/-- The partitions whose rings a function owns (R313). -/
def Dev.owned (d : Dev) (fn : Nat) : List Nat :=
  if d.vfs then (if fn = 0 then [] else [fn - 1]) else (if fn = 0 then List.range 16 else [])

/-- COMM_BIND of a ring (R447). -/
def Dev.commBind (d : Dev) (r : Nat) : Word := d.reg (0xE4000 + 0x40 * (r / 16) + 4 * (r % 16))

/-- A ring bound to the collective engine whose binding names a group: a communication queue (R444). -/
def Dev.isComm (d : Dev) (r : Nat) : Bool := flag (d.commBind r) 0 && d.srEngine r == 2

/-! ### Host-written records (R320, R321) -/

/-- The sequence number, index and reserved bytes of a record. -/
def recSeq (rec : Bytes) : Word := BitVec.ofNat 32 (fieldAt rec 0 4)
/-- The index of a record. -/
def recIdx (rec : Bytes) : Nat := fieldAt rec 4 2
/-- A record whose copies differ or whose reserved bytes are not 0. -/
def recTorn (rec : Bytes) : Bool := fieldAt rec 0 4 != fieldAt rec 12 4 || !zeroAt rec 6 6

/-- The offset of TORN_CNT of a partition, or of the PF's ring. -/
def tornOff (part : Option Nat) : Nat :=
  match part with
  | some p => 0x40000 + 0x1000 * p + 0xF08
  | none => 0x50F08

/-! ### Overload (R410, R411) -/

/-- Occupancy of a submission ring. -/
def Dev.occupancy (d : Dev) (r : Nat) : Nat :=
  let x := d.sring r
  (x.prod + 2 ^ d.srN r - x.cons) % 2 ^ d.srN r

/-- Enter or leave overload as the occupancy crosses its marks. -/
def Dev.overloadCheck (d : Dev) (k : Clk) (r : Nat) : Dev :=
  let x := d.sring r
  let cap := 2 ^ d.srN r - 1
  let mark := d.reg (ptn (r / 16) + 0x31C)
  let occ := d.occupancy r
  let ev (start : Bool) : Bytes := event k 0x52 (2 * b2n start) (r % 16) (r / 16) (occ % 2 ^ 16 + cap * 2 ^ 16) 0
  if !x.overload && decide (fld mark 8 8 * cap / 256 ≤ occ) then
    (d.setSring r { x with overload := true }).raise k (r / 16) (ev true)
  else if x.overload && decide (occ ≤ fld mark 0 8 * cap / 256) then
    (d.setSring r { x with overload := false }).raise k (r / 16) (ev false)
  else d

/-! ### Fetching (R329, R382) -/

/-- Intake entries of an engine (Table: Intake capacity). -/
def intakeCap (e : Nat) : Nat :=
  match e with
  | 0 => 64
  | 1 => 32
  | 2 => 32
  | 3 => 256
  | _ => 16

/-- Free intake entries of an engine: commands without a written completion and reads in flight hold the others. -/
def Dev.intakeFree (d : Dev) (p e : Nat) : Nat :=
  let held := (d.cmds.filter (fun c => c.part == p && c.kind == .descriptor && d.srEngine (16 * p + c.ring % 16) == e)).length
  let fly := (List.range 16).foldl (fun a k =>
    if d.srEngine (16 * p + k) = e then a + ((d.sring (16 * p + k)).inFetch.map (·.2)).foldl (· + ·) 0 else a) 0
  intakeCap e - held - fly

/-- The next index to fetch of a ring, and how many descriptors stand there unfetched. -/
def Dev.toFetch (d : Dev) (r : Nat) : Nat × Nat :=
  let x := d.sring r
  let n := 2 ^ d.srN r
  let fly := (x.inFetch.map (·.2)).foldl (· + ·) 0
  ((x.cons + fly) % n, (x.prod + n - x.cons) % n - fly)

/-- The rings in the order an engine fetches from them: ascending, after the one it fetched from last (R382). -/
def Dev.fetchOrder (d : Dev) (p e : Nat) : List Nat :=
  let start := match Sparse.get (fun _ => 0) d.lastRing (8 * p + e) with
    | 0 => 0
    | n + 1 => n + 1
  ((List.range 16).map (fun i => 16 * p + (start + i) % 16)).filter (fun r => d.srEngine r == e)

/-- Issue one fetch read of an engine, none where nothing is due or no entry is free (R329). -/
def Dev.fetchOne (d : Dev) (p e : Nat) : Option Dev :=
  let free := d.intakeFree p e
  match (d.fetchOrder p e).find? (fun r => d.srEn r && !(d.sring r).err && decide (0 < (d.toFetch r).2)) with
  | none => none
  | some r =>
    let t := d.toFetch r
    let n := min (min 64 t.2) (min free (2 ^ d.srN r - t.1))
    if n = 0 then none
    else
      let x := d.sring r
      some { d.setSring r { x with inFetch := x.inFetch ++ [(t.1, n)] } with
        lastRing := Sparse.put (fun _ => 0) d.lastRing (8 * p + e) (r % 16 + 1) }

/-- Issue every fetch read that an engine may issue; a ring is read at most 1,024 times 64 over. -/
def Dev.fetchAll : Nat → Dev → Nat → Nat → Dev
  | 0, d, _, _ => d
  | n + 1, d, p, e =>
    match d.fetchOne p e with
    | some d1 => Dev.fetchAll n d1 p e
    | none => d

/-- Fetch for an engine: each read takes an intake entry, so there are at most 256. Nothing is fetched while the partition resets
or the package powers down (R490, R510). -/
def Dev.fetch (d : Dev) (p e : Nat) : Dev := if d.partSt p = 3 ∨ d.kiln.pd ≠ 0 then d else Dev.fetchAll 256 d p e

/-! ### Scans (R326, R327) -/

/-- No wake. -/
def wakeReset : Nat → WakeSt := fun _ => ⟨false, false, false⟩

/-- The wake state of a function. -/
def Dev.wakeOf (d : Dev) (fn : Nat) : WakeSt := Sparse.get wakeReset d.wakes fn

/-- Replace it. -/
def Dev.setWake (d : Dev) (fn : Nat) (w : WakeSt) : Dev := { d with wakes := Sparse.put wakeReset d.wakes fn w }

/-- A write to a wake page: a scan is asked for, one more while a scan runs (R326); the page of a resetting partition's VF is
ignored (R510). -/
def Dev.wake (d : Dev) (fn : Nat) : Dev :=
  let w := d.wakeOf fn
  if !d.ready || (decide (0 < fn) && d.partSt (fn - 1) == 3) then d
  else d.setWake fn (if w.scanning then { w with again := true } else { w with asked := true })

/-- Start the doorbell read of every enabled ring of a partition that has not halted; none while it resets (R510). -/
def Dev.readDoorbells (d : Dev) (p : Nat) : Dev :=
  if d.partSt p = 3 then d else
  (List.range 16).foldl (fun a k =>
    let r := 16 * p + k
    if a.srEn r && !(a.sring r).err then a.setSring r { a.sring r with reading := true } else a) d

/-- The device-produced rings of a partition. -/
def partRings (p : Nat) : List Nat := ((List.range 16).map (fun k => 16 * p + k)) ++ [256 + p, 272 + p, 288 + p, 304 + p]

/-- A ring is enabled, running and full. -/
def Dev.drFull (d : Dev) (r : Nat) : Bool :=
  d.drEn r && !(d.dring r).err && ringFull (d.drN r) (d.dring r).prod (d.dring r).cons

/-- Start the release read of every full ring among some. -/
def Dev.readReleases (d : Dev) (rs : List Nat) : Dev :=
  rs.foldl (fun a r => if a.drFull r then a.setDring r { a.dring r with reading := true } else a) d

/-- The device-produced rings of a function. -/
def Dev.fnRings (d : Dev) (fn : Nat) : List Nat := (d.owned fn).flatMap partRings ++ (if fn = 0 then [320] else [])

/-- Some record read of a function is in flight. -/
def Dev.fnReading (d : Dev) (fn : Nat) : Bool :=
  (d.owned fn).any (fun p => (List.range 16).any (fun k => (d.sring (16 * p + k)).reading)) ||
    (d.fnRings fn).any (fun r => (d.dring r).reading)

/-- A scan ends with its last read; a wake that arrived meanwhile asks for one more. -/
def Dev.scanEnd (d : Dev) (fn : Nat) : Dev :=
  let w := d.wakeOf fn
  if w.scanning && !d.fnReading fn then d.setWake fn ⟨w.again, false, false⟩ else d

/-- The function of a partition's rings. -/
def Dev.scanEndOf (d : Dev) (part : Option Nat) : Dev :=
  match part with
  | some p => d.scanEnd (d.fnOf p)
  | none => d.scanEnd 0

/-- WAKE_WRITE (R326). -/
def execWakeWrite (fn : Fin 17) (s : State) : Out := .next (s.onDev (fun d => d.wake fn.val))

/-- RING_SCAN (R326): a scan that was asked for starts. -/
def execRingScan (fn : Fin 17) (s : State) : Out :=
  .next (s.onDev (fun d =>
    let w := d.wakeOf fn.val
    if w.asked && !w.scanning then
      let d1 := d.setWake fn.val ⟨false, true, w.again⟩
      let d2 := (d1.owned fn.val).foldl Dev.readDoorbells d1
      (d2.readReleases (d2.fnRings fn.val)).scanEnd fn.val
    else d))

/-! ### Record reads (R321, R323, R324, R345) -/

/-- DOORBELL_READ_DONE (R321, R323, R345, R410). -/
def execDoorbellReadDone (p k : Fin 16) (ok : Bool) (rec : Bytes) (s : State) : Out :=
  let r := 16 * p.val + k.val
  .next (s.onDev (fun d =>
    let x := d.sring r
    if !x.reading then d
    else
      let x0 := { x with reading := false }
      let d1 :=
        if !ok then (if x.retry then (d.setSring r x0).srHalt s.clk r 5 0 0 else d.setSring r { x0 with retry := true })
        else if recTorn rec then (d.setSring r { x0 with torn := true, retry := false }).bump (tornOff (some p.val))
        else if recSeq rec = x.lastSeq then d.setSring r { x0 with torn := false, retry := false }
        else
          let n := 2 ^ d.srN r
          let i := recIdx rec
          if n ≤ i ∨ n - 1 - (x.prod + n - x.cons) % n < (i + n - x.prod) % n then
            (d.setSring r x0).srHalt s.clk r 0 i (recSeq rec).toNat
          else
            ((d.setSring r { x0 with prod := i, lastSeq := recSeq rec, torn := false, retry := false }).overloadCheck s.clk r).fetch
              p.val (d.srEngine r)
      d1.scanEndOf (some p.val)))

/-- RELEASE_READ_DONE (R321, R324, R345). -/
def execReleaseReadDone (ring : DevRing) (ok : Bool) (rec : Bytes) (s : State) : Out :=
  let r := devRingNo ring
  .next (s.onDev (fun d =>
    let x := d.dring r
    if !x.reading then d
    else
      let x0 := { x with reading := false }
      let d1 :=
        if !ok then (if x.retry then (d.setDring r x0).drHalt s.clk r 5 0 0 else d.setDring r { x0 with retry := true })
        else if recTorn rec then (d.setDring r { x0 with torn := true, retry := false }).bump (tornOff (ringPart r))
        else if recSeq rec = x.lastSeq then d.setDring r { x0 with torn := false, retry := false }
        else
          let n := 2 ^ d.drN r
          let i := recIdx rec
          if n ≤ i ∨ (x.prod + n - x.cons) % n < (i + n - x.cons) % n then
            (d.setDring r x0).drHalt s.clk r 1 i (recSeq rec).toNat
          else d.setDring r { x0 with cons := i, lastSeq := recSeq rec, torn := false, retry := false }
      d1.scanEndOf (ringPart r)))

/-- RECORD_READ_TIMEOUT (R345): retried once at the next scan, then the ring halts with cause 4. -/
def execRecordReadTimeout (ring : RingId) (s : State) : Out :=
  .next (s.onDev (fun d =>
    match ring with
    | .sub p k =>
      let r := 16 * p.val + k.val
      let x := d.sring r
      if !x.reading then d
      else
        let x0 := { x with reading := false }
        (if x.retry then (d.setSring r x0).srHalt s.clk r 4 0 0 else d.setSring r { x0 with retry := true }).scanEndOf (some p.val)
    | .dev q =>
      let r := devRingNo q
      let x := d.dring r
      if !x.reading then d
      else
        let x0 := { x with reading := false }
        (if x.retry then (d.setDring r x0).drHalt s.clk r 4 0 0 else d.setDring r { x0 with retry := true }).scanEndOf (ringPart r)))

/-! ### Ring set-up (R322, R350, R352, R109) -/

/-- An EN write waits for its record read on the slot of a submission ring or of its completion ring. -/
def Dev.slotPending (d : Dev) (p slot : Nat) : Bool :=
  if slot < 16 then (d.sring (16 * p + slot)).enPend.isSome || (d.dring (16 * p + slot)).enPend.isSome
  else (d.dring (256 + 16 * (slot - 16) + p)).enPend.isSome

/-- An EN write waits on the slot of a device-produced ring. -/
def Dev.drPending (d : Dev) (r : Nat) : Bool :=
  if r < 256 then d.slotPending (r / 16) (r % 16) else (d.dring r).enPend.isSome

/-- [a, a + n) is host memory up to 2⁶⁴ (R352). -/
def hostRange (a n : Nat) : Bool := isHost a && decide (a + n ≤ 2 ^ 64)

/-- A descriptor of the ring is in fetch, or a fetched one has not completed (R352). -/
def Dev.ringBusy (d : Dev) (r : Nat) : Bool :=
  !(d.sring r).inFetch.isEmpty || d.cmds.any (fun c => c.kind == .descriptor && c.part == r / 16 && c.ring % 16 == r % 16)

/-- A write to SQ_CFG (R322, R352, R444). -/
def Dev.sqCfgWrite (d : Dev) (path : Path) (r : Nat) (v : Word) : Dev :=
  let m := srOff r + 0x08
  let cur := d.reg m
  let en := flag cur 8
  let set := flag v 8
  let rule := regRule m
  let same := decide (fld cur 0 5 = fld v 0 5) && decide (fld cur 12 4 = fld v 12 4)
  let comm := flag (d.commBind r) 0 && decide (fld v 12 4 = 2)
  let lock := d.slotPending (r / 16) (r % 16) || (en && !same) || (en && !set && d.ringBusy r) ||
    (!en && set && comm && decide (d.allocFree (r / 16) < 4))
  let addrs := hostRange (d.reg64 (srOff r)) (64 * 2 ^ fld v 0 5) && hostRange (d.reg64 (srOff r + 0x10)) 16 &&
    hostRange (d.reg64 (srOff r + 0x18)) 16
  let range := !inLims rule.lims v || (!en && set && !addrs)
  d.guard path m (firstCause [(lock, 2), (range, 1)])
    (if !en && set then d.setSring r { d.sring r with enPend := some (pathCode path, m, v) }
     else
       let d1 := d.setReg m (v &&& BitVec.ofNat 32 rule.mask)
       if en && !set then
         let d2 := d1.setSring r { d1.sring r with reading := false, torn := false, retry := false, overload := false }
         if d.isComm r then
          let d3 := (d2.allocGive (r / 16) 4).allocGive 16 (Sparse.get (fun _ => 0) d2.net.commFrames r)
          { d3 with net := { d3.net with commFrames := Sparse.drop d3.net.commFrames r } }
        else d2
       else d1)

/-- SQ_ENABLE (R322, R352). -/
def execSqEnable (path : Path) (p k : Fin 16) (v : Word) (s : State) : Out :=
  let r := 16 * p.val + k.val
  .next (s.onDev (fun d => d.onWrite path (srOff r + 0x08) (d.sqCfgWrite path r v)))

/-- SQ_DISABLE (R352). -/
def execSqDisable (path : Path) (p k : Fin 16) (v : Word) (s : State) : Out :=
  let r := 16 * p.val + k.val
  .next (s.onDev (fun d => d.onWrite path (srOff r + 0x08) (d.sqCfgWrite path r v)))

/-- Entries of a device-produced ring that wait to be written: events in their queue, seals signed, or entries queued. -/
def Dev.drWaiting (d : Dev) (r : Nat) : Bool :=
  if 272 ≤ r ∧ r < 288 then !(d.evQ (r - 272)).q.isEmpty || !(d.evQ (r - 272)).src.isEmpty
  else if r = 320 then !(d.evQ pfRing).q.isEmpty || !(d.evQ pfRing).src.isEmpty
  else if isSealRing r then !(d.chain (r - 304)).signed.isEmpty
  else !(d.dring r).wait.isEmpty

/-- A write to DR_CFG or SEAL_CTRL (R109, R322, R324, R352). -/
def Dev.drCfgWrite (d : Dev) (path : Path) (r : Nat) (v : Word) : Dev :=
  let m := drCfgOff r
  let bit := if isSealRing r then 0 else 8
  let cur := d.reg m
  let en := flag cur bit
  let set := flag v bit
  let rule := regRule m
  let n := if isSealRing r then d.drN r else fld v 0 5
  let lock := d.drPending r || (en && !isSealRing r && decide (fld cur 0 5 ≠ fld v 0 5)) ||
    (en && !set && d.drWaiting r && !(d.dring r).err)
  let addrs := hostRange (d.drAddr r) (drEntry r * 2 ^ n) && hostRange (d.drRel r) 16
  let range := !inLims rule.lims v || decide (vectors (d.ringFn r) ≤ fld v 16 11) || (!en && set && !addrs)
  d.guard path m (firstCause [(lock, 2), (range, 1)])
    (if !en && set then d.setDring r { d.dring r with enPend := some (pathCode path, m, v) }
     else
       let d1 := d.setReg m (v &&& BitVec.ofNat 32 rule.mask)
       if en && !set then d1.setDring r { d1.dring r with reading := false, torn := false, retry := false } else d1)

/-- DR_ENABLE (R322, R352). -/
def execDrEnable (path : Path) (ring : DevRing) (v : Word) (s : State) : Out :=
  let r := devRingNo ring
  .next (s.onDev (fun d => d.onWrite path (drCfgOff r) (d.drCfgWrite path r v)))

/-- DR_DISABLE (R324, R352). -/
def execDrDisable (path : Path) (ring : DevRing) (v : Word) (s : State) : Out :=
  let r := devRingNo ring
  .next (s.onDev (fun d => d.onWrite path (drCfgOff r) (d.drCfgWrite path r v)))

/-- SEAL_RING_ENABLE (R98, R109, R322). -/
def execSealRingEnable (path : Path) (p : Fin 16) (v : Word) (s : State) : Out :=
  .next (s.onDev (fun d => d.onWrite path (drCfgOff (304 + p.val)) (d.drCfgWrite path (304 + p.val) v)))

/-- SEAL_RING_DISABLE (R98, R109, R324). -/
def execSealRingDisable (path : Path) (p : Fin 16) (v : Word) (s : State) : Out :=
  .next (s.onDev (fun d => d.onWrite path (drCfgOff (304 + p.val)) (d.drCfgWrite path (304 + p.val) v)))

/-- An EN write of a submission ring is decided (R322). -/
def Dev.sqDecide (d : Dev) (r : Nat) (rec : Option Bytes) : Dev :=
  let x := d.sring r
  match x.enPend with
  | none => d
  | some (pc, m, v) =>
    let d0 := d.setSring r { x with enPend := none }
    match rec with
    | some b =>
      let d1 := (d0.setReg m (v &&& BitVec.ofNat 32 (regRule m).mask)).setSring r { srReset r with lastSeq := recSeq b }
      if recTorn b || decide (recIdx b ≠ 0) || (d1.isComm r && decide (d.allocFree (r / 16) < 4)) then d0.refuse (pathOf pc) m 2
      else if d1.isComm r then d1.allocTake (r / 16) 4
      else d1
    | none => d0.refuse (pathOf pc) m 2

/-- An EN write of a device-produced ring is decided; entries that waited stay (R322, R324, R338). -/
def Dev.drDecide (d : Dev) (r : Nat) (rec : Option Bytes) : Dev :=
  let x := d.dring r
  match x.enPend with
  | none => d
  | some (pc, m, v) =>
    let d0 := d.setDring r { x with enPend := none }
    match rec with
    | some b =>
      if recTorn b || decide (recIdx b ≠ 0) then d0.refuse (pathOf pc) m 2
      else (d0.setReg m (v &&& BitVec.ofNat 32 (regRule m).mask)).setDring r { drReset r with lastSeq := recSeq b, wait := x.wait }
    | none => d0.refuse (pathOf pc) m 2

/-- The decision of a ring's EN write. -/
def Dev.enDecide (d : Dev) (ring : RingId) (rec : Option Bytes) : Dev :=
  match ring with
  | .sub p k => d.sqDecide (16 * p.val + k.val) rec
  | .dev q => d.drDecide (devRingNo q) rec

/-- RING_ENABLE_READ_DONE (R322). -/
def execRingEnableReadDone (ring : RingId) (ok : Bool) (rec : Bytes) (s : State) : Out :=
  .next (s.onDev (fun d => d.enDecide ring (if ok then some rec else none)))

/-- RING_ENABLE_READ_TIMEOUT (R322). -/
def execRingEnableReadTimeout (ring : RingId) (s : State) : Out := .next (s.onDev (fun d => d.enDecide ring none))

/-! ### The buffer table (R346 to R349, R353, R570) -/

/-- The offset of a partition's BUF page. -/
def bufOff (p : Nat) : Nat := 0x60000 + 0x2000 * p

/-- A command of the partition holds the handle (R348). -/
def Dev.handleBusy (d : Dev) (p h : Nat) : Bool := d.cmds.any (fun c => c.part == p && c.handles.contains h)

/-- The 32 bytes staged on a path. -/
def Dev.bufStage (d : Dev) (path : Path) (p : Nat) : Bytes :=
  (List.range 8).flatMap (fun i => le 4 (d.regN (pathKey path (bufOff p + 0x10 + 4 * i))))

/-- The handle selected on a path. -/
def Dev.bufSel (d : Dev) (path : Path) (p : Nat) : Nat := fld (d.reg (pathKey path (bufOff p))) 0 12

/-- [b, b + n) lies wholly within a sealed region in one of the states. -/
def Dev.inRegion (d : Dev) (sts : List Nat) (b n : Nat) : Option Nat :=
  (List.range 64).find? (fun r => sts.contains (d.rgnSt r) && decide (d.rgnBase r ≤ b) && decide (b + n ≤ d.rgnBase r + 4096 * d.rgnPages r))

/-- The device window of a partition (R568, R569). -/
def Dev.window (d : Dev) (p : Nat) : Nat × Nat := (d.reg64 (ptn p + 0x40), d.reg64 (ptn p + 0x48))

/-- What a VF's path may name in a buffer entry (R570). -/
def Dev.vfMayName (d : Dev) (p : Nat) (e : BufEnt) : Bool :=
  let w := d.window p
  isHost e.base || (decide (w.1 ≤ e.base) && decide (e.base + e.len ≤ w.1 + w.2)) ||
    (e.sealed && (List.range 64).any (fun r => bitAt (d.reg64 (ptn p + 0x50)) r && decide (d.rgnBase r ≤ e.base) &&
      decide (e.base + e.len ≤ d.rgnBase r + 4096 * d.rgnPages r)))

/-- BUF_RESULT of a write: the first check of R347 that fails, 0 if none. -/
def Dev.bufCheck (d : Dev) (path : Path) (p h : Nat) (bs : Bytes) : Nat :=
  let e := bufOfBytes bs
  let vf := match path with
    | .vf _ => true
    | _ => false
  if d.handleBusy p h then 1
  else if fieldAt bs 13 3 ≠ 0 ∨ bitsAt (fieldAt bs 16 1) 5 3 ≠ 0 ∨ zeroAt bs 17 15 = false then 2
  else if e.base % 128 ≠ 0 ∨ e.len = 0 ∨ e.len = 2 ^ 40 - 1 then 3
  else if !d.inOneRange e.base e.len then 4
  else if (e.sealed && !e.ro) || (isHost e.base && (e.sealed || e.narrow || e.near)) then 5
  else if e.near && !(decide (nearBase (p / 4) ≤ e.base) && decide (e.base + e.len ≤ nearBase (p / 4) + gib * d.nearGib)) then 6
  else if e.sealed && (d.inRegion [2, 3] e.base e.len).isNone then 7
  else if vf && !d.vfMayName p e then 4
  else 0

/-- The refusal cause that a BUF_RESULT stands for (R573). -/
def bufCause (r : Nat) : Nat := if r = 1 ∨ r = 7 then 2 else if r = 2 ∨ r = 3 then 1 else 4

/-- The outcome of a BUF_CMD on its path: BUF_RESULT, and a refusal captured (R349, R572). -/
def Dev.bufResult (d : Dev) (path : Path) (p r : Nat) (go : Dev) : Dev :=
  let key := pathKey path (bufOff p + 8)
  if r = 0 then go.setRegN key 0 else (d.setRegN key r).refuse path (bufOff p + 4) (bufCause r)

/-- A BUF_CMD that arrives while the partition resets reads busy (R511). -/
def Dev.bufCmd (d : Dev) (path : Path) (p : Nat) (go : Dev) : Dev :=
  if reaches d path (bufOff p + 4) && d.responds path (bufOff p + 4) && d.pageLocked (bufOff p + 4) then d.bufResult path p 1 d
  else d.onWrite path (bufOff p + 4) go

/-- BUF_CMD code 1: the staged entry is checked and written (R347). -/
def Dev.bufWrite (d : Dev) (path : Path) (p : Nat) : Dev :=
  let h := d.bufSel path p
  let bs := d.bufStage path p
  d.bufCmd path p (d.bufResult path p (d.bufCheck path p h bs) (d.setBuf p h (bufOfBytes bs)))

/-- BUF_CMD code 2: the entry becomes invalid unless its handle is busy (R347, R348). -/
def Dev.bufInvalidate (d : Dev) (path : Path) (p : Nat) : Dev :=
  let h := d.bufSel path p
  d.bufCmd path p (d.bufResult path p (b2n (d.handleBusy p h)) (d.setBuf p h { d.buf p h with valid := false }))

/-- BUF_CMD code 3: the entry is read into staging (R353). -/
def Dev.bufRead (d : Dev) (path : Path) (p : Nat) : Dev :=
  let bs := bufToBytes (d.buf p (d.bufSel path p))
  d.bufCmd path p (d.bufResult path p 0
    ((List.range 8).foldl (fun a i => a.setRegN (pathKey path (bufOff p + 0x10 + 4 * i)) (fieldAt bs (4 * i) 4)) d))

/-- BUF_WRITE (R347). -/
def execBufWrite (path : Path) (p : Fin 16) (s : State) : Out := .next (s.onDev (fun d => d.bufWrite path p.val))

/-- BUF_INVALIDATE (R347, R348). -/
def execBufInvalidate (path : Path) (p : Fin 16) (s : State) : Out := .next (s.onDev (fun d => d.bufInvalidate path p.val))

/-- BUF_READ (R353). -/
def execBufRead (path : Path) (p : Fin 16) (s : State) : Out := .next (s.onDev (fun d => d.bufRead path p.val))

/-! ### Functions and the link (R309 to R317, R344) -/

/-- NUMVFS_WRITE (R313). -/
def execNumvfsWrite (v : Nat) (s : State) : Out :=
  .next (s.onDev (fun d => if d.anyLive then d else { d with vfs := decide (v = 16) }))

/-- UNSUPPORTED_REQUEST (R310): the request completes with Unsupported Request, and returns nothing. -/
def execUnsupportedRequest (s : State) : Out := .next (s.onDev (fun d => d.answer []))

/-- The function whose wake page an offset of a path's BAR0 lies in (R315, R326, R564). -/
def wakePage (path : Path) (off : Nat) : Option Nat :=
  match path with
  | .pf => if 0x180000 ≤ off ∧ off < 0x191000 then some ((off - 0x180000) / 0x1000) else none
  | .vf k => if 0x4000 ≤ off ∧ off < 0x5000 then some (k.val + 1) else none
  | .svc => none

/-- The MSI-X table or pending-bit array, which follow the PCI Express base specification (R314, R316). -/
def msixArea (path : Path) (off : Nat) : Bool :=
  match path with
  | .pf => (decide (0xF00000 ≤ off) && decide (off < 0xF04000)) || (decide (0xF80000 ≤ off) && decide (off < 0xF80080))
  | .vf _ => (decide (0x6000 ≤ off) && decide (off < 0x6400)) || (decide (0x7000 ≤ off) && decide (off < 0x7008))
  | .svc => true

/-- BAR_ACCESS_MISALIGNED (R316, R326). -/
def execBarAccessMisaligned (path : Path) (off : Nat) (isRead : Bool) (s : State) : Out :=
  .next (s.onDev (fun d =>
    match wakePage path off with
    | some fn => if isRead then d.answer [0] else d.wake fn
    | none =>
      if msixArea path off then d
      else if isRead then d.answer []
      else d.hostLinkEvent s.clk 2 0 off))

/-- HOST_LINK_RATE_CHANGE (R344). -/
def execHostLinkRateChange (rate : BitVec 3) (width : BitVec 16) (s : State) : Out :=
  .next (s.onDev (fun d => ({ d with hostRate := rate.toNat, hostWidth := width.toNat } : Dev).hostLinkEvent s.clk 0 0 0))

/-- AER_UNCORRECTABLE_LOGGED (R344). -/
def execAerUncorrectableLogged (status : Word) (s : State) : Out :=
  .next (s.onDev (fun d => d.hostLinkEvent s.clk 1 status.toNat 0))

/-- A write to TALLY_HI: the selected tally takes the low word staged on the path and the new high word (R373). -/
def Dev.tallyHi (d : Dev) (path : Path) (p : Nat) (v : Word) : Dev :=
  let m := ptn p + 0x108
  d.onWrite path m (d.guard path m (firstCause [(d.live p, 2)])
    (d.setTally p (fld (d.reg (ptn p + 0x100)) 0 12) (d.regN (pathKey path (ptn p + 0x104)) + v.toNat * 2 ^ 32)))

/-- TALLY_HI_WRITE (R373). -/
def execTallyHiWrite (path : Path) (p : Fin 16) (v : Word) (s : State) : Out := .next (s.onDev (fun d => d.tallyHi path p.val v))

end Sys2Proof.Machine
end

