-- ==== Sys2Proof/Machine/Validate.lean ====
section
/-! DEFINITION. Validation of descriptors and list entries before any side effect (R8, R54, R143 to R147, R330 to R337, R356 to R368, R400 to R403, R429 to R433, R448 to R457). -/

namespace Sys2Proof.Machine

/-! ### Failures and findings -/

/-- What validation reads: the device, its memory, what host reads returned, the partition and the ring. -/
structure Look where
  d : Dev
  m : Sparse Byte
  host : HostData
  part : Nat
  ring : Nat
  deriving DecidableEq, Repr

/-- What validation finds: failures (code, byte), ranges, the kernel's run, whether the command is a no-op. -/
structure Found where
  bad : List (Nat × Nat)
  ins : List Range
  outs : List Range
  run : KRun
  zero : Bool
  deriving DecidableEq, Repr

/-- No kernel. -/
def runNone : KRun := ⟨0, 0, 0, 0, 0, 0, 0, 0, 0, 0, 0, 0, false⟩

/-- Failures that hold of a list of conditions. -/
def badIf (l : List (Bool × Nat × Nat)) : List (Nat × Nat) := (l.filter (·.1)).map (·.2)

/-- The failure that is reported: the least code, then the least byte (R335). -/
def firstBad : List (Nat × Nat) → Option (Nat × Nat)
  | [] => none
  | x :: r =>
    match firstBad r with
    | none => some x
    | some y => some (if x.1 < y.1 ∨ (x.1 = y.1 ∧ x.2 ≤ y.2) then x else y)

/-- A range under a handle field: failures and the range (R335, R337, R356). -/
def Look.range (k : Look) (field role off len hb ob : Nat) : List (Nat × Nat) × List Range :=
  let h := field % 4096
  let e := k.d.buf k.part h
  let fits := decide (off + len ≤ e.len) && decide (e.base + off + len ≤ 2 ^ 64)
  (badIf [(decide (4096 ≤ field), 4, hb), (!e.valid, 6, hb), (e.valid && decide (role = 1) && (e.ro || e.sealed), 7, hb),
          (e.valid && !fits, 9, ob)],
   if e.valid && fits then [⟨h, role, off, len, e.base + off⟩] else [])

/-- Two ranges share a byte. -/
def Range.meets (a b : Range) : Bool :=
  decide (0 < a.len) && decide (0 < b.len) && decide (a.addr < b.addr + b.len) && decide (b.addr < a.addr + a.len)

/-- The overlap rule (R365), the handles of `free` exempt (R402). -/
def overlapBad (free : List Nat) (ins outs : List Range) (byte : Nat) : List (Nat × Nat) :=
  if outs.any (fun o => !free.contains o.handle && ins.any (fun i => !free.contains i.handle && o.meets i)) then [(0xB, byte)] else []

/-- A value all ones in a field of `n` bits. -/
def allOnes (n v : Nat) : Bool := decide (v = 2 ^ n - 1)

/-- Reserved byte runs of a body that are not 0: code 4 at the run's first byte. -/
def resBad (ds : Bytes) (runs : List (Nat × Nat)) : List (Nat × Nat) := (runs.filter (fun r => !zeroAt ds r.1 r.2)).map (fun r => (4, r.1))

/-! ### Copies, fills and lists -/

/-- COPY (R357, R358). -/
def Look.copy (k : Look) (ds : Bytes) : Found :=
  let n := fieldAt ds 46 5
  let a := k.range (fieldAt ds 32 2) 0 (fieldAt ds 36 5) n 32 36
  let b := k.range (fieldAt ds 34 2) 1 (fieldAt ds 41 5) n 34 41
  ⟨resBad ds [(51, 5)] ++ badIf [(allOnes 40 n, 8, 46)] ++ a.1 ++ b.1 ++ overlapBad [] a.2 b.2 34, a.2, b.2, runNone, decide (n = 0)⟩

/-- FILL (R357, R358). -/
def Look.fill (k : Look) (ds : Bytes) : Found :=
  let n := fieldAt ds 45 5
  let b := k.range (fieldAt ds 32 2) 1 (fieldAt ds 40 5) n 32 40
  ⟨resBad ds [(34, 2), (50, 6)] ++ badIf [(allOnes 40 n, 8, 45)] ++ b.1, [], b.2, runNone, decide (n = 0)⟩

/-- RUN_LIST (R357, R358). -/
def Look.runList (k : Look) (ds : Bytes) : Found :=
  let n := fieldAt ds 36 4
  let off := fieldAt ds 40 5
  let a := k.range (fieldAt ds 32 2) 0 off (32 * n) 32 40
  ⟨resBad ds [(34, 2), (45, 11)] ++
    badIf [(allOnes 32 n, 8, 36), (decide (65536 < n) && !allOnes 32 n, 0xA, 36), (decide (off % 32 ≠ 0), 0xA, 40)] ++ a.1,
   a.2, [], runNone, decide (n = 0)⟩

/-! ### Kernels (R143 to R147, R362 to R364) -/

/-- The declared values of an image header with their widths and limits: an all-ones value is code 8, another value out of
its range code 0xA (R143, R358, R363). -/
def headerLims (h : Bytes) : List (Nat × Nat × Nat × Nat) :=
  [(16, fieldAt h 6 2, 1, 255), (16, fieldAt h 8 2, 1, 32), (32, fieldAt h 12 4, 0, 327680), (8, fieldAt h 16 1, 0, 5),
   (8, fieldAt h 17 1, 0, 4), (32, fieldAt h 24 4, 8, 16777216), (32, fieldAt h 28 4, 0, 65536)]

/-- A value within its limits. -/
def limOk (x : Nat × Nat × Nat × Nat) : Bool := !allOnes x.1 x.2.1 && decide (x.2.2.1 ≤ x.2.1) && decide (x.2.1 ≤ x.2.2.2)

/-- Local memory of a block: LOCAL rounded up to 1,024 (R146). -/
def localBytes (h : Bytes) : Nat := 1024 * cdiv (fieldAt h 12 4) 1024

/-- Occupancy of an image header (R146). -/
def headerOcc (h : Bytes) : Nat := occupancy (fieldAt h 6 2) (fieldAt h 8 2) (localBytes h) (fieldAt h 16 1) (fieldAt h 17 1)

/-- The failures of an image header, all at byte 32 (R143, R144, R363, R364). -/
def headerBad (h : Bytes) : List (Nat × Nat) :=
  let ls := headerLims h
  badIf [(sub h 0 4 != [0x55, 0x4C, 0x4B, 0x31], 4, 32), (decide (fieldAt h 4 2 ≠ 1), 4, 32), (!zeroAt h 10 2, 4, 32),
    (decide (fieldAt h 18 2 / 2 ≠ 0), 4, 32), (!zeroAt h 32 32, 4, 32)] ++
  badIf (ls.map (fun x => (allOnes x.1 x.2.1, 8, 32))) ++ badIf (ls.map (fun x => (!limOk x, 0xA, 32))) ++
  badIf [(decide (fieldAt h 24 4 % 8 ≠ 0), 0xA, 32), (decide (fieldAt h 20 4 % 8 ≠ 0), 0xA, 32),
    (decide (fieldAt h 24 4 ≤ fieldAt h 20 4), 0xA, 32), (ls.all limOk && decide (headerOcc h = 0), 0xA, 32)]

/-- One entry of the range table, its failures at byte 34 (R362, R364). -/
def Look.rangeEntry (k : Look) (e : Bytes) : List (Nat × Nat) × List Range :=
  let w := fieldAt e 0 2
  let n := fieldAt e 8 8
  let role := bitsAt w 12 2
  if 1 < role ∨ bitsAt w 14 2 ≠ 0 then ([(4, 34)], [])
  else
    let r := k.range (w % 4096) role (fieldAt e 2 6) n 34 34
    (badIf [(allOnes 64 n, 8, 34)] ++ r.1, r.2)

/-- KERNEL (R357 to R359, R362 to R365). -/
def Look.kernel (k : Look) (free : List Nat) (ds : Bytes) : Found :=
  let gx := fieldAt ds 44 4
  let gy := fieldAt ds 48 2
  let gz := fieldAt ds 50 2
  let rc := fieldAt ds 52 1
  let cn := fieldAt ds 53 1
  let io := 256 * fieldAt ds 36 4
  let ao := 256 * fieldAt ds 40 4
  let ie := k.d.buf k.part (fieldAt ds 32 2 % 4096)
  let ae := k.d.buf k.part (fieldAt ds 34 2 % 4096)
  let fields := resBad ds [(54, 2)] ++
    badIf [(allOnes 32 gx, 8, 44), (allOnes 16 gy, 8, 48), (allOnes 16 gz, 8, 50), (allOnes 8 rc, 8, 52),
      (decide (64 < rc) && !allOnes 8 rc, 0xA, 52), (allOnes 8 cn, 8, 53),
      ((decide (cn = 0) || decide (32 < cn)) && !allOnes 8 cn, 0xA, 53),
      (ie.valid && isHost ie.base, 7, 32), (ae.valid && isHost ae.base, 7, 34)]
  let head := k.range (fieldAt ds 32 2) 2 io 64 32 36
  let readable := !head.2.isEmpty && !isHost ie.base
  let h := if readable then readMem k.m (ie.base + io) 64 else zeros 64
  let clen := fieldAt h 24 4
  let img := if readable then k.range (fieldAt ds 32 2) 2 io (64 + clen) 32 36 else head
  let alen := 16 * rc + fieldAt h 28 4
  let arg := k.range (fieldAt ds 34 2) 0 ao alen 34 40
  let table := if !arg.2.isEmpty && !isHost ae.base && decide (rc ≤ 64) then
      (List.range rc).map (fun i => k.rangeEntry (readMem k.m (ae.base + ao + 16 * i) 16)) else []
  let decl := table.flatMap (·.2)
  let ins := img.2 ++ arg.2 ++ decl.filter (fun r => r.role == 0)
  let outs := decl.filter (fun r => r.role == 1)
  let run : KRun := ⟨gx * gy * gz, 0, 0, fieldAt h 6 2, fieldAt h 8 2, localBytes h, fieldAt h 16 1, fieldAt h 17 1,
    ie.base + io + 64, clen, fieldAt h 20 4, ae.base + ao, bitAt (fieldAt h 18 2) 0⟩
  ⟨fields ++ img.1 ++ (if readable then headerBad h else []) ++ arg.1 ++ table.flatMap (·.1) ++ overlapBad free ins outs 34,
   ins, outs, run, decide (gx * gy * gz = 0)⟩

/-! ### Groups of a collective (R429 to R433) -/

/-- The key of a collective's group: its index, 256 on for axis mode. -/
def groupKey (ds : Bytes) : Nat := fieldAt ds 36 1 + 256 * (fieldAt ds 37 1 % 2)

/-- The bytes of an element of a collective or tensor format. -/
def elemBytes (fmt : Nat) : Nat := fmtBits fmt / 8

/-- COLLECTIVE (R357, R358, R433, R444). -/
def Look.collective (k : Look) (ds : Bytes) : Found :=
  let fmt := fieldAt ds 38 1 % 16
  let rm := bitsAt (fieldAt ds 38 1) 4 3
  let n := fieldAt ds 50 5
  let len := n * elemBytes fmt
  let key := groupKey ds
  let axis := bitAt (fieldAt ds 37 1) 0
  let out := axis && decide (64 ≤ fieldAt ds 36 1)
  let e := k.d.group key
  let ms := k.d.membersOf key
  let bind := k.d.commBind k.ring
  let a := k.range (fieldAt ds 32 2) 0 (fieldAt ds 40 5) len 32 40
  let b := k.range (fieldAt ds 34 2) 1 (fieldAt ds 45 5) len 34 45
  ⟨resBad ds [(39, 1), (55, 1)] ++
    badIf [(k.d.isComm k.ring && (decide (fld bind 8 8 ≠ fieldAt ds 36 1) || flag bind 1 != axis), 2, 36),
      (decide (1 < fieldAt ds 37 1), 4, 37), (decide (128 ≤ fieldAt ds 38 1), 4, 38), (!([3, 4, 5, 6, 7, 8, 9].contains fmt), 4, 38),
      (decide (5 ≤ rm), 4, 38), ((decide (fmt = 3) || decide (fmt = 9)) && decide (rm ≠ 0), 4, 38),
      (!out && (!e.valid || !ms.contains (16 * k.d.pkgId + k.part) || ms.any (fun c => !k.d.onRoster (c / 16))), 6, 36),
      (allOnes 40 n, 8, 50), (out, 0xA, 36)] ++ a.1 ++ b.1 ++ overlapBad [] a.2 b.2 34,
   a.2, b.2, runNone, decide (n = 0)⟩

/-! ### Layer lists (R448 to R457) -/

/-- A layer entry as the list gives it. -/
structure LayerEnt where
  handle : Nat
  fmt : Nat
  conv : Nat
  mode : Nat
  alpha : Nat
  sw : Nat
  sh : Nat
  stride : Nat
  off : Nat
  cx : Nat
  cy : Nat
  cw : Nat
  ch : Nat
  dx : Int
  dy : Int
  dw : Nat
  dh : Nat
  fill : List Nat
  deriving DecidableEq, Repr

/-- A signed 16-bit field. -/
def i16At (bs : Bytes) (off : Nat) : Int := intOf 16 (fieldAt bs off 2)

/-- The layer of a 64-byte entry (Table: Layer entry). -/
def layerOf (e : Bytes) : LayerEnt :=
  ⟨fieldAt e 0 2, fieldAt e 2 1 % 16, fieldAt e 2 1 / 16, fieldAt e 3 1 % 4, fieldAt e 4 1, fieldAt e 6 2, fieldAt e 8 2,
   fieldAt e 10 4, fieldAt e 14 5, fieldAt e 20 2, fieldAt e 22 2, fieldAt e 24 2, fieldAt e 26 2, i16At e 28, i16At e 30,
   fieldAt e 32 2, fieldAt e 34 2, [fieldAt e 36 1, fieldAt e 37 1, fieldAt e 38 1]⟩

/-- The bytes of one row of a source (R450). -/
def LayerEnt.rowBytes (l : LayerEnt) : Nat :=
  match l.fmt with
  | 0 => 4 * l.sw
  | 1 => 3 * l.sw
  | 2 => 4 * l.sw
  | 5 => 2 * l.sw
  | _ => l.sw

/-- The bytes of a source's range (R450). -/
def LayerEnt.srcLen (l : LayerEnt) : Nat := if l.fmt = 4 then l.stride * (l.sh + l.sh / 2) else l.stride * l.sh

/-- The constraints of a pixel format (Table: Pixel formats). -/
def LayerEnt.fmtBad (l : LayerEnt) : Bool :=
  if l.fmt = 4 then
    decide (l.conv = 0) || decide (4 < l.conv) || [l.sw, l.sh, l.cx, l.cy, l.cw, l.ch].any (fun x => x % 2 == 1)
  else if l.fmt = 5 then decide (l.conv = 0) || decide (4 < l.conv) || [l.sw, l.cx, l.cw].any (fun x => x % 2 == 1)
  else decide (l.conv ≠ 0)

/-- The lines that the vertical filter needs, and those that the line memory holds (R454). -/
def LayerEnt.lines (l : LayerEnt) : Nat × Nat := (cdiv l.ch l.dh + 5, if l.cw ≤ 4096 then 16 else 8)

/-- The failures of a layer entry, at byte 32, and its source range (R448 to R454). -/
def Look.layer (k : Look) (zero : Bool) (e : Bytes) : List (Nat × Nat) × List Range :=
  let l := layerOf e
  let r := k.range l.handle 0 l.off (if zero then 0 else l.srcLen) 32 32
  (badIf [(decide (4 ≤ fieldAt e 3 1), 4, 32), (!zeroAt e 5 1, 4, 32), (!zeroAt e 19 1, 4, 32), (!zeroAt e 39 25, 4, 32),
      (decide (6 < l.fmt), 4, 32), (decide (4 < l.conv), 4, 32),
      ([l.sw, l.sh, l.cw, l.ch, l.dw, l.dh].any (allOnes 16) || allOnes 32 l.stride, 8, 32),
      (decide (l.sw = 0) || decide (16384 < l.sw) || decide (l.sh = 0) || decide (16384 < l.sh), 0xA, 32),
      (decide (l.stride < l.rowBytes), 0xA, 32), (decide (l.sw < l.cx + l.cw) || decide (l.sh < l.cy + l.ch), 0xA, 32),
      (decide (l.dw = 0) || decide (l.dh = 0), 0xA, 32),
      (decide (l.cw < l.dw) || decide (8 * l.dw < l.cw) || decide (l.ch < l.dh) || decide (8 * l.dh < l.ch), 0xA, 32),
      (l.fmtBad, 0xA, 32), (decide (8192 < l.cw) || decide (l.lines.2 < l.lines.1), 0xA, 32)] ++ r.1, r.2)

/-- The bytes of a LAYER's tensor, scale array included (R117, R119, R366, R457). -/
def tensorBytes (fmt elems : Nat) : Nat :=
  let n := cdiv (elems * fmtBits fmt) 8
  if fmt = 1 ∨ fmt = 2 then 128 * cdiv n 128 + elems / 32 else n

/-- A scale or bias that is NaN or infinite (R448). -/
def notFinite (w : Nat) : Bool := bitsAt w 23 8 == 255

/-- LAYER (R357, R358, R448 to R457). -/
def Look.layerCmd (k : Look) (ds : Bytes) : Found :=
  let ln := fieldAt ds 36 1 % 16
  let sn := fieldAt ds 38 1 % 32
  let fmt := fieldAt ds 37 1 % 16
  let olen := fieldAt ds 50 5
  let zero := decide (olen = 0)
  let e := k.d.buf k.part (fieldAt ds 32 2 % 4096)
  let off := fieldAt ds 40 5
  let llen := 64 + 64 * ln + 32 * sn
  let list := k.range (fieldAt ds 32 2) 0 off llen 32 40
  let bs := if list.2.isEmpty then zeros llen else readAny k.m k.host (e.base + off) llen
  let out := k.range (fieldAt ds 34 2) 1 (fieldAt ds 45 5) olen 34 45
  let w := fieldAt bs 0 2
  let h := fieldAt bs 2 2
  let c := fieldAt bs 4 1
  let hwc := bitAt (fieldAt bs 5 1) 0
  let lays := (List.range ln).map (fun i => k.layer zero (sub bs (64 + 64 * i) 64))
  let sigs := (List.range sn).map (fun i => sub bs (64 + 64 * ln + 32 * i) 32)
  let sc := (List.range 6).map (fun i => fieldAt bs (16 + 4 * i) 4)
  let listBad := badIf [(decide (4 ≤ fieldAt bs 5 1), 4, 32), (!zeroAt bs 9 7, 4, 32), (!zeroAt bs 40 24, 4, 32),
      (allOnes 16 w || allOnes 16 h, 8, 32), (decide (w = 0) || decide (8192 < w) || decide (h = 0) || decide (8192 < h), 0xA, 32),
      (decide (c ≠ 1) && decide (c ≠ 3), 0xA, 32), (sc.any notFinite, 0xA, 32), (decide (c = 1) && !zeroAt bs 20 8, 0xA, 32),
      (decide (c = 1) && !zeroAt bs 32 8, 0xA, 32), ((decide (fmt = 1) || decide (fmt = 2)) && (hwc || decide (w % 32 ≠ 0)), 0xA, 32)] ++
    lays.flatMap (·.1) ++
    sigs.flatMap (fun s => badIf [(!zeroAt s 12 20, 4, 32), (allOnes 16 (fieldAt s 4 2) || allOnes 16 (fieldAt s 6 2), 8, 32),
      (decide (fieldAt s 4 2 = 0) || decide (fieldAt s 6 2 = 0) || decide (w < fieldAt s 0 2 + fieldAt s 4 2) ||
        decide (h < fieldAt s 2 2 + fieldAt s 6 2), 0xA, 32)])
  let ins := (if zero then list.2.map (fun r => { r with len := 0 }) else list.2) ++ lays.flatMap (·.2)
  ⟨resBad ds [(39, 1), (55, 1)] ++
    badIf [(decide (16 ≤ fieldAt ds 36 1), 4, 36), (decide (128 ≤ fieldAt ds 37 1), 4, 37), (decide (32 ≤ fieldAt ds 38 1), 4, 38),
      (!([1, 2, 3, 4, 5, 6, 7, 8].contains fmt), 4, 37), (decide (5 ≤ bitsAt (fieldAt ds 37 1) 4 3), 4, 37),
      (allOnes 4 ln, 8, 36), (allOnes 5 sn, 8, 38), (allOnes 40 olen, 8, 50),
      ((decide (ln = 0) || decide (8 < ln)) && !allOnes 4 ln, 0xA, 36), (decide (16 < sn) && !allOnes 5 sn, 0xA, 38),
      (!zero && !list.2.isEmpty && decide (olen ≠ tensorBytes fmt (c * h * w)), 0xA, 50)] ++
    list.1 ++ out.1 ++ (if list.2.isEmpty then [] else listBad) ++ overlapBad [] ins out.2 34,
   ins, out.2, runNone, zero⟩

/-! ### Serving requests and the control opcodes -/

/-- SERVE_REQ (R357 to R359, R403). -/
def Look.serveReq (k : Look) (ds : Bytes) : Found :=
  let mx := fieldAt ds 36 4
  let n := fieldAt ds 50 4
  let zero := decide (n = 0)
  let a := k.range (fieldAt ds 32 2) 0 (fieldAt ds 40 5) (4 * n) 32 40
  let b := k.range (fieldAt ds 34 2) 1 (fieldAt ds 45 5) (if zero then 0 else 4 * mx) 34 45
  ⟨resBad ds [(54, 2)] ++
    badIf [(allOnes 32 mx, 8, 36), (allOnes 32 n, 8, 50), (decide (mx = 0), 0xA, 36),
      (decide (1024 < cdiv (n + mx) (k.d.regN (ptn k.part + 0x418))) && !allOnes 32 mx && !zero, 0xA, 36)] ++
    a.1 ++ b.1 ++ overlapBad [] a.2 b.2 34, a.2, b.2, runNone, zero⟩

/-- CANCEL (R357, R377). -/
def Look.cancel (k : Look) (ds : Bytes) : Found :=
  let r := 16 * k.part + fieldAt ds 34 1 % 16
  ⟨resBad ds [(35, 5), (48, 8)] ++
    badIf [(decide (16 ≤ fieldAt ds 34 1), 4, 34), (decide (2 ^ k.d.srN r ≤ fieldAt ds 32 2), 0xA, 32)], [], [], runNone, false⟩

/-- A body that is all reserved. -/
def plainBody (ds : Bytes) : Found := ⟨resBad ds [(32, 24)], [], [], runNone, false⟩

/-- The body of an opcode (R357, R358); the handles of `free` are exempt from the overlap rule. -/
def Look.body (k : Look) (free : List Nat) (op : Nat) (ds : Bytes) : Found :=
  match op with
  | 0x01 => k.runList ds
  | 0x02 => k.copy ds
  | 0x03 => k.fill ds
  | 0x04 => k.kernel free ds
  | 0x05 => k.collective ds
  | 0x06 => k.layerCmd ds
  | 0x07 => k.serveReq ds
  | 0x0C => k.cancel ds
  | _ => plainBody ds

/-! ### Descriptors and entries -/

/-- Engines an opcode is valid on (Table: Opcode engines). -/
def opEngines (op : Nat) : List Nat :=
  match op with
  | 0x01 => [0, 1, 2, 4]
  | 0x02 => [1]
  | 0x03 => [1]
  | 0x04 => [0]
  | 0x05 => [2]
  | 0x06 => [4]
  | 0x07 => [3]
  | _ => if op ≤ 0x0C then [0, 1, 2, 3, 4] else []

/-- Opcodes that define the flag PROG (R376). -/
def progOps : List Nat := [1, 2, 3, 4, 5, 6, 7]

/-- The failures of a descriptor's header (R330 to R335, R54). -/
def Look.header (k : Look) (ds : Bytes) : List (Nat × Nat) :=
  let op := fieldAt ds 0 1
  let e := fieldAt ds 1 1 % 16
  let fl := fieldAt ds 2 2
  let waits := bitAt fl 0 || decide (op = 9)
  badIf [(decide (0x0C < op), 1, 0), (decide (op ≤ 0x0C) && !(opEngines op).contains e, 1, 1), (decide (e ≠ k.d.srEngine k.ring), 2, 1),
    (decide (bitsAt (fieldAt ds 1 1) 4 2 = 3), 3, 1), (decide (64 ≤ fieldAt ds 1 1), 4, 1),
    (decide (bitsAt fl 5 3 ≠ 0) || decide (bitsAt fl 9 7 ≠ 0) || (bitAt fl 8 && !progOps.contains op), 4, 2),
    (!zeroAt ds 5 3, 4, 5), (decide (1024 ≤ fieldAt ds 24 2), 4, 24), (decide (4096 ≤ fieldAt ds 26 2), 4, 26),
    (decide (4096 ≤ fieldAt ds 28 2), 4, 28), (!zeroAt ds 30 2, 4, 30), (!waits && !zeroAt ds 56 8, 4, 56),
    (decide (fieldAt ds 16 8 = 0) && decide (fieldAt ds 24 2 ≠ 0), 5, 24)]

/-- A descriptor is validated in full (R335): the findings, and the first failure. -/
def Look.descriptor (k : Look) (ds : Bytes) : Found × Option (Nat × Nat) :=
  let op := fieldAt ds 0 1
  let f := if op ≤ 0x0C then k.body [] op ds else plainBody []
  (f, firstBad (k.header ds ++ f.bad))

/-- The fields of a list entry laid out as a descriptor of its RUN_LIST (R367, R369): engine, class, client and tag are the
list's, and it launches when ready. -/
def entryDesc (par e : Bytes) : Bytes :=
  sub e 0 1 ++ sub par 1 1 ++ le 2 (2 * (fieldAt e 1 1 % 2)) ++ sub par 4 1 ++ zeros 3 ++ sub par 8 8 ++ zeros 12 ++ sub e 2 2 ++
    zeros 2 ++ sub e 8 24 ++ zeros 8

/-- Opcodes an entry may hold (R368), and those of a model program's list (R400). -/
def entryOps : List Nat := [0, 2, 3, 4, 5, 6, 8]

/-- A list entry is validated just before it launches (R368): a failed check reports its offset within the entry plus 0x80;
`ops` are the opcodes it may hold. -/
def Look.entry (k : Look) (free ops : List Nat) (par e : Bytes) : Found × Option (Nat × Nat) :=
  let op := fieldAt e 0 1
  let ds := entryDesc par e
  let ok := ops.contains op && (opEngines op).contains (fieldAt par 1 1 % 16)
  let f := if ok then k.body free op ds else plainBody []
  let head := badIf [(!ok, 1, 0x80), (decide (2 ≤ fieldAt e 1 1), 4, 0x81), (decide (4096 ≤ fieldAt e 2 2), 4, 0x82), (!zeroAt e 4 4, 4, 0x84)]
  (f, firstBad (head ++ f.bad.map (fun b => (b.1, b.2 - 24 + 0x80))))

end Sys2Proof.Machine
end

