-- ==== Sys2Proof/Machine/Engine.lean ====
section
/-! DEFINITION. Fetched commands, eligibility, the intake pass, and what the opcodes do once they run (R54, R55, R82 to R86, R329 to R337, R345, R359 to R379, R383). -/

namespace Sys2Proof.Machine

/-! ### A command enters the device -/

/-- The handles a descriptor's body names (R348, R357). -/
def bodyHandles (op : Nat) (ds : Bytes) : List Nat :=
  (if 1 ≤ op ∧ op ≤ 7 then [fieldAt ds 32 2 % 4096] else []) ++
    (if op = 2 ∨ op = 4 ∨ op = 5 ∨ op = 6 ∨ op = 7 then [fieldAt ds 34 2 % 4096] else [])

/-- A new command, waiting. -/
def cmdOf (cid part ring idx : Nat) (kind : CmdKind) (desc enc : Bytes) (eng : Nat) (f : Found) : Cmd :=
  { cid := cid, part := part, ring := ring, idx := idx, kind := kind, desc := desc, enc := enc, eng := eng, ph := .waiting,
    ins := f.ins, outs := f.outs,
    handles := (bodyHandles (fieldAt desc 0 1) desc ++ f.ins.map (·.handle) ++ f.outs.map (·.handle)).eraseDups,
    elig := none, ready := false, late := false, launched := false, grant := 0, attempt := 0, retries := 0, excl := [], cores := [],
    savedCores := 0, slots := [], fellEnd := .requeue, chk := { checksNone with zero := f.zero }, inDig := 0, outDig := 0,
    srcDig := 0, run := f.run, pos := 0, progN := 0, entryK := 0, entryLive := false, stop := none, status := 0, detail := 0,
    byte3 := 0, rcpt := none, rcptIdx := 0, behind := none, poisoned := false }

/-- Put a new command into the device. -/
def Dev.addCmd (d : Dev) (c : Cmd) : Dev := { d with cmds := d.cmds ++ [c], nextCid := d.nextCid + 1 }

/-! ### Eligibility (R54, R55, R360, R372, R383) -/

/-- The wait of a command is satisfied (R372, R360). -/
def Dev.waitOk (d : Dev) (c : Cmd) : Bool :=
  if bitAt c.flags 0 || decide (c.op = 9) then waitMet (d.tallyOf c.part (fieldAt c.desc 26 2 % 4096)) (fieldAt c.desc 56 8) else true

/-- ORDERED and FENCE_SYS: every earlier descriptor of the ring, of the partition, has completed (R331, R360, R444). -/
def Dev.orderOk (d : Dev) (c : Cmd) : Bool :=
  let before := d.cmds.filter (fun x => x.kind == .descriptor && x.part == c.part && decide (x.cid < c.cid))
  !(c.kind == .descriptor && (bitAt c.flags 3 || d.isComm (16 * c.part + c.ring % 16)) && before.any (fun x => x.ring % 16 == c.ring % 16)) &&
    !(decide (c.op = 0xB) && !before.isEmpty)

/-- A command may compete for a grant (R383). -/
def Dev.eligible (d : Dev) (u : BeatUnit) (c : Cmd) : Bool :=
  (c.ready && d.waitOk c) && (c.late || u.reached (fieldAt c.desc 16 8) (fieldAt c.desc 24 2)) && d.orderOk c && !d.repairHeld c

/-- One waiting command is looked at: whether it is late is decided once it is ready, a late one that skips ends
launch-missed, and the moment it becomes eligible is noted (R54, R55, R383). -/
def Dev.refreshOne (k : Clk) (u : BeatUnit) (d : Dev) (cid : Nat) : Dev :=
  match d.cmd cid with
  | none => d
  | some c =>
    let now := !c.ready && d.waitOk c
    let late := now && u.passed (fieldAt c.desc 16 8) (fieldAt c.desc 24 2)
    let c1 := if now then { c with ready := true, late := late } else c
    let d1 := if late then (d.setCmd c1).bump 0x10038 else d.setCmd c1
    if late && bitAt c.flags 4 then d1.endCmd k cid 3 0 0xFF
    else if c1.elig.isNone && d1.eligible u c1 then d1.onCmd cid (fun x => { x with elig := some (k.beat, k.notch, d1.now) })
    else d1

/-- Every waiting command is looked at, after anything that may make one eligible. -/
def Dev.refresh (d : Dev) (k : Clk) (u : BeatUnit) : Dev :=
  ((d.cmds.filter (fun c => c.ph == .waiting)).map (·.cid)).foldl (Dev.refreshOne k u) d

/-! ### Fetched descriptors (R329, R335, R345, R410) -/

/-- A command whose input meets a damaged region ends input-damaged, and its partition is told (R298). -/
def Dev.damagedEnd (d : Dev) (k : Clk) (cid : Nat) : Dev :=
  match d.cmd cid with
  | none => d
  | some c =>
    match d.damagedFor c with
    | some r => (d.endInput k cid 7 r).raise k c.part (memEvent k 0x40 2 r 0 0 0 4)
    | none => d

/-- A descriptor enters the intake and is validated; a refused one completes at once (R335). -/
def Dev.intake (m : Sparse Byte) (host : HostData) (k : Clk) (r : Nat) (d : Dev) (x : Nat × Bytes) : Dev :=
  let ds := padTo 64 x.2
  let v := (⟨d, m, host, r / 16, r⟩ : Look).descriptor ds
  let cid := d.nextCid
  let c := cmdOf cid (r / 16) (r % 16) x.1 .descriptor ds ds (fieldAt ds 1 1 % 16) v.1
  match v.2 with
  | some (code, byte) => (d.addCmd { c with ins := [], outs := [] }).endCmd k cid 0xA code byte
  | none => (d.addCmd c).damagedEnd k cid

/-- The ring halts for a fetch that failed: its entries are freed (R345). -/
def Dev.fetchFail (d : Dev) (k : Clk) (r cause : Nat) (rest : List (Nat × Nat)) : Dev :=
  let x := d.sring r
  let d1 := d.setSring r { x with inFetch := rest }
  (if x.err then d1 else d1.srHalt k r cause 0 0).fetch (r / 16) (d.srEngine r)

/-- DESCRIPTOR_FETCH_DONE (R329, R335, R345, R410): the ring's oldest fetch read returns. -/
def execDescriptorFetchDone (p k : Fin 16) (ok : Bool) (descs : List Bytes) (host : HostData) (s : State) : Out :=
  let r := 16 * p.val + k.val
  .next (s.onDev (fun d =>
    let x := d.sring r
    match x.inFetch with
    | [] => d
    | (i, n) :: rest =>
      if !ok then d.fetchFail s.clk r 3 rest
      else
        let size := 2 ^ d.srN r
        let d1 := (d.setSring r { x with inFetch := rest, cons := (i + n) % size, fetched := (x.fetched + n) % 2 ^ 32 }).overloadCheck s.clk r
        let d2 := ((List.range n).map (fun j => ((i + j) % size, descs.getD j []))).foldl (Dev.intake s.mem host s.clk r) d1
        (d2.refresh s.clk s.beat).fetch p.val (d2.srEngine r)))

/-- DESCRIPTOR_FETCH_TIMEOUT (R345). -/
def execDescriptorFetchTimeout (p k : Fin 16) (s : State) : Out :=
  let r := 16 * p.val + k.val
  .next (s.onDev (fun d =>
    match (d.sring r).inFetch with
    | [] => d
    | _ :: rest => d.fetchFail s.clk r 2 rest))

/-! ### Reading and writing ranges (R82 to R86, R252, R293, R295, R361) -/

/-- A poisoned line among ranges. -/
def Dev.poisonIn (d : Dev) (rs : List Range) : Option Nat :=
  d.poison.find? (fun l => rs.any (fun r => decide (0 < r.len) && decide (r.addr < 128 * l + 128) && decide (128 * l < r.addr + r.len)))

/-- The sealed region whose table gives the digest of a range: the range lies in it and is aligned to 4 KiB (R85). -/
def Dev.sealedDigest (d : Dev) (r : Range) : Option Nat :=
  if r.addr % 4096 = 0 ∧ r.len % 4096 = 0 ∧ 0 < r.len ∧ isHost r.addr = false then d.inRegion [2, 3] r.addr r.len else none

/-- The digest of a sealed range from its table entries (R85). -/
def Dev.sealedRangeDigest (d : Dev) (m : Sparse Byte) (g : Nat) (r : Range) : Nat :=
  let p0 := (r.addr - d.rgnBase g) / 4096
  (List.range (r.len / 4096)).foldl (fun a i =>
    a ^^^ gfMul (gfPow luadexK (256 * i)) (leNat (readMem m (d.rgnTable g + 32 * (p0 + i)) 16) ^^^ 4096)) r.len

/-- The unbound digest of an input range. -/
def Dev.rangeDigest (d : Dev) (m : Sparse Byte) (host : HostData) (r : Range) : Nat :=
  match d.sealedDigest r with
  | some g => d.sealedRangeDigest m g r
  | none => digest (readAny m host r.addr r.len)

/-- The XOR of the bound digests of ranges (R83, R84). -/
def boundDigests (f : Range → Nat) (rs : List Range) : Nat :=
  rs.foldl (fun a r => a ^^^ gfMul (f r) (bindElem r.handle r.role r.off)) 0

/-- A write of an agent without a cache, line by line as invalidating writes (R252); a write to a sealed line is discarded
with its event (R293). The first argument bounds the lines. -/
def State.agentWrite : Nat → State → Nat → Bytes → State
  | 0, s, _, _ => s
  | n + 1, s, a, bs =>
    if bs.isEmpty then s
    else
      let off := a % 128
      let piece := bs.take (128 - off)
      let s1 := match s.dev.sealedLine a with
        | some r => s.onDev (fun d => d.sealViolation s.clk r a)
        | none => s.homeDone (a / 128) (.invw .host ((2 ^ piece.length - 1) * 2 ^ off) (padTo 128 (zeros off ++ piece)))
      State.agentWrite n s1 (a + (128 - off)) (bs.drop (128 - off))

/-- A write to device or host memory for function `fn`. -/
def State.writeAny (s : State) (fn a : Nat) (bs : Bytes) : State :=
  if isHost a then s.onDev (fun d => d.toHostMem fn a bs) else s.agentWrite (bs.length / 128 + 2) a bs

/-- INTAKE_PASS_DONE (R85, R295): the input digest of a granted command; poison found in an input ends it. -/
def execIntakePassDone (cid : Nat) (host : HostData) (s : State) : Out :=
  .next (s.onDev (fun d =>
    match d.cmd cid with
    | none => d
    | some c =>
      if c.ph ≠ .granted then d
      else
        match (if c.chk.zero then none else d.poisonIn (c.ins.filter (fun r => (d.sealedDigest r).isNone))) with
        | some line => d.receivePoison s.clk cid (128 * line)
        | none =>
          let dig := if c.chk.zero then 0 else boundDigests (d.rangeDigest s.mem host) c.ins
          let src := match c.ins with
            | r :: _ => if c.chk.zero then 0 else d.rangeDigest s.mem host r
            | [] => 0
          let lines (a : Dev) (r : Range) : Dev := if (d.sealedDigest r).isSome then a else a.chargeLines c.part r.addr r.len
          (if c.chk.zero then d else c.ins.foldl lines d).setCmd { c with ph := .loaded, inDig := dig, srcDig := src }))

/-! ### The opcodes -/

/-- A granted command may start: its intake pass is done, or there was nothing to digest. -/
def Cmd.canStart (c : Cmd) : Bool := c.ph == .loaded || (c.ph == .granted && (c.chk.zero || c.ins.isEmpty))

/-- A command of opcode `op` starts: a zero length goes on to its commit with nothing executed (R359), otherwise `go`. -/
def Dev.start (d : Dev) (cid op : Nat) (go : Cmd → Dev) : Dev :=
  match d.cmd cid with
  | none => d
  | some c => if c.op = op ∧ c.canStart = true then (if c.chk.zero then d.setCmd { c with ph := .digest } else go c) else d

/-- NOP commits (R360). -/
def execNopCommand (cid : Nat) (s : State) : Out :=
  .next (s.onDev (fun d => d.start cid 0 (fun _ => d.commitPoint s.clk cid)))

/-- SIGNAL commits and advances its tally as if SIGNAL_EN were set (R360). -/
def execSignal (cid : Nat) (s : State) : Out :=
  .next (s.onDev (fun d => d.start cid 8 (fun c => d.commitPoint s.clk c.cid)))

/-- WAIT commits once its wait, which held its grant back, is over (R360, R372). -/
def execWait (cid : Nat) (s : State) : Out :=
  .next (s.onDev (fun d => d.start cid 9 (fun c => if d.waitOk c then d.commitPoint s.clk cid else d)))

/-- SEAL commits; its seal is triggered as its receipt is written (R97). -/
def execSeal (cid : Nat) (s : State) : Out :=
  .next (s.onDev (fun d => d.start cid 0xA (fun c => if c.ph.fellable then d.commitPoint s.clk cid else d)))

/-- A held write that a FENCE_SYS of this partition waits for: an earlier command's, unless that command is another partition's. -/
def Dev.fenced (d : Dev) (part cid : Nat) (x : Final) : Bool :=
  decide (x.cid < cid) && ((d.cmd x.cid).map (fun y => y.part)).getD part == part

/-- FENCE_SYS commits once every write of the commands fetched before it in its partition has been performed at system scope (R360). -/
def execFenceSys (cid : Nat) (s : State) : Out :=
  .next (s.onDev (fun d => d.start cid 0xB (fun c =>
    if d.stores.any (fun x => x.part == c.part && decide (x.cid < cid)) || (d.finals ++ d.finalsQ).any (d.fenced c.part cid) then d
    else d.commitPoint s.clk cid)))

/-- COPY: the transfer starts (R361). -/
def execCopy (cid : Nat) (s : State) : Out :=
  .next (s.onDev (fun d => d.start cid 2 (fun c => d.setCmd { c with ph := .running })))

/-- FILL: the transfer starts (R361). -/
def execFill (cid : Nat) (s : State) : Out :=
  .next (s.onDev (fun d => d.start cid 3 (fun c => d.setCmd { c with ph := .running, srcDig := 0 })))

/-- KERNEL: its blocks may be dispatched (R165, R362, R374); the image says whether it is order-sensitive (R72). -/
def execKernel (cid : Nat) (s : State) : Out :=
  .next (s.onDev (fun d => d.start cid 4 (fun c => d.setCmd { c with ph := .running, chk := { c.chk with ord := c.run.ord } })))

/-- RUN_LIST: its entries launch one after another (R369). -/
def execRunList (cid : Nat) (_host : HostData) (s : State) : Out :=
  .next (s.onDev (fun d => d.start cid 1 (fun c => d.setCmd { c with ph := .running, entryLive := false })))

/-- The handles a model program's ranges may overlap in: SRV_BATCH, SRV_PT and SRV_KV (R402). -/
def Dev.srvHandles (d : Dev) (p : Nat) : List Nat :=
  [fld (d.reg (ptn p + 0x40C)) 0 12, fld (d.reg (ptn p + 0x40C)) 16 12, fld (d.reg (ptn p + 0x410)) 0 12]

/-- The address of entry `k` of a list command. -/
def Cmd.entryAddr (c : Cmd) (k : Nat) : Nat := (match c.ins with
  | r :: _ => r.addr
  | [] => 0) + 32 * k

/-- LIST_ENTRY_LAUNCH (R368 to R370): the next entry is validated and launched, or stops its list. -/
def execListEntryLaunch (cid : Nat) (host : HostData) (s : State) : Out :=
  let k := s.clk
  .next (s.onDev (fun d =>
    match d.cmd cid with
    | none => d
    | some c =>
      if c.op ≠ 1 ∨ c.ph ≠ .running ∨ c.entryLive = true ∨ c.stop.isSome = true ∨ fieldAt c.desc 36 4 ≤ c.entryK then d
      else
        let step := match c.kind with
          | .step _ => true
          | _ => false
        let e := readAny s.mem host (c.entryAddr c.entryK) 32
        let v := (⟨d, s.mem, host, c.part, 16 * c.part + c.ring % 16⟩ : Look).entry (if step then d.srvHandles c.part else [])
          (if step then [0, 4, 8] else entryOps) c.desc e
        let ecid := d.nextCid
        let ec := cmdOf ecid c.part c.ring c.idx (.entry cid c.entryK) (entryDesc c.desc e) (e ++ c.enc) c.eng v.1
        let ec1 := if step then { ec with retries := c.retries, attempt := c.attempt, excl := c.excl } else ec
        let d1 := (d.addCmd { ec1 with ready := true, elig := some (k.beat, k.notch, d.now) }).setCmd { c with entryLive := true }
        match v.2 with
        | some (code, byte) => (d1.onCmd ecid (fun x => { x with ins := [], outs := [] })).endCmd k ecid 0xA code byte
        | none => d1.damagedEnd k ecid))

/-- The pattern bytes of a FILL (R361). -/
def fillBytes (pattern n : Nat) : Bytes := (List.range n).map (fun i => BitVec.ofNat 8 (pattern / 2 ^ (8 * (i % 4))))

/-- COPY_TRANSFER_DONE (R361): the source is read by peek reads, the destination written by invalidating writes; what is
left is the digest pass. -/
def execCopyTransferDone (cid : Nat) (host : HostData) (s : State) : Out :=
  .next (match s.dev.cmd cid with
  | none => s
  | some c =>
    if c.ph ≠ .running ∨ (c.op ≠ 2 ∧ c.op ≠ 3) then s
    else
      match c.outs with
      | [] => s
      | out :: _ =>
        let src := if c.op = 2 then c.ins else []
        match s.dev.poisonIn src with
        | some line => s.onDev (fun d => d.receivePoison s.clk cid (128 * line))
        | none =>
          let bs := match src with
            | r :: _ => readAny s.mem host r.addr r.len
            | [] => fillBytes (fieldAt c.desc 36 4) out.len
          let s1 := s.writeAny (s.dev.fnOf c.part) out.addr bs
          let sd := if c.op = 3 then digest bs else c.srcDig
          s1.onDev (fun d => ((src ++ [out]).foldl (fun a r => a.chargeLines c.part r.addr r.len) d).onCmd cid
            (fun (x : Cmd) => { x with ph := .digest, pos := out.len, srcDig := sd })))

/-- COMPLETION_TIMEOUT (R86, R311): a host read of a load, a digest pass or a source gets no completion: a failed XFR check. -/
def execCompletionTimeout (w : HostWait) (s : State) : Out :=
  .next (s.onDev (fun d =>
    match w with
    | .load g =>
      let c := d.core (36 * g.part.val + g.tile.val)
      match c.cid with
      | none => d
      | some cid =>
        if c.groups.any (fun x => x.slot == g.slot.val && x.loads.any (fun l => l.lanes.any (fun e => isHost e.2))) then
          d.checkFail s.clk cid 4 0xFF 0xFF
        else d
    | .digest cid =>
      match d.cmd cid with
      | some c => if c.ph = .digest ∧ c.outs.any (fun r => isHost r.addr) = true then d.checkFail s.clk cid 4 0xFF 0xFF else d
      | none => d
    | .source cid =>
      match d.cmd cid with
      | some c =>
        if (c.ph = .granted ∨ c.ph = .running) ∧ c.ins.any (fun r => isHost r.addr) = true then d.checkFail s.clk cid 4 0xFF 0xFF else d
      | none => d))

/-! ### CANCEL (R377 to R379, R409, R521) -/

/-- The target of a CANCEL, if it is found (R377). -/
def Dev.cancelTarget (d : Dev) (c : Cmd) : Option Cmd :=
  d.cmds.find? (fun x => x.kind == .descriptor && x.part == c.part && x.ring % 16 == fieldAt c.desc 34 1 % 16 &&
    x.idx == fieldAt c.desc 32 2 && x.tag == fieldAt c.desc 40 8)

/-- The live entry of a list. -/
def Dev.entryOf (d : Dev) (cid : Nat) : Option Cmd :=
  d.cmds.find? (fun x => match x.kind with
    | .entry par _ => par == cid
    | _ => false)

/-- A command that is not at its commit point ends cancelled: where it stands decides how (Table: Cancel outcomes). -/
def Dev.cancelOne (d : Dev) (k : Clk) (t : Cmd) : Dev :=
  if t.ph = .waiting then d.endCmd k t.cid 1 0 0xFF
  else if t.ph.fellable then d.fell t.cid (.complete 2 0)
  else if t.ph = .felling ∨ t.ph = .draining then d.onCmd t.cid (fun x => { x with fellEnd := (match x.fellEnd with
    | .requeue => .complete 2 0
    | e => e) })
  else d

/-- A RUN_LIST is cancelled: its current entry is felled and the list ends; an entry past its commit point stands, and the
list stops after it. -/
def Dev.cancelList (d : Dev) (k : Clk) (t : Cmd) : Dev :=
  let any := decide (0 < t.entryK) || t.entryLive
  match d.entryOf t.cid with
  | some e =>
    if e.ph = .waiting then d.endCmd k e.cid (if 0 < t.entryK ∨ e.launched = true then 2 else 1) 0 0xFF
    else if e.ph.fellable ∨ e.ph = .felling ∨ e.ph = .draining then d.cancelOne k e
    else d.onCmd t.cid (fun x => { x with stop := some (2, 0, 0xFF) })
  | none => d.fell t.cid (.complete (if any then 2 else 1) 0)

/-- A serving request in a slot leaves at the next step boundary (R409). -/
def Dev.cancelSeq (d : Dev) (t : Cmd) : Dev :=
  let sv := d.srv t.part
  d.setSrv t.part { sv with seqs := sv.seqs.map (fun q => if q.cid = t.cid then { q with cancelled := true } else q) }

/-- A request that waits for the pages of its first chunk leaves the allocator's wait list (R409). -/
def Dev.dropRequest (d : Dev) (t : Cmd) : Dev :=
  match (d.srv t.part).seqs.find? (fun q => q.cid == t.cid && !q.admitted) with
  | some q => d.seqLeave t.part q
  | none => d

/-- A found target that is not at its commit point. -/
def Dev.cancelHit (d : Dev) (c : Cmd) : Option Cmd :=
  match d.cancelTarget c with
  | some t => if t.cid ≠ c.cid ∧ (t.ph = .waiting ∨ t.ph.fellable = true ∨ t.ph = .felling ∨ t.ph = .draining) then some t else none
  | none => none

/-- The target is cancelled as its kind and its phase have it (Table: Cancel outcomes, R409). -/
def Dev.cancelHow (d : Dev) (k : Clk) (t : Cmd) : Dev :=
  if t.op = 1 ∧ t.ph = .running then d.cancelList k t
  else if t.op = 7 ∧ t.ph = .running then d.cancelSeq t
  else if t.op = 1 ∧ t.ph ≠ .waiting then d.fell t.cid (.complete (if 0 < t.entryK then 2 else 1) 0)
  else (d.dropRequest t).cancelOne k t

/-- CANCEL acts on its target and commits; its completion follows the target's (R377 to R379). -/
def execCancel (cid : Nat) (s : State) : Out :=
  .next (s.onDev (fun d => d.start cid 0xC (fun c =>
    match d.cancelHit c with
    | none => d.commitPoint s.clk cid
    | some t => (((d.bump (ptn c.part + 0x118)).cancelHow s.clk t).onCmd cid (fun x => { x with behind := some t.cid })).commitPoint s.clk cid)))

end Sys2Proof.Machine
end

