-- ==== Sys2Proof/Machine/Commit.lean ====
section
/-! DEFINITION. What is written once a command ends: receipts, seals, completions, events and interrupts (R93 to R101, R333, R338 to R344, R374). -/

namespace Sys2Proof.Machine

/-! ### Receipts (R95, R374 steps 6 to 8) -/

/-- The partition's commits stall for its undroppable events (R343). -/
def Dev.commitStalled (d : Dev) (p : Nat) : Bool :=
  let q := d.evQ p
  (decide (64 ≤ q.q.length) && q.q.all undroppable) || q.src.any undroppable

/-- The receipt of a command has been written: its tally advances, its client's commit counts, a seal may fall due for the reason listed
first (R96), and its
completion is queued: a SEAL's waits for its seal record, a CANCEL's for its target's completion, an entry has none. -/
def Dev.receiptWritten (d : Dev) (k : Clk) (c : Cmd) : Dev :=
  let d1 := (d.signalled c).bumpClient c.part c.client 1
  let own := match c.kind with
    | .descriptor => some c.cid
    | _ => none
  let d2 := if c.op = 0xA then d1.sealTrigger k c.part 2 own else d1
  let others := d2.cmds.any (fun x => x.part == c.part && x.cid != c.cid && x.ph != .completion && x.ph != .felling && x.ph != .draining)
  let closing := (d2.partSt c.part == 3 || decide (d2.kiln.pd ≠ 0)) && !others
  let d2 := if closing then d2.sealTrigger k c.part 3 none else d2
  let ch := d2.chain c.part
  let top := match ch.log with
    | (i, _) :: _ => i
    | [] => 0
  let d3 := if ch.sealedTo + 1024 ≤ top then d2.sealTrigger k c.part 0 none else d2
  match c.kind with
  | .entry par i => d3.entryDone k c par i
  | .step _ => d3
  | .descriptor =>
    let held := c.op = 0xA || (match c.behind with
      | some t => (d3.cmd t).isSome
      | none => false)
    if held then d3.onCmd c.cid (fun x => { x with ph := .completion, status := 0, detail := 0, byte3 := 0xFF })
    else d3.queueCompletion k c 0 0 0xFF

/-- The receipt at the head of its ring's wait is written. -/
def Dev.writeReceipt (d : Dev) (k : Clk) (p : Nat) : Dev :=
  let r := 256 + p
  match (d.dring r).wait with
  | [] => d
  | e :: rest =>
    if !d.drRoom r || d.commitStalled p then d
    else
      let d1 := (d.setDring r { d.dring r with wait := rest }).drWrite r e.bytes false
      let ch := d1.chain p
      let d2 := d1.setChain p { ch with log := (fieldAt e.bytes 8 8, fieldAt e.bytes 16 8) :: ch.log, lastRcpt := e.bytes }
      match e.cid.bind d2.cmd with
      | some c => d2.receiptWritten k c
      | none => d2

/-- RECEIPT_WRITE (R87, R93, R95, R371, R374). -/
def execReceiptWrite (p : Fin 16) (s : State) : Out :=
  .next (s.onDev (fun d => (d.writeReceipt s.clk p.val).refresh s.clk s.beat))

/-! ### Seals (R97 to R101) -/

/-- SEAL_SIGN_DONE (R99, R100): the seal being signed is signed, and waits for its ring. -/
def execSealSignDone (p : Fin 16) (t : Nat) (s : State) : Out :=
  .next (s.onDev (fun d =>
    let d1 := d.at t
    let c := d1.chain p.val
    match c.signing with
    | some w => d1.setChain p.val { c with signing := none, signed := c.signed ++ [w] }
    | none => d1))

/-- SEAL_RECORD_WRITE (R97, R98): the signed record is written; the completions of SEAL commands that waited for it are queued,
and the next waiting seal starts. -/
def execSealRecordWrite (p : Fin 16) (s : State) : Out :=
  .next (s.onDev (fun d =>
    let c := d.chain p.val
    match c.signed with
    | [] => d
    | w :: rest =>
      if !d.drRoom (304 + p.val) then d
      else
        let d1 := (d.setChain p.val { c with signed := rest }).drWrite (304 + p.val) (sealRecord (d.sealHead p.val w)) false
        let d2 := w.cids.foldl (fun a cid => match a.cmd cid with
          | some x => a.queueCompletion s.clk x 0 0 0xFF
          | none => a) d1
        d2.sealStart p.val))

/-- A seal-stall event (Table: Seal-stall event). -/
def sealStallEvent (k : Clk) (p : Nat) (w : SealRec) : Bytes :=
  le 1 0x22 ++ zeros 1 ++ le 1 w.reason ++ le 1 (p % 16) ++ zeros 4 ++ le 8 w.last ++ le 8 k.beat ++ le 2 k.notch ++ zeros 6

/-- SEAL_STALL_TIMEOUT (R100, R101): a seal that has waited 100 ms, 160,000,000 ticks, is said to stall, once. -/
def execSealStallTimeout (p : Fin 16) (t : Nat) (s : State) : Out :=
  .next (s.onDev (fun d =>
    let d1 := d.at t
    let c := d1.chain p.val
    match c.waiting.find? (fun w => !w.stalled && decide (w.tick + 160000000 ≤ t)) with
    | none => d1
    | some w =>
      let marked := c.waiting.map (fun (x : SealRec) => if x = w then { x with stalled := true } else x)
      ((d1.setChain p.val { c with waiting := marked }).bump 0x80038).raise s.clk p.val (sealStallEvent s.clk p.val w)))

/-! ### Completions (R333, R339, R340) -/

/-- Commands whose completion follows that of `cid` (R379). -/
def Dev.queueBehind (d : Dev) (k : Clk) (cid : Nat) : Dev :=
  (d.cmds.filter (fun c => c.behind == some cid && c.ph == .completion)).foldl (fun a c => a.queueCompletion k c 0 0 0xFF) d

/-- The fetch record of a submission ring is written (R325). -/
def Dev.fetchRecord (d : Dev) (r : Nat) : Dev :=
  let x := d.sring r
  let bs := le 2 x.cons ++ zeros 2 ++ le 4 x.fetched ++ zeros 8
  (d.toHostMem (d.fnOf (r / 16)) (d.reg64 (srOff r + 0x18)) bs).setSring r { x with shown := x.fetched, shownNow := true }

/-- The fetch of the descriptor at an index is in no fetch record yet. -/
def Dev.unshown (d : Dev) (r idx : Nat) : Bool :=
  let x := d.sring r
  let n := 2 ^ d.srN r
  decide ((x.cons + n - 1 - idx) % n < (x.fetched + 2 ^ 32 - x.shown) % 2 ^ 32)

/-- The ring and index of the descriptor that a waiting completion is of. -/
def Dev.fetchOf (d : Dev) (e : RingEnt) : Option (Nat × Nat) :=
  (e.cid.bind d.cmd).map (fun c => (16 * c.part + c.ring % 16, c.idx))

/-- The completion at the head of its ring's wait is written, and the command's intake entry and handles are free; the fetch
record shows its descriptor first, at most one record a notch (R325). -/
def Dev.writeCompletion (d : Dev) (k : Clk) (r : Nat) : Dev :=
  match (d.dring r).wait with
  | [] => d
  | e :: rest =>
    let late : Option Nat := match d.fetchOf e with
      | some (q, i) => if d.unshown q i then some q else none
      | none => none
    if !d.drRoom r || (match late with
      | some q => (d.sring q).shownNow
      | none => false) then d
    else
      let d0 := match late with
        | some q => d.fetchRecord q
        | none => d
      let d1 := (d0.setDring r { d0.dring r with wait := rest }).drWrite r e.bytes e.intr
      match e.cid.bind d1.cmd with
      | some c => ((d1.dropCmd c.cid).queueBehind k c.cid).fetch c.part c.eng
      | none => d1

/-- COMPLETION_WRITE (R329, R333, R339, R340). -/
def execCompletionWrite (p k : Fin 16) (s : State) : Out :=
  .next (s.onDev (fun d => (d.writeCompletion s.clk (16 * p.val + k.val)).refresh s.clk s.beat))

/-- INTERRUPT_DELAY_EXPIRE (R340): the oldest entry not yet signalled has waited MOD_DLY notches. -/
def execInterruptDelayExpire (ring : DevRing) (s : State) : Out :=
  .next (s.onDev (fun d =>
    let r := devRingNo ring
    match (d.dring r).since with
    | some n => if d.drInt r && decide (d.drModDly r ≠ 0) && decide (d.drModDly r ≤ n) then d.interrupt r else d
    | none => d))

/-! ### Events (R343, R344) -/

/-- The number of an event ring among the holding queues. -/
def evNo : EvRing → Nat
  | .part p => p.val
  | .pf => pfRing

/-- Events that waited in their units move into the queue while it has room. -/
def EvQ.takeIn : Nat → EvQ → EvQ
  | 0, q => q
  | n + 1, q =>
    match q.src with
    | [] => q
    | e :: rest => if q.q.length < 64 then EvQ.takeIn n { q with q := q.q ++ [e], src := rest } else q

/-- An events-lost event (R344). -/
def eventsLost (q : EvQ) : Bytes :=
  le 1 0x12 ++ zeros 7 ++ le 4 q.lost ++ zeros 4 ++ le 8 q.lostBeat ++ le 2 q.lostNotch ++ zeros 6

/-- The oldest held event is written where the ring has room. -/
def Dev.writeEvent (d : Dev) (r : Nat) : Dev :=
  let q := d.evQ r
  match q.q with
  | [] => d
  | e :: rest =>
    if !d.drRoom (evRingNo r) then d
    else
      let q1 := { q with q := rest }
      (d.setEvQ r (q1.takeIn q1.src.length)).drWrite (evRingNo r) e false

/-- EVENT_WRITE (R338, R342, R343): an events-lost event first where events were dropped, then the oldest held event. -/
def execEventWrite (ring : EvRing) (s : State) : Out :=
  .next (s.onDev (fun d =>
    let r := evNo ring
    let q := d.evQ r
    if q.lost = 0 then d.writeEvent r
    else if !d.drRoom (evRingNo r) then d
    else ((d.setEvQ r { q with lost := 0 }).drWrite (evRingNo r) (eventsLost q) false).writeEvent r))

end Sys2Proof.Machine
end

