-- ==== Sys2Proof/Machine/Sched.lean ====
section
/-! DEFINITION. The scheduler: selection, grants, tile pre-emption, and the end of felling (R355, R382 to R399, R434). -/

namespace Sys2Proof.Machine

/-! ### Who competes (R383 to R386) -/

/-- Age in beats (R383). -/
def Cmd.age (c : Cmd) (k : Clk) : Nat := match c.elig with
  | some (b, _, _) => k.beat - b
  | none => 0

/-- The effective class (R385). -/
def Dev.effCls (d : Dev) (k : Clk) (c : Cmd) : Nat :=
  let pr := fld (d.reg (ptn c.part + 0x304)) 0 16
  if pr = 0 then c.cls else c.cls - c.age k / pr

/-- The first of two commands is older (R384). -/
def older (a b : Cmd) : Bool :=
  let key (c : Cmd) : List Nat := match c.elig with
    | some (x, y, z) => [x, y, z, c.ring % 16, c.idx]
    | none => [2 ^ 64, 0, 0, c.ring % 16, c.idx]
  decide (key a < key b)

/-- The oldest command of a list. -/
def oldestOf : List Cmd → Option Cmd
  | [] => none
  | c :: r => match oldestOf r with
    | some x => if older c x then some c else some x
    | none => some c

/-- AGE_CEIL. -/
def Dev.ageCeil (d : Dev) (p : Nat) : Nat := fld (d.reg (ptn p + 0x300)) 0 16

/-- The choice among the candidates of one effective class: the oldest aged one, else the oldest of the client with the least
window count, ties to the client that owns the oldest (R386). -/
def Dev.chooseIn (d : Dev) (k : Clk) (p : Nat) (cs : List Cmd) : Option Cmd :=
  match oldestOf (cs.filter (fun c => decide (d.ageCeil p ≤ c.age k))) with
  | some c => some c
  | none =>
    let least := (cs.map (fun c => (d.clientCnt p c.client 3).toNat)).min?
    let few := cs.filter (fun c => some (d.clientCnt p c.client 3).toNat == least)
    match oldestOf few with
    | some c => oldestOf (cs.filter (fun x => x.client == c.client))
    | none => none

/-- Selection from candidates (R386). -/
def Dev.choose (d : Dev) (k : Clk) (p : Nat) (cs : List Cmd) : Option Cmd :=
  match [0, 1, 2].find? (fun n => cs.any (fun c => d.effCls k c == n)) with
  | some n => d.chooseIn k p (cs.filter (fun c => d.effCls k c == n))
  | none => none

/-- A command takes part in its engine's selection: eligible and ungranted, or saved. A serving request that is no no-op is
admitted by the sequencer, and a step is launched by it (R403, R404). -/
def Dev.candidate (d : Dev) (u : BeatUnit) (p e : Nat) (c : Cmd) : Bool :=
  c.part == p && c.eng == e && c.elig.isSome && !(decide (c.op = 7) && !c.chk.zero) &&
    (match c.kind with
      | .step _ => false
      | _ => true) &&
    (c.ph == .saved || (c.ph == .waiting && d.eligible u c))

/-! ### Limits (R354, R355, R434) -/

/-- Granted and short of its commit point. -/
def Phase.inFlight : Phase → Bool
  | .granted | .loaded | .running | .parking | .saving | .restoring | .digest | .felling | .draining => true
  | _ => false

/-- A control opcode, which takes no engine slot. -/
def Cmd.control (c : Cmd) : Bool := decide (c.op = 0) || decide (8 ≤ c.op)

/-- Descriptors of an engine in flight. -/
def Dev.inFlight (d : Dev) (p e : Nat) : Nat :=
  (d.cmds.filter (fun c => c.part == p && c.eng == e && c.kind == .descriptor && !c.control && c.ph.inFlight)).length

/-- How many an engine runs at once: compute 16, copy 4, collective 8 (R354, R434). -/
def engineLimit (e : Nat) : Nat := match e with
  | 0 => 16
  | 1 => 4
  | 2 => 8
  | _ => 1000000

/-- A layering instance. -/
def Dev.lyr (d : Dev) (i : Nat) : LyrInst := if i = 0 then d.lyr0 else d.lyr1

/-- Replace a layering instance. -/
def Dev.setLyr (d : Dev) (i : Nat) (x : LyrInst) : Dev := if i = 0 then { d with lyr0 := x } else { d with lyr1 := x }

/-- A layering instance holds a command that has not reached its commit point. -/
def Dev.lyrBusy (d : Dev) (i : Nat) : Bool := match (d.lyr i).cid.bind d.cmd with
  | some c => c.ph.inFlight
  | none => false

/-- The idle layering instance that would serve partition `p` next: the first idle one, if `p` comes first in its turn (R355). -/
def Dev.lyrFor (d : Dev) (u : BeatUnit) (p : Nat) : Option Nat :=
  match [0, 1].find? (fun i => !d.lyrBusy i) with
  | none => none
  | some i =>
    let turn := (List.range 16).map (fun n => ((d.lyr i).last + n) % 16)
    match turn.find? (fun q => d.cmds.any (fun c => d.candidate u q 4 c && c.kind == .descriptor && !c.control)) with
    | some q => if q = p then some i else none
    | none => none

/-! ### Cores (R390, R391) -/

/-- A core is held: it has resident blocks, or a command has been granted it. -/
def Dev.coreHeld (d : Dev) (p l : Nat) : Bool :=
  !(d.core (36 * p + l)).blocks.isEmpty || d.cmds.any (fun c => c.part == p && c.cores.contains l)

/-- Working active cores that a command may use, in ascending logical number: a failed check's suspects are excluded while
another core is left (R75). -/
def Dev.usable (d : Dev) (c : Cmd) : List Nat :=
  let all := (d.activeTiles c.part).filter (fun l => !flag (d.reg (coreMapOff c.part l)) 2)
  match all.filter (fun l => !c.excl.contains l) with
  | [] => all
  | l => l

/-- How many cores a kernel is to have: what it held when saved, else what it requested, at most what the partition has. -/
def Dev.coresWanted (d : Dev) (c : Cmd) : Nat :=
  if c.ph = .saved then c.savedCores
  else if c.op = 4 ∧ c.chk.zero = false then min (fieldAt c.desc 53 1) (d.usable c).length else 0

/-- The free cores a command may take. -/
def Dev.freeCores (d : Dev) (c : Cmd) : List Nat := (d.usable c).filter (fun l => !d.coreHeld c.part l)

/-- Victims for a kernel of class `cls` that lacks `need` cores: highest class first, most recently granted first (R391). -/
def victims (cs : List Cmd) (need : Nat) : List Cmd :=
  let order := sortBy (fun a b => decide (b.cls < a.cls) || (a.cls == b.cls && decide (b.grant ≤ a.grant))) cs
  go order need
where
  /-- Take victims until they suffice. -/
  go : List Cmd → Nat → List Cmd
    | [], _ => []
    | c :: r, need => if need = 0 then [] else c :: go r (need - c.cores.length)

/-- Tile pre-emption requests for a selected kernel that cannot be granted; none where no victims suffice (R391). -/
def Dev.requestCores (d : Dev) (c : Cmd) : Dev :=
  let free := (d.freeCores c).length
  let may := d.cmds.filter (fun x => x.part == c.part && x.op == 4 && decide (c.cls < x.cls) && (x.ph == .running || x.ph == .parking))
  let all := (may.map (fun x => x.cores.length)).sum
  let m := d.coresWanted c
  if free + all < m then d
  else (victims may (m - free)).foldl (fun a v => a.onCmd v.cid (fun x => { x with ph := .parking })) d

/-! ### Grants (R294, R388, R390, R434, R437, R519) -/

/-- The beat is recorded for every region that the command's inputs meet (R294). -/
def Dev.recordReads (d : Dev) (k : Clk) (c : Cmd) : Dev :=
  ((List.range 64).filter (fun r => decide (d.rgnSt r ≠ 0) && c.reads (d.rgnBase r) (4096 * d.rgnPages r))).foldl (fun a r =>
    let x := a.region r
    a.setRegion r { x with read := Sparse.put (fun _ => 0) x.read c.part (k.beat + 1) }) d

/-- The group or axis entry a COLLECTIVE names. -/
def Cmd.groupKey (c : Cmd) : Nat := fieldAt c.desc 36 1 + 256 * (fieldAt c.desc 37 1 % 2)

/-- The entry in force admits the collective: valid, with this member in it and every member on the roster (R433, R519). -/
def Dev.groupOk (d : Dev) (key code : Nat) : Bool :=
  let ms := d.membersOf key
  (d.group key).valid && ms.contains code && ms.all (fun m => d.onRoster (m / 16))

/-- A request joins an allocator (R33): it is new until the next grant is made. -/
def Dev.askAlloc (d : Dev) (a who idx n beat : Nat) : Dev :=
  let x := d.alloc a
  d.setAlloc a { x with wait := x.wait ++ [⟨who, idx, n, beat, true⟩] }

/-- A granted COLLECTIVE takes its operation number and asks for its landing chunks (R434, R437). -/
def Dev.collGrant (d : Dev) (k : Clk) (c : Cmd) : Dev :=
  let key := c.groupKey
  let e := d.group key
  let slot := 512 * c.part + key
  let num := match Sparse.get (fun _ => (0, 0)) d.net.opNum slot with
    | (g, n) => if g = e.gen then n else 0
  let comm := d.isComm (16 * c.part + c.ring % 16)
  let addr (l : List Range) : Nat := match l with
    | r :: _ => r.addr
    | [] => 0
  let x : Coll :=
    { cid := c.cid, key := key, gen := e.gen, num := num, members := d.membersOf key, code := 16 * d.pkgId + c.part,
      fmt := fieldAt c.desc 38 1 % 16, rm := bitsAt (fieldAt c.desc 38 1) 4 3, n := fieldAt c.desc 50 5, inAddr := addr c.ins,
      outAddr := addr c.outs, frames := e.frames, landing := comm, comm := comm, stage := 0, staged := [], ownNext := 0, own := [],
      share := 0, shares := [], delivered := 0, passes := [], passed := false, agreed := false }
  let nums := Sparse.put (fun _ => (0, 0)) d.net.opNum slot (e.gen, num + 1)
  let kept := d.net.discards.filter (fun t => decide (t.1 % 512 ≠ key % 512))
  let d1 := { d with net := { d.net with colls := d.net.colls ++ [x], opNum := nums, discards := kept } }
  if comm then d1 else d1.askAlloc c.part c.cid (num % 8) 4 k.beat

/-- A command is granted, with its cores (R388, R390). A restored one goes on to its restore. -/
def Dev.grantCmd (d : Dev) (k : Clk) (c : Cmd) (cores : List Nat) : Dev :=
  let first := !c.launched && !d.inStep c
  let d1 := if first then (d.bumpClient c.part c.client 0).bumpClient c.part c.client 3 else d
  let ph := if c.ph = .saved then Phase.restoring else Phase.granted
  let d2 := d1.setCmd { c with ph := ph, launched := true, grant := d.grants + 1, cores := cores }
  let d3 := ({ d2 with grants := d.grants + 1, held := Sparse.drop d2.held (8 * c.part + c.eng),
                       kiln := d2.kiln.busy }).recordReads k c
  if c.op = 5 ∧ c.chk.zero = false then d3.collGrant k c else d3

/-- The selected command is granted, or holds the selection while its cores are not free. A saved kernel whose partition no
longer has its cores is felled (Where things meet, R390). -/
def Dev.tryGrant (d : Dev) (k : Clk) (u : BeatUnit) (c : Cmd) : Dev :=
  let key := 8 * c.part + c.eng
  let m := d.coresWanted c
  if c.op = 5 ∧ c.chk.zero = false ∧ d.groupOk c.groupKey (16 * d.pkgId + c.part) = false then
    d.endCmd k c.cid 0xA 6 (match c.kind with
      | .descriptor => 36
      | _ => 36 - 24 + 0x80)
  else if c.eng = 4 ∧ c.kind = .descriptor ∧ c.control = false then
    match d.lyrFor u c.part with
    | some i => (d.grantCmd k c []).setLyr i ⟨some c.cid, c.part + 1, []⟩
    | none => d
  else if c.op = 4 ∧ c.chk.zero = false then
    if c.ph = .saved ∧ (d.usable c).length < m then d.fell c.cid .requeue
    else if 0 < m ∧ m ≤ (d.freeCores c).length then d.grantCmd k c ((d.freeCores c).take m)
    else ({ d with held := Sparse.put (fun _ => 0) d.held key (c.cid + 1) }).requestCores c
  else d.grantCmd k c []

/-- The engines of a partition that may grant, by its state (R505, R507, R508) and with no power-down in progress (R490). -/
def Dev.mayGrant (d : Dev) (p e : Nat) : Bool :=
  let st := d.partSt p
  decide (d.kiln.pd = 0) && decide (st ≠ 2) && decide (st ≠ 3) && !(decide (st = 4) && (e == 0 || e == 3))

/-- One selection of an engine (R386): what holds the selection, else the choice among its candidates, within the engine's limit. -/
def Dev.select (d : Dev) (k : Clk) (u : BeatUnit) (p e : Nat) : Dev :=
  if !d.mayGrant p e then d
  else
    let cs := d.cmds.filter (d.candidate u p e)
    let kept := match Sparse.get (fun _ => 0) d.held (8 * p + e) with
      | 0 => none
      | n + 1 => cs.find? (fun c => c.cid == n)
    let pick := match kept with
      | some c => some c
      | none => d.choose k p cs
    match pick with
    | none => d
    | some c => if c.kind = .descriptor ∧ c.control = false ∧ engineLimit e ≤ d.inFlight p e then d else d.tryGrant k u c

/-- SCHEDULER_SELECT (R294, R355, R383 to R391, R434, R507). -/
def execSchedulerSelect (p : Fin 16) (e : Fin 5) (_cycle t : Nat) (s : State) : Out :=
  .next (s.onDev (fun d => ((d.at t).refresh s.clk s.beat).select s.clk s.beat p.val e.val))

/-! ### Tile pre-emption (R392 to R397) -/

/-- Groups of a command that have not parked. -/
def Dev.unparked (d : Dev) (c : Cmd) : Nat :=
  (c.cores.map (fun l => ((d.core (36 * c.part + l)).groups.filter (fun g => !g.parked)).length)).sum

/-- A pre-emption-escalated event (R411). -/
def escalatedEvent (k : Clk) (c : Cmd) (slots : Bool) (n : Nat) : Bytes :=
  le 1 0x53 ++ le 1 (2 * b2n slots) ++ le 1 (c.ring % 16) ++ le 1 (c.part % 16) ++ le 2 c.idx ++ le 2 n ++ le 8 c.tag ++
    le 8 k.beat ++ le 2 k.notch ++ zeros 6

/-- Save slots of a partition that no command holds, in ascending number (R395). -/
def Dev.freeSaveSlots (d : Dev) (p : Nat) : List Nat :=
  (List.range (fld (d.reg (ptn p + 0x318)) 0 7)).filter (fun n => !(d.cmdsOf p).any (fun c => c.slots.contains n))

/-- PREEMPT_SAVE (R392 to R395): every group has parked, so the save begins, or the victim is felled for want of slots. -/
def execPreemptSave (cid : Nat) (s : State) : Out :=
  .next (s.onDev (fun d =>
    match d.cmd cid with
    | none => d
    | some c =>
      if c.ph ≠ .parking ∨ d.unparked c ≠ 0 then d
      else
        let free := d.freeSaveSlots c.part
        if free.length < c.cores.length then (d.raise s.clk c.part (escalatedEvent s.clk c true 0)).fell cid .requeue
        else d.setCmd { c with ph := .saving, slots := free.take c.cores.length }))

/-- A comparison of the command's matrix operations is still open; a save waits for it (ch. 07, Corner cases). -/
def Dev.unresolved (d : Dev) (c : Cmd) : Bool := c.cores.any (fun l => !(d.core (36 * c.part + l)).cmps.isEmpty)

/-- SAVE_DONE (R392 to R394, R396): every core's state stands in its slot; the cores are free and the kernel is back in its intake. -/
def execSaveDone (cid : Nat) (s : State) : Out :=
  .next (s.onDev (fun d =>
    match d.cmd cid with
    | none => d
    | some c =>
      if c.ph ≠ .saving ∨ d.unresolved c then d
      else
        let img := (c.cores.zip c.slots).foldl (fun m e => Sparse.put coreReset m (64 * c.part + e.2) (d.core (36 * c.part + e.1))) d.saveImg
        let d1 := ({ d with saveImg := img }).onCores c.part c.cores Core.emptied
        (d1.bump (ptn c.part + 0x320)).setCmd { c with ph := .saved, savedCores := c.cores.length, cores := [] }))

/-- A core takes over what a slot holds: blocks, groups, tiles and their comparisons, tokens and the split; its L1 is empty. -/
def Core.restored (c img : Core) : Core :=
  { c with
    cid := img.cid, cfg := img.cfg, blocks := img.blocks, groups := img.groups.map (fun g => { g with parked := false }),
    tok := img.tok, lastTok := img.lastTok, mq := [], run := [], tiles := img.tiles, cmps := img.cmps, mmas := img.mmas,
    corrected := img.corrected, noCheck := c.noCheck || img.noCheck,
    l1 := (if c.cfg = img.cfg then c.l1 else []), stall := (if c.cfg = img.cfg then c.stall else 256) }

/-- RESTORE_DONE (R392, R393, R396): the groups resume after their YIELD; a slot whose digest differs is a failed MEM check. -/
def execRestoreDone (cid : Nat) (same : Bool) (s : State) : Out :=
  .next (s.onDev (fun d =>
    match d.cmd cid with
    | none => d
    | some c =>
      if c.ph ≠ .restoring then d
      else if !same then d.checkFail s.clk cid 2 0xFF 0xFF
      else
        let d1 := (c.cores.zip c.slots).foldl (fun a e =>
          a.setCore (36 * c.part + e.1) ((a.core (36 * c.part + e.1)).restored (Sparse.get coreReset a.saveImg (64 * c.part + e.2)))) d
        let mask := c.cores.foldl (fun n l => n ||| 2 ^ l) c.chk.cores
        ((d1.freeSlots c.part c.slots).setCmd { c with ph := .running, slots := [], savedCores := 0, chk := { c.chk with cores := mask } }).kernelEnd cid))

/-- PREEMPT_BUDGET_EXPIRE (R397): a victim that has not parked is felled; parking in the same cycle counts first. -/
def execPreemptBudgetExpire (cid : Nat) (s : State) : Out :=
  .next (s.onDev (fun d =>
    match d.cmd cid with
    | none => d
    | some c =>
      if c.ph ≠ .parking ∨ d.unparked c = 0 then d
      else ((d.bump (ptn c.part + 0x324)).raise s.clk c.part (escalatedEvent s.clk c false (d.unparked c))).fell cid .requeue))

/-! ### The end of felling (R398, R399, R406) -/

/-- FELL_CORES_FREE (R398): 3 µs after the felling started. -/
def execFellCoresFree (cid : Nat) (s : State) : Out :=
  .next (s.onDev (fun d => d.onCmd cid (fun c => if c.ph = .felling then { c with ph := .draining, cores := [] } else c)))

/-- A felled entry of a serving step: the step starts again from its first entry, with what its checks have come to (R406). -/
def Cmd.stepAgain (c e : Cmd) : Cmd :=
  { c with entryK := 0, entryLive := false, pos := 0, chk := checksNone, retries := max c.retries e.retries,
           attempt := max c.attempt e.attempt, excl := e.excl }

/-- The felled command has no request outstanding: it waits again with its age, or ends (R399, R270). -/
def Dev.fellDone (d : Dev) (k : Clk) (c : Cmd) : Dev :=
  match c.fellEnd with
  | .complete st de => (d.onCmd c.cid (fun x => { x.restart with ph := .waiting })).endCmd k c.cid st de 0xFF
  | .requeue =>
    match c.kind with
    | .entry par _ =>
      if d.inStep c then (d.dropCmd c.cid).onCmd par (fun x => x.stepAgain c)
      else d.onCmd c.cid (fun x => { x.restart with ph := .waiting })
    | _ => d.onCmd c.cid (fun x => { x.restart with ph := .waiting })

/-- FELL_DRAIN_DONE (R398, R399). -/
def execFellDrainDone (cid : Nat) (s : State) : Out :=
  .next (s.onDev (fun d =>
    match d.cmd cid with
    | none => d
    | some c => if c.ph = .draining then (d.fellDone s.clk c).refresh s.clk s.beat else d))

end Sys2Proof.Machine
end

