-- ==== Sys2Proof/Machine/Layer.lean ====
section
/-! DEFINITION. The layering engine: sources, colour conversion, down-scaling, blending, normalisation and signatures (R448 to R462). -/

namespace Sys2Proof.Machine

/-- A working sample of a pixel: red, green, blue, alpha, each 0 to 65,280 (R451). -/
structure Px where
  r : Nat
  g : Nat
  b : Nat
  a : Nat
  deriving DecidableEq, Repr

/-- The largest working sample, 255 in 8 bits. -/
def sampleMax : Nat := 65280

/-- A division to the nearest integer, ties to even. -/
def divEven (n : Int) (d : Nat) : Int :=
  let q := n / (d : Int)
  let r := n % (d : Int)
  if 2 * r > d ∨ (2 * r = d ∧ q % 2 = 1) then q + 1 else q

/-- An integer clamped to the range of a working sample. -/
def clampSample (x : Int) : Nat := (max 0 (min x sampleMax)).toNat

/-! ### Sources and colour conversion (R450 to R452) -/

/-- The conversion matrices in 1/4,096, each coefficient rounded to the nearest (Table: Colour conversions): Y, Cr to R, Cb to G, Cr to
G, Cb to B, and the offset of Y. -/
def convMatrix : Nat → List Int × Int
  | 1 => ([4769, 6537, -1605, -3330, 8263], 16)
  | 2 => ([4096, 5743, -1410, -2925, 7258], 0)
  | 3 => ([4769, 7343, -873, -2183, 8652], 16)
  | _ => ([4096, 6450, -767, -1917, 7601], 0)

/-- An 8-bit YCbCr sample in RGB (R452). -/
def fromYuv (conv y cb cr : Nat) : Px :=
  let (k, off) := convMatrix conv
  let yy := k.getD 0 0 * (256 * ((y : Int) - off))
  let u := 256 * ((cb : Int) - 128)
  let v := 256 * ((cr : Int) - 128)
  ⟨clampSample (divEven (yy + k.getD 1 0 * v) 4096), clampSample (divEven (yy + k.getD 2 0 * u + k.getD 3 0 * v) 4096),
   clampSample (divEven (yy + k.getD 4 0 * u) 4096), sampleMax⟩

/-- The pixel of a source at (x, y), from the source's bytes (R450, R451). -/
def LayerEnt.pixel (l : LayerEnt) (src : Nat → Nat) (x y : Nat) : Px :=
  let row := l.stride * y
  let s (o : Nat) : Nat := 256 * src o
  match l.fmt with
  | 0 => ⟨s (row + 4 * x), s (row + 4 * x + 1), s (row + 4 * x + 2), s (row + 4 * x + 3)⟩
  | 1 => ⟨s (row + 3 * x), s (row + 3 * x + 1), s (row + 3 * x + 2), sampleMax⟩
  | 2 => ⟨s (row + 4 * x + 2), s (row + 4 * x + 1), s (row + 4 * x), s (row + 4 * x + 3)⟩
  | 3 => ⟨s (row + x), s (row + x), s (row + x), sampleMax⟩
  | 4 =>
    let c := l.stride * l.sh + l.stride * (y / 2) + 2 * (x / 2)
    fromYuv l.conv (src (row + x)) (src c) (src (c + 1))
  | 5 =>
    let c := row + 4 * (x / 2)
    fromYuv l.conv (src (c + 2 * (x % 2))) (src (c + 1)) (src (c + 3))
  | _ => ⟨256 * l.fill.getD 0 0, 256 * l.fill.getD 1 0, 256 * l.fill.getD 2 0, s (row + x)⟩

/-! ### Down-scaling (R453) -/

/-- 2 Q² times the integral of the triangle of half-width 1 up to u = U ÷ Q. -/
def triArea (q u : Int) : Int :=
  if u ≤ -q then 0 else if u ≤ 0 then (q + u) * (q + u) else if u ≤ q then 2 * q * q - (q - u) * (q - u) else 2 * q * q

/-- The weights of output sample `j` on an axis of crop `n` and destination `m`, in 2⁻¹⁴, by position: a box of width n ÷ m convolved
with the triangle, sampled around the quantised centre, rounded to nearest with ties to even; the largest makes the sum exactly 1. A
free value says which, where several are largest (site 10). -/
def filterWeights (n m j : Nat) : List (Int × Int) :=
  let c64 : Nat := 32 * ((2 * j + 1) * n - m) / m
  let q : Int := 128 * (m : Int)
  let half : Int := 64 * (n : Int)
  let lo : Int := (c64 : Int) / 64 - (cdiv n (2 * m) : Int) - 1
  let ps : List Int := (List.range (cdiv n m + 5)).map (fun i => lo + (i : Int))
  let area (p : Int) : Int :=
    let t := q * p - 2 * (m : Int) * (c64 : Int)
    triArea q (t + half) - triArea q (t - half)
  let ws := (ps.map (fun p => (p, divEven (area p * (m : Int) * 16384) (2 * q.toNat * q.toNat * n)))).filter (fun w => w.2 != 0)
  let top := ws.foldl (fun a w => max a w.2) 0
  let best := ws.filter (fun w => w.2 == top)
  let pick := (best.getD ((Config.free 10 (n + 2 ^ 16 * m + 2 ^ 32 * j)).toNat % best.length) (0, 0)).1
  let rest := 16384 - (ws.map (·.2)).foldl (· + ·) 0
  ws.map (fun w => if w.1 = pick then (w.1, w.2 + rest) else w)

/-- A weighted sum of pixels, each sample rounded to nearest with ties to even and clamped. -/
def weighted (ws : List (Int × Px)) : Px :=
  let f (g : Px → Nat) : Nat := clampSample (divEven ((ws.map (fun w => w.1 * (g w.2 : Int))).foldl (· + ·) 0) 16384)
  ⟨f Px.r, f Px.g, f Px.b, f Px.a⟩

/-- Scale a line of `n` pixels to `m`: a ratio of 1 copies; positions outside take the nearest edge sample. -/
def scaleLine (n m : Nat) (line : List Px) : List Px :=
  if n = m then line
  else
    (List.range m).map (fun j => weighted ((filterWeights n m j).map (fun w =>
      (w.2, line.getD (max 0 (min w.1 ((n : Int) - 1))).toNat ⟨0, 0, 0, 0⟩))))

/-- The columns of a list of rows of `w` pixels. -/
def columns (w : Nat) (rows : List (List Px)) : List (List Px) :=
  (List.range w).map (fun x => rows.map (fun r => r.getD x ⟨0, 0, 0, 0⟩))

/-- A layer scaled to its destination: vertically first, then horizontally. -/
def LayerEnt.scaled (l : LayerEnt) (src : Nat → Nat) : List (List Px) :=
  let crop := (List.range l.ch).map (fun y => (List.range l.cw).map (fun x => l.pixel src (l.cx + x) (l.cy + y)))
  let cols := (columns l.cw crop).map (scaleLine l.ch l.dh)
  (columns l.dh cols).map (scaleLine l.cw l.dw)

/-! ### Blending (R455) -/

/-- The effective alpha of a layer's pixel. -/
def LayerEnt.alphaOf (l : LayerEnt) (a : Nat) : Nat :=
  match l.mode with
  | 0 => sampleMax
  | 1 => a
  | 2 => 256 * l.alpha
  | _ => (a * l.alpha + 127) / 255

/-- One sample blended over another. -/
def blendOne (a s d : Nat) : Nat := (a * s + (sampleMax - a) * d + 32640) / sampleMax

/-- A canvas, row by row. -/
abbrev Canvas := List (List Px)

/-- A layer blended over the canvas; what lies outside the canvas is discarded. -/
def LayerEnt.blend (l : LayerEnt) (src : Nat → Nat) (cv : Canvas) : Canvas :=
  let im := l.scaled src
  (cv.zip (List.range cv.length)).map (fun row => (row.1.zip (List.range row.1.length)).map (fun p =>
    let x := (p.2 : Int) - l.dx
    let y := (row.2 : Int) - l.dy
    if 0 ≤ x ∧ x < l.dw ∧ 0 ≤ y ∧ y < l.dh then
      let s := (im.getD y.toNat []).getD x.toNat ⟨0, 0, 0, 0⟩
      let a := l.alphaOf s.a
      ⟨blendOne a s.r p.1.r, blendOne a s.g p.1.g, blendOne a s.b p.1.b, p.1.a⟩
    else p.1))

/-! ### Normalisation and output (R456, R457) -/

/-- The grey value of a pixel. -/
def greyOf (bt709 : Bool) (p : Px) : Nat :=
  if bt709 then (871 * p.r + 2929 * p.g + 296 * p.b + 2048) / 4096 else (1225 * p.r + 2404 * p.g + 467 * p.b + 2048) / 4096

/-- The channel samples of a pixel. -/
def channelsOf (c : Nat) (bt709 : Bool) (p : Px) : List Nat := if c = 1 then [greyOf bt709 p] else [p.r, p.g, p.b]

/-- A channel value x × scale + bias, fused in S32 (R456). -/
def normal (hdr : Bytes) (ch w : Nat) : Fv :=
  let x : Fv := .fin false w (-8)
  valueOf 8 (encodeTo 8 .rne 0 (Fv.add .rne (Fv.mul x (valueOf 8 (fieldAt hdr (16 + 4 * ch) 4))) (valueOf 8 (fieldAt hdr (28 + 4 * ch) 4))))

/-- The values of a tensor in element order. -/
def tensorOf (hdr : Bytes) (cv : Canvas) : List Fv :=
  let c := fieldAt hdr 4 1
  let f := fieldAt hdr 5 1
  let px : List (List Nat) := cv.flatten.map (channelsOf c (bitAt f 1))
  if bitAt f 0 then px.flatMap (fun p => (p.zip (List.range c)).map (fun e => normal hdr e.2 e.1))
  else (List.range c).flatMap (fun ch => px.map (fun p => normal hdr ch (p.getD ch 0)))

/-- Codes packed little-endian, four at a time (R117). The first argument bounds the groups. -/
def packFour (w : Nat) : Nat → List Nat → Bytes
  | 0, _ => []
  | n + 1, es => if es.isEmpty then [] else
    le (w * 4 / 8) ((((es.take 4).zip (List.range 4)).map (fun e => e.1 * 2 ^ (w * e.2))).sum) ++ packFour w n (es.drop 4)

/-- Blocks of 32 values converted to F4 or F6: scale codes and element codes (R126). -/
def packBlocks (f4 : Bool) (rm : Rnd) (key : Nat) : Nat → Nat → List Fv → List Nat × List Nat
  | 0, _, _ => ([], [])
  | n + 1, i, vs =>
    if vs.isEmpty then ([], [])
    else
      let b := packBlock f4 rm ((List.range 32).map (fun j => srR key (i + j))) (vs.take 32)
      let r := packBlocks f4 rm key n (i + 32) (vs.drop 32)
      (b.1 :: r.1, b.2 ++ r.2)

/-- The bytes of the output (R366, R457). -/
def tensorBytesOf (fmt : Nat) (rm : Rnd) (key : Nat) (vs : List Fv) : Bytes :=
  if fmt = 1 ∨ fmt = 2 then
    let p := packBlocks (fmt == 1) rm key vs.length 0 vs
    let body := packFour (fmtBits fmt) vs.length p.2
    padTo (128 * cdiv body.length 128) body ++ p.1.map (BitVec.ofNat 8)
  else (vs.zip (List.range vs.length)).flatMap (fun e => le (fmtBits fmt / 8) (encodeTo fmt rm (srR key e.2) e.1))

/-! ### The pass (R458, R459) -/

/-- The bytes that a region's signature covers (R458). -/
def regionBytes (cv : Canvas) (x y w h : Nat) : Bytes :=
  ((cv.drop y).take h).flatMap (fun row => ((row.drop x).take w).flatMap (fun p =>
    [p.r, p.g, p.b].map (fun v => BitVec.ofNat 8 ((v + 128) / 256))))

/-- The canvas of a layer list, its sources read by `src i`. -/
def canvasOf (bs : Bytes) (ln : Nat) (src : Nat → Nat → Nat) : Canvas :=
  let bg : Px := ⟨256 * fieldAt bs 6 1, 256 * fieldAt bs 7 1, 256 * fieldAt bs 8 1, sampleMax⟩
  (List.range ln).foldl (fun cv i => (layerOf (sub bs (64 + 64 * i) 64)).blend (src i) cv)
    (List.replicate (fieldAt bs 2 2) (List.replicate (fieldAt bs 0 2) bg))

/-- The instance that runs a command, or the list it stands in. -/
def Dev.lyrOf (d : Dev) (c : Cmd) : Nat :=
  let par := match c.kind with
    | .entry p _ => p
    | _ => c.cid
  if d.lyr1.cid = some c.cid ∨ d.lyr1.cid = some par then 1 else 0

/-- A layering pass: the output and the computed signatures. -/
def State.layerPass (s : State) (host : HostData) (c : Cmd) : State :=
  match s.dev.poisonIn c.ins, c.ins, c.outs with
  | some line, _, _ => s.onDev (fun d => d.receivePoison s.clk c.cid (128 * line))
  | none, list :: srcs, out :: _ =>
    let ln := fieldAt c.desc 36 1 % 16
    let sn := fieldAt c.desc 38 1 % 32
    let bs := readAny s.mem host list.addr list.len
    let data := srcs.map (fun r => readAny s.mem host r.addr r.len)
    let cv := canvasOf bs ln (fun i o => ((data.getD i []).getD o 0).toNat)
    let rm := (rndOf (bitsAt (fieldAt c.desc 37 1) 4 3)).getD .rne
    let bytes := tensorBytesOf (fieldAt c.desc 37 1 % 16) rm c.srC (tensorOf bs cv)
    let sigs := (List.range sn).map (fun i =>
      let e := sub bs (64 + 64 * ln + 32 * i) 32
      (fieldAt e 8 4, crc32 (regionBytes cv (fieldAt e 0 2) (fieldAt e 2 2) (fieldAt e 4 2) (fieldAt e 6 2))))
    (s.writeAny (s.dev.fnOf c.part) out.addr bytes).onDev (fun d =>
      let i := d.lyrOf c
      let d1 := (c.ins ++ c.outs).foldl (fun a r => a.chargeLines c.part r.addr r.len) d
      (d1.setLyr i { d1.lyr i with sigs := sigs }).onCmd c.cid (fun x => { x with ph := .running, pos := out.len }))
  | _, _, _ => s

/-- LAYER (R455): the pass of a granted command. -/
def execLayer (cid : Nat) (host : HostData) (s : State) : Out :=
  .next (match s.dev.cmd cid with
  | none => s
  | some c =>
    if c.op ≠ 6 ∨ c.canStart = false then s
    else if c.chk.zero then s.onDev (fun d => d.onCmd cid (fun x => { x with ph := .digest }))
    else s.layerPass host c)

/-- LAYER_PASS_DONE (R459, R461): the signatures are compared. -/
def execLayerPassDone (cid : Nat) (s : State) : Out :=
  .next (s.onDev (fun d =>
    match d.cmd cid with
    | none => d
    | some c =>
      if c.op ≠ 6 ∨ c.ph ≠ .running then d
      else
        let sigs := (d.lyr (d.lyrOf c)).sigs
        let miss := sigs.any (fun e => e.1 != e.2)
        d.setCmd { c with ph := .digest, chk := { c.chk with sig := miss, cover := c.chk.cover ||| (if sigs.isEmpty || miss then 0 else 0x40) } }))

/-- A pass commits (R459, R460, R462): counted, and a mismatch told. -/
def Dev.sigReport (d : Dev) (k : Clk) (c : Cmd) : Dev :=
  let i := d.lyrOf c
  let sigs := (d.lyr i).sigs
  let bad := ((sigs.zip (List.range sigs.length)).filter (fun e => e.1.1 != e.1.2)).map (fun e => (e.2, e.1.2))
  let d1 := d.bump (0x100010 + 4 * i)
  match bad with
  | [] => d1
  | (r, crc) :: _ =>
    (d1.bump 0x100020).raise k c.part (le 1 0x70 ++ le 1 (2 * i) ++ le 1 r ++ le 1 (c.part % 16) ++ le 2 ((bad.map (fun e => 2 ^ e.1)).sum) ++ zeros 2 ++
      le 8 c.tag ++ le 8 k.beat ++ le 2 k.notch ++ le 4 crc ++ zeros 2)

end Sys2Proof.Machine
end

