-- ==== Sys2Proof/Machine/Serve.lean ====
section
/-! DEFINITION. The serving sequencer: set-up, step boundaries, the batch, steps, and KV pages (R400 to R409). -/

namespace Sys2Proof.Machine

/-! ### Set-up (R400) -/

/-- A field of a serving register. -/
def Dev.srvReg (d : Dev) (p off lo len : Nat) : Nat := fld (d.reg (ptn p + off)) lo len

/-- EN of SRV_CTRL. -/
def Dev.srvEn (d : Dev) (p : Nat) : Bool := flag (d.reg (ptn p + 0x400)) 0

/-- The buffers of the batch, the page table and the page pool. -/
def Dev.srvBatch (d : Dev) (p : Nat) : BufEnt := d.buf p (d.srvReg p 0x40C 0 12)
/-- SRV_PT. -/
def Dev.srvPt (d : Dev) (p : Nat) : BufEnt := d.buf p (d.srvReg p 0x40C 16 12)
/-- SRV_KV. -/
def Dev.srvKv (d : Dev) (p : Nat) : BufEnt := d.buf p (d.srvReg p 0x410 0 12)
/-- SRV_LIST. -/
def Dev.srvList (d : Dev) (p : Nat) : BufEnt := d.buf p (d.srvReg p 0x404 0 12)

/-- The set-up that EN needs: four valid handles, a page table and a batch buffer long enough. -/
def Dev.srvReady (d : Dev) (p : Nat) : Bool :=
  (d.srvBatch p).valid && (d.srvPt p).valid && (d.srvKv p).valid && (d.srvList p).valid &&
    decide (4096 * d.srvReg p 0x414 0 10 ≤ (d.srvPt p).len) && decide (16452 ≤ (d.srvBatch p).len)

/-- A write of SRV_CTRL (R400, R412): setting EN starts the step numbers and the page pool afresh. -/
def Dev.srvCtrlWrite (d : Dev) (path : Path) (p : Nat) (v : Word) : Dev :=
  let m := ptn p + 0x400
  let starts := flag v 0 && !d.srvEn p
  d.onWrite path m (d.guard path m (firstCause [(starts && !d.srvReady p, 2), (!inLims (regRule m).lims v, 1)])
    (let d1 := d.setReg m (v &&& BitVec.ofNat 32 (regRule m).mask)
     let sv := d.srv p
     let used := sv.seqs.flatMap (·.pages)
     if starts then d1.setSrv p { sv with stepNo := 0, free := (List.range ((d.srvKv p).len / 65536)).filter (fun g => !used.contains g) }
     else d1))

/-- SRV_ENABLE (R400). -/
def execSrvEnable (path : Path) (p : Fin 16) (v : Word) (s : State) : Out := .next (s.onDev (fun d => d.srvCtrlWrite path p.val v))

/-- SERVE_REQ (R403): a request with an empty prompt goes on to its commit as a no-op; any other is admitted at a step boundary. -/
def execServeReq (cid : Nat) (s : State) : Out :=
  .next (s.onDev (fun d => d.start cid 7 (fun _ => d)))

/-! ### Pages (R33, R403, R407) -/

/-- Prompt tokens and maximum new tokens of a request. -/
def Cmd.promptLen (c : Cmd) : Nat := fieldAt c.desc 50 4
/-- Maximum new tokens. -/
def Cmd.maxNew (c : Cmd) : Nat := fieldAt c.desc 36 4

/-- Tokens a sequence processes in its next step: a chunk of its prompt, then one (R404 step 5). -/
def Dev.nextCount (d : Dev) (p : Nat) (c : Cmd) (q : Seq) : Nat :=
  if q.done < c.promptLen then min (d.srvReg p 0x41C 0 13) (c.promptLen - q.done) else 1

/-- Position of the first of them. -/
def nextPos (c : Cmd) (q : Seq) : Nat := if q.done < c.promptLen then q.done else c.promptLen + q.gen - 1

/-- Pages a sequence lacks for its next step (R404 step 3). -/
def Dev.lacks (d : Dev) (p : Nat) (c : Cmd) (q : Seq) : Nat :=
  cdiv (nextPos c q + d.nextCount p c q) (max 1 (d.srvReg p 0x418 0 13)) - q.pages.length

/-- Change a sequence. -/
def Dev.onSeq (d : Dev) (p slot : Nat) (f : Seq → Seq) : Dev :=
  d.setSrv p { d.srv p with seqs := (d.srv p).seqs.map (fun q => if q.slot = slot then f q else q) }

/-- Pages go to a sequence. -/
def Dev.givePages (d : Dev) (p slot n : Nat) : Dev :=
  let pages := (d.srv p).free.take n
  let d1 := d.setSrv p { d.srv p with free := (d.srv p).free.drop n }
  d1.onSeq p slot (fun q => { q with pages := q.pages ++ pages, want := 0 })

/-- The ranges whose bytes a request's input digest covers beside its prompt: images and declared inputs of the model program,
without the argument areas and without what the sequencer keeps (R402, R406). -/
def Dev.modelIns (d : Dev) (m : Sparse Byte) (host : HostData) (p : Nat) (desc : Bytes) : List Range :=
  let base := (d.srvList p).base + 32 * d.srvReg p 0x408 0 32
  let own := d.srvHandles p
  (List.range (d.srvReg p 0x404 16 16)).flatMap (fun i =>
    let e := readAny m host (base + 32 * i) 32
    let f := ((⟨d, m, host, p, 16 * p⟩ : Look).entry own [0, 4, 8] desc e).1
    f.ins.filter (fun r => decide (r.addr ≠ f.run.args) && !own.contains r.handle))

/-- The descriptor of the step now due, as a RUN_LIST (R402). -/
def Dev.stepDesc (d : Dev) (p n : Nat) : Bytes :=
  le 1 1 ++ le 1 (16 * d.srvReg p 0x400 2 2) ++ zeros 6 ++ le 8 n ++ zeros 16 ++ le 2 (d.srvReg p 0x404 0 12) ++ zeros 2 ++
    le 4 (d.srvReg p 0x404 16 16) ++ le 5 (32 * d.srvReg p 0x408 0 32) ++ zeros 19

/-- A granted request is admitted: its first grant counts, and its inputs are digested (R388, R404, R406). -/
def Dev.admitSeq (d : Dev) (m : Sparse Byte) (host : HostData) (k : Clk) (p slot : Nat) : Dev :=
  match (d.srv p).seqs.find? (fun q => q.slot == slot) with
  | none => d
  | some q =>
    match d.cmd q.cid with
    | none => d
    | some c =>
      let d1 := d.onSeq p slot (fun x => { x with admitted := true })
      let d2 := if c.launched then d1 else (d1.bumpClient p c.client 0).bumpClient p c.client 3
      let ins := c.ins ++ d.modelIns m host p (d.stepDesc p 0)
      let dig := boundDigests (d.rangeDigest m host) ins
      let d3 := { d2.setCmd { c with ph := .running, launched := true, inDig := dig } with kiln := d2.kiln.busy }
      match d.poisonIn c.ins with
      | some line => d3.receivePoison k c.cid (128 * line)
      | none => d3.recordReads k c

/-- The wait list is served in order while its head's pages are free (R33, R407). -/
def Dev.serveWait (m : Sparse Byte) (host : HostData) (k : Clk) (p : Nat) : Nat → Dev → Dev
  | 0, d => d
  | n + 1, d =>
    match (d.srv p).wait with
    | [] => d
    | slot :: rest =>
      match (d.srv p).seqs.find? (fun q => q.slot == slot) with
      | none => Dev.serveWait m host k p n (d.setSrv p { d.srv p with wait := rest })
      | some q =>
        if (d.srv p).free.length < q.want then d
        else
          let d1 := (d.setSrv p { d.srv p with wait := rest }).givePages p slot q.want
          Dev.serveWait m host k p n (if q.admitted then d1 else d1.admitSeq m host k p slot)

/-- A request for pages: granted at once where nobody waits and they are free, otherwise at the end of the wait list. -/
def Dev.askPages (d : Dev) (k : Clk) (p slot n : Nat) : Dev :=
  let sv := d.srv p
  if sv.wait.isEmpty && decide (n ≤ sv.free.length) then d.givePages p slot n
  else (d.setSrv p { sv with wait := sv.wait ++ [slot] }).onSeq p slot (fun q => { q with want := n, since := k.beat })

/-! ### The step boundary (R404) -/

/-- The step now running or last run has ended, or there is none. -/
def Dev.atStepEnd (d : Dev) (p : Nat) : Bool :=
  match (d.srv p).live.bind d.cmd with
  | some c => c.ph == .completion
  | none => true

/-- Collect a token of a sequence of the ended step: written at its position of the output range (step 1). -/
def State.collectOne (host : HostData) (p : Nat) (chk : Checks) (retries : Nat) (s : State) (q : Seq) : State :=
  match q.batch, s.dev.cmd q.cid with
  | some i, some c =>
    let took (x : Seq) : Seq := { x with batch := none, done := min c.promptLen (x.done + x.cnt) }
    let s1 := s.onDev (fun d => (d.onSeq p q.slot took).onCmd q.cid (fun x => { x with chk := x.chk.merge chk, retries := max x.retries retries }))
    if q.emit && !q.cancelled then
      let tok := readAny s.mem host ((s.dev.srvBatch p).base + 64 + 32 * i + 16) 4
      let s2 := match c.outs with
        | o :: _ => s1.writeAny (s1.dev.fnOf p) (o.addr + 4 * q.gen) tok
        | [] => s1
      s2.onDev (fun d => (d.onSeq p q.slot (fun x => { x with gen := x.gen + 1, last := leNat tok })).onCmd q.cid (fun x => { x with pos := q.gen + 1 }))
    else s1
  | _, _ => s

/-- A sequence has ended: its last token is SRV_EOS or it has its maximum (step 1). -/
def Dev.seqEnded (d : Dev) (p : Nat) (q : Seq) : Bool :=
  match d.cmd q.cid with
  | some c => q.admitted && decide (0 < q.gen) && (decide (q.last = d.regN (ptn p + 0x420)) || decide (c.maxNew ≤ q.gen))
  | none => false

/-- Retire an ended sequence: the rest of its output is padded, its slot and pages are free, and it goes on to its commit; a
cancelled one completes cancelled, and one whose command has ended otherwise just leaves (step 2, R409). -/
def State.retireOne (p : Nat) (s : State) (q : Seq) : State :=
  let k := s.clk
  let gone : Bool := match s.dev.cmd q.cid with
    | some c => q.admitted && c.ph != .running
    | none => true
  if gone then s.onDev (fun d => d.seqLeave p q)
  else if q.cancelled then
    s.onDev (fun d => match d.cmd q.cid with
      | some c => (d.seqLeave p q).queueCompletion k c 2 0 0xFF
      | none => d.seqLeave p q)
  else if s.dev.seqEnded p q then
    let s1 := match s.dev.cmd q.cid with
      | some c => match c.outs with
        | o :: _ => s.writeAny (s.dev.fnOf p) (o.addr + 4 * q.gen)
            ((List.range (c.maxNew - q.gen)).flatMap (fun _ => le 4 (s.dev.regN (ptn p + 0x424))))
        | [] => s
      | none => s
    s1.onDev (fun d => (d.seqLeave p q).onCmd q.cid (fun x => { x with ph := .digest }))
  else s

/-- Sequences that want pages for their next step, in the order the allocator takes requests of one cycle (step 3, R33). -/
def Dev.growers (d : Dev) (p beat : Nat) : List (Nat × Nat) :=
  let qs := (d.srv p).seqs.filterMap (fun q => match d.cmd q.cid with
    | some c => if q.admitted && decide (q.want = 0) && decide (0 < d.lacks p c q) then some (q.slot, d.lacks p c q) else none
    | none => none)
  sortBy (fun a b => decide ((a.1 + 512 - beat % 512) % 512 ≤ (b.1 + 512 - beat % 512) % 512)) qs

/-- Tokens of the next batch so far. -/
def Dev.batchTokens (d : Dev) (p : Nat) : Nat :=
  ((d.srv p).seqs.map (fun q => match d.cmd q.cid with
    | some c => if q.admitted && decide (q.want = 0) then d.nextCount p c q else 0
    | none => 0)).sum

/-- Admit requests while nobody waits for pages, a slot is free and the token area has room (step 4). -/
def Dev.admitAll (m : Sparse Byte) (host : HostData) (k : Clk) (u : BeatUnit) (p : Nat) : Nat → Dev → Dev
  | 0, d => d
  | n + 1, d =>
    let sv := d.srv p
    match (List.range (d.srvReg p 0x414 0 10)).find? (fun i => !sv.seqs.any (fun q => q.slot == i)) with
    | none => d
    | some slot =>
      let cs := d.cmds.filter (fun c => c.part == p && c.op == 7 && !c.chk.zero && c.ph == .waiting && c.elig.isSome && d.eligible u c)
      match d.choose k p cs with
      | none => d
      | some c =>
        let q : Seq := ⟨slot, c.cid, false, 0, 0, 0, [], 0, 0, none, 0, false, false⟩
        let cnt := d.nextCount p c q
        if !sv.wait.isEmpty || decide ((d.srvBatch p).len < 16448 + 4 * (d.batchTokens p + cnt)) then d
        else
          let d1 := (d.setSrv p { sv with seqs := sv.seqs ++ [q] }).askPages k p slot (d.lacks p c q)
          if (d1.srv p).wait.isEmpty then Dev.admitAll m host k u p n (d1.admitSeq m host k p slot) else d1

/-- Sequences that take part in the next step, in ascending slot order (step 5). -/
def Dev.batchSeqs (d : Dev) (p : Nat) : List Seq :=
  sortBy (fun a b => decide (a.slot ≤ b.slot)) ((d.srv p).seqs.filter (fun q => q.admitted && decide (q.want = 0) && (match d.cmd q.cid with
    | some c => c.ph == .running
    | none => false)))

/-- One entry of the batch: its 32 bytes, its tokens, its row of the page table, and the sequence as it enters the step. -/
def State.batchEntry (s : State) (host : HostData) (p i tokAt : Nat) (q : Seq) : Bytes × Bytes × Bytes × Seq :=
  match s.dev.cmd q.cid with
  | none => ([], [], [], q)
  | some c =>
    let n := s.dev.nextCount p c q
    let prompt := decide (q.done < c.promptLen)
    let emit := !prompt || decide (c.promptLen ≤ q.done + n)
    let toks := if prompt then
        (match c.ins with
          | r :: _ => readAny s.mem host (r.addr + 4 * q.done) (4 * n)
          | [] => [])
      else le 4 q.last
    let e := le 2 q.slot ++ le 1 (b2n (decide (q.done = 0)) + 2 * b2n emit) ++ zeros 1 ++ le 4 n ++ le 4 (nextPos c q) ++ le 4 tokAt ++ zeros 16
    (e, toks, q.pages.flatMap (fun g => le 4 g), { q with batch := some i, cnt := n, emit := emit })

/-- Write the entries of the batch one after another. -/
def State.batchWrite (host : HostData) (p : Nat) : List Seq → Nat → Nat → State → State
  | [], _, _, s => s
  | q :: rest, i, tokAt, s =>
    let b := s.dev.srvBatch p
    let fn := s.dev.fnOf p
    let r := s.batchEntry host p i tokAt q
    let s1 := (s.writeAny fn (b.base + 64 + 32 * i) r.1).writeAny fn (b.base + 16448 + 4 * tokAt) r.2.1
    let s2 := s1.writeAny fn ((s.dev.srvPt p).base + 4096 * q.slot) r.2.2.1
    State.batchWrite host p rest (i + 1) (tokAt + r.2.1.length / 4) (s2.onDev (fun d => d.onSeq p q.slot (fun _ => r.2.2.2)))

/-- The boundary itself: collect, retire, grow, admit, batch (R404, R407). -/
def State.stepBoundary (s : State) (host : HostData) (p : Nat) : State :=
  let k := s.clk
  let live := (s.dev.srv p).live.bind s.dev.cmd
  let chk := (live.map (·.chk)).getD checksNone
  let tries := (live.map (·.retries)).getD 0
  let s1 := (s.dev.srv p).seqs.foldl (State.collectOne host p chk tries) s
  let s2 := s1.onDev (fun d => match live with
    | some c => (d.setSrv p { d.srv p with live := none }).dropCmd c.cid
    | none => d)
  let s3 := (s2.dev.srv p).seqs.foldl (State.retireOne p) s2
  if !s3.dev.srvEn p || decide (s3.dev.kiln.pd ≠ 0) || !(s3.dev.mayGrant p 3) then s3
  else
    let s4 := s3.onDev (fun d => (d.refresh k s3.beat).serveWait s3.mem host k p (d.srv p).wait.length)
    let s5 := s4.onDev (fun d => (d.growers p k.beat).foldl (fun a e => a.askPages k p e.1 e.2) d)
    let s6 := s5.onDev (fun d => d.admitAll s5.mem host k s5.beat p 512)
    let qs := s6.dev.batchSeqs p
    if qs.isEmpty then s6
    else
      let head := le 8 ((s6.dev.srv p).stepNo + 1) ++ zeros 8 ++ le 2 qs.length ++ zeros 46
      let s7 := (s6.writeAny (s6.dev.fnOf p) (s6.dev.srvBatch p).base head)
      (State.batchWrite host p qs 0 0 s7).onDev (fun d => d.setSrv p { d.srv p with ready := true })

/-- SERVE_STEP_BOUNDARY (R401, R404, R407, R409). -/
def execServeStepBoundary (p : Fin 16) (host : HostData) (s : State) : Out :=
  .next (if s.dev.atStepEnd p.val && !(s.dev.srv p.val).ready && decide (s.dev.partSt p.val ≠ 3) then s.stepBoundary host p.val else s)

/-! ### Steps (R402, R405, R408) -/

/-- The launch point of a paced step is now (R408). -/
def State.paced (s : State) (p : Nat) : Bool :=
  let d := s.dev
  s.beat.counting && decide (d.srvReg p 0x400 16 10 = s.beat.notch) && decide (s.beat.num % max 1 (d.srvReg p 0x400 8 8) = 0)

/-- The step is launched: its number, its beat in the batch buffer, and its list as a RUN_LIST without receipt or completion. -/
def State.launchStep (s : State) (p : Nat) : State :=
  let k := s.clk
  let sv := s.dev.srv p
  let n := sv.stepNo + 1
  let s1 := s.writeAny (s.dev.fnOf p) ((s.dev.srvBatch p).base + 8) (le 8 k.beat)
  s1.onDev (fun d =>
    let desc := d.stepDesc p n
    let v := (⟨d, s1.mem, [], p, 16 * p⟩ : Look).descriptor desc
    let cid := d.nextCid
    let c := cmdOf cid p 0 0 (.step n) desc desc 0 v.1
    let d1 := (d.addCmd { c with ph := .running, ready := true, launched := true }).setSrv p { sv with stepNo := n, ready := false, live := some cid }
    let d2 := d1.accumulate (ptn p + 0x438) (ptn p + 0x43C + 2 ^ 23) 1
    match v.2 with
    | some (code, byte) => d2.stepFailed k c 0xA code byte
    | none => d2)

/-- SERVE_STEP_LAUNCH (R402, R408): at the boundary, or at a paced launch point; a point that passes while the previous step
still runs is skipped. -/
def execServeStepLaunch (p : Fin 16) (s : State) : Out :=
  let pace := flag (s.dev.reg (ptn p.val + 0x400)) 1
  .next (if pace && !s.paced p.val then s
    else if (s.dev.srv p.val).ready then s.launchStep p.val
    else if pace && !s.dev.atStepEnd p.val then s.onDev (fun d => d.bump (ptn p.val + 0x32C))
    else s)

/-- A request for pages times out (R407): it leaves the wait list, and its sequence ends with resource-wait, detail 1. -/
def Dev.kvTimeout (d : Dev) (k : Clk) (p slot : Nat) : Dev :=
  match (d.srv p).seqs.find? (fun q => q.slot == slot) with
  | none => d
  | some q =>
    if (d.srv p).wait.contains slot && decide (q.since + d.srvReg p 0x428 0 16 ≤ k.beat) then
      match d.cmd q.cid with
      | some c => (d.seqLeave p q).queueCompletion k c 9 1 0xFF
      | none => d.seqLeave p q
    else d

/-- KV_WAIT_TIMEOUT (R407). -/
def execKvWaitTimeout (p : Fin 16) (slot : Fin 512) (s : State) : Out :=
  .next (s.onDev (fun d => d.kvTimeout s.clk p.val slot.val))

end Sys2Proof.Machine
end

