-- ==== Sys2Proof/Machine/Streams.lean ====
section
/-! DEFINITION. Streams, flagged final writes and the ordering timeout (R265 to R270), and NEAR_GIB (R273, R274). -/

namespace Sys2Proof.Machine

/-- The landed count of a stream, 0 where none is open (R267). -/
def Dev.landed (d : Dev) (port : HoldPort) (num : Nat) : Nat :=
  match d.streams.find? (fun x => decide (x.port = port) && x.num == num) with
  | some x => x.landed
  | none => 0

/-- One more write of a stream has landed; its first opens it (R267). -/
def Dev.landOne (d : Dev) (port : HoldPort) (num : Nat) : Dev :=
  if d.streams.any (fun x => decide (x.port = port) && x.num == num) then
    { d with streams := d.streams.map (fun x => if x.port = port ∧ x.num = num then { x with landed := x.landed + 1 } else x) }
  else { d with streams := d.streams ++ [⟨port, num, 1⟩] }

/-- A stream closes: a later write of its number opens a new one (R267). -/
def Dev.closeStream (d : Dev) (port : HoldPort) (num : Nat) : Dev :=
  { d with streams := d.streams.filter (fun x => !(decide (x.port = port) && x.num == num)) }

/-- A holding port has room for a final write (R268). -/
def Dev.portRoom (d : Dev) (port : HoldPort) : Bool :=
  decide ((d.finals.filter (fun x => decide (x.port = port))).length < 64)

/-- Final writes that wait enter their port as it has room, oldest first (R268). -/
def Dev.refillFinals (d : Dev) (port : HoldPort) : Dev :=
  d.finalsQ.foldl (fun a x =>
    if x.port = port ∧ a.portRoom port = true then { a with finals := a.finals ++ [x], finalsQ := a.finalsQ.erase x } else a) d

/-- Write into the local memory of a core: the block whose share holds the address (R142, R265). -/
def Dev.landLocal (d : Dev) (no addr mask : Nat) (data : Bytes) : Dev :=
  let c := d.core no
  let size := match c.cid with
    | some cid => (match d.cmd cid with
      | some x => x.run.lmem
      | none => 0)
    | none => 0
  if size = 0 then d
  else d.setCore no { c with blocks := c.blocks.map (fun b =>
    (List.range data.length).foldl (fun a i =>
      if mask / 2 ^ i % 2 = 1 ∧ (addr + i) / size = b.k then a.write ((addr + i) % size) [data.getD i 0] else a) b) }

/-- One line of a write of a stream is performed at its home (R266, R293): behind an open transaction it waits there (R253). -/
def State.landLine (s : State) (line mask : Nat) (data : Bytes) : State :=
  match s.dev.sealedLine (128 * line) with
  | some r => s.onDev (fun d => d.sealViolation s.clk r (128 * line))
  | none =>
    let e := s.dev.dirEnt line
    let req := HomeReq.invw .host mask data
    if e.txn.isSome then s.onDev (fun d => d.setDir line { e with queue := e.queue ++ [req] })
    else (s.onDev (fun d => d.shunSilent line)).homeDone line req

/-- A write of a stream is performed at its homes, line by line, or at its destination core (R266). -/
def State.landWrite (s : State) (port : HoldPort) (addr mask : Nat) (data : Bytes) : State :=
  match port with
  | .core p l => s.onDev (fun d => d.landLocal (36 * p.val + l.val) addr mask data)
  | _ =>
    let l0 := addr / 128
    (List.range ((addr + data.length + 127) / 128 - l0)).foldl (fun a i =>
      let base := 128 * (l0 + i)
      let hit (j : Nat) : Bool := decide (addr ≤ base + j) && decide (base + j < addr + data.length) && decide (mask / 2 ^ (base + j - addr) % 2 = 1)
      let bs := (List.range 128).map (fun j => if hit j then data.getD (base + j - addr) 0 else 0)
      let mk := (List.range 128).foldl (fun m j => if hit j then m + 2 ^ j else m) 0
      if mk = 0 then a else a.landLine (l0 + i) mk bs) s

/-- The first held final write of a port whose count has landed. -/
def Dev.ripe (d : Dev) (port : HoldPort) : Option Final :=
  d.finals.find? (fun x => decide (x.port = port) && decide (x.count ≤ d.landed x.port x.stream))

/-- Forward the final writes of a port whose counts have landed (R267). -/
def State.releaseFinals : Nat → State → HoldPort → State
  | 0, s, _ => s
  | n + 1, s, port =>
    match s.dev.ripe port with
    | none => s
    | some x =>
      let s1 := s.onDev (fun d => (({ d with finals := d.finals.erase x }).closeStream port x.stream).refillFinals port)
      State.releaseFinals n (s1.landWrite port x.addr x.mask x.data) port

/-- Release what may be released at a port, refilling it first. -/
def State.settlePort (s : State) (port : HoldPort) : State :=
  let s1 := s.onDev (fun d => d.refillFinals port)
  s1.releaseFinals (s1.dev.finals.length + s1.dev.finalsQ.length) port

/-- The kind and index of a holding port in an ordering-timeout event (R257): a core is given by its partition. -/
def portCode : HoldPort → Nat
  | .hkl p => p.val
  | .hub d => 16 + d.val
  | .iod i => 32 + i.val
  | .core p _ => 48 + p.val

/-- An ordering-timeout event (R257). -/
def orderEvent (k : Clk) (c : Cmd) (port : HoldPort) (count landed : Nat) : Bytes :=
  le 1 0x31 ++ zeros 1 ++ le 1 c.part ++ le 1 (portCode port) ++ le 8 c.tag ++ le 4 count ++ le 8 k.beat ++ le 2 k.notch ++
    le 4 landed ++ zeros 2

/-- A command whose ordering times out is felled and re-queued, no core excluded; after RETRY_MAX re-runs it ends with status
ordering-timeout (R269). -/
def Dev.orderFell (d : Dev) (cid : Nat) : Dev :=
  match d.cmd cid with
  | none => d
  | some c =>
    if !c.ph.fellable then d
    else if d.retryMax ≤ c.retries then d.fell cid (.complete 8 0)
    else (d.onCmd cid (fun x => { x with attempt := x.attempt + 1, retries := x.retries + 1 })).fell cid .requeue

/-- An ordering timeout at a holding port: counted, told and its command felled (R257, R269). -/
def Dev.orderTimeout (d : Dev) (k : Clk) (cid : Nat) (port : HoldPort) (count landed : Nat) : Dev :=
  let d1 := d.bump 0xC0058
  match d1.cmd cid with
  | none => d1
  | some c => (d1.raise k c.part (orderEvent k c port count landed)).orderFell cid

/-- WRITE_LAND (R266, R267): nothing lands while another transaction is open on the line. -/
def execWriteLand (port : HoldPort) (stream addr : Nat) (mask : BitVec 128) (data : Bytes) (s : State) : Out :=
  let isCore : Bool := match port with
    | .core _ _ => true
    | _ => false
  if !isCore && (s.dev.place addr).isNone then .fault (.notHomed addr)
  else if !isCore && (s.dev.dirEnt (addr / 128)).txn.isSome then .next s
  else .next (((s.landWrite port (if isCore then addr else addr / 128 * 128) mask.toNat data).onDev (fun d => d.landOne port stream)).settlePort port)

/-- A flagged final write reaches its holding port (R267, R268): released at once, held, or queued at a full port; one with a count
of all ones is discarded and times out at once. -/
def State.finalArrive (s : State) (x : Final) : State :=
  let k := s.clk
  let s1 := s.onDev (fun d => (d.at x.since).refillFinals x.port)
  if x.count = 0xFFFFFFFF then
    s1.onDev (fun d => (d.closeStream x.port x.stream).orderTimeout k x.cid x.port x.count (d.landed x.port x.stream))
  else (s1.onDev (fun d => if d.portRoom x.port then { d with finals := d.finals ++ [x] }
    else { d with finalsQ := d.finalsQ ++ [x] })).settlePort x.port

/-- FINAL_WRITE_ARRIVE (R267, R268). -/
def execFinalWriteArrive (port : HoldPort) (stream cid : Nat) (count : Word) (addr : Nat) (mask : BitVec 128) (data : Bytes) (t : Nat)
    (s : State) : Out :=
  let isCore : Bool := match port with
    | .core _ _ => true
    | _ => false
  if !isCore && (s.dev.place addr).isNone then .fault (.notHomed addr)
  else .next (s.finalArrive ⟨port, stream, cid, count.toNat, (if isCore then addr else addr / 128 * 128), mask.toNat, data, t⟩)

/-- ORDERING_TIMEOUT (R269): 1 ms (1,600,000 ticks) after its arrival; a final write whose count has landed is released. -/
def execOrderingTimeout (port : HoldPort) (stream : Nat) (s : State) : Out :=
  let k := s.clk
  .next (s.onDev (fun d =>
    match (d.finals ++ d.finalsQ).find? (fun x => decide (x.port = port) && x.stream == stream) with
    | none => d
    | some x =>
      let n := d.landed port stream
      let d1 := (d.at (x.since + 1600000)).closeStream port stream
      (({ d1 with finals := d1.finals.erase x, finalsQ := d1.finalsQ.erase x }).orderTimeout k x.cid port x.count n).refillFinals port))

/-! ### NEAR_GIB (R273, R274) -/

/-- What bars a change of NEAR_GIB (R274). -/
def Dev.nearLocked (d : Dev) : Bool :=
  d.anyLive || d.bufs.any (fun e => e.2.valid && !isHost e.2.base) ||
    (List.range 64).any (fun r => d.rgnSt r != 0) ||
    (List.range 16).any (fun p => d.regN (ptn p + 0x318) != 0 || d.reg64 (ptn p + 0x48) != 0)

/-- An address at its place once the near windows hold `n` GiB each. -/
def Dev.moved (d : Dev) (n addr : Nat) : Nat :=
  match d.place addr with
  | some w => addrAt n w.1 w.2
  | none => addr

/-- NEAR_GIB changes: each address names its new place, which holds what it held, poison marks included, and no cache holds
anything (R274, R276). -/
def State.nearSet (s : State) (v : Word) : State :=
  let n := v.toNat
  if n = s.dev.nearGib then s.onDev (fun d => d.setReg 0xC0000 v)
  else
    let old := s.dev
    let m := s.mem.foldl (fun (a : Sparse Byte) e => writeByte a (old.moved n e.1) e.2) []
    { s with
      mem := m,
      dev := { old with poison := old.poison.map (fun l => old.moved n (128 * l) / 128), dir := [], l2 := [] }.setReg 0xC0000 v }

/-- A write of NEAR_GIB that its path lets through. -/
def State.nearWrite (s : State) (path : Path) (v : Word) : State :=
  let m := 0xC0000
  let cause := firstCause [(s.dev.nearLocked, 2), (decide (48 < fld v 0 6), 1)]
  match cause with
  | some c => s.onDev (fun d => d.onWrite path m (d.refuse path m c))
  | none =>
    let s1 := s.nearSet (v &&& 0x3F)
    { s1 with
      mem := if reaches s.dev path m && s.dev.responds path m then s1.mem else s.mem,
      dev := s.dev.onWrite path m s1.dev }

/-- NEAR_GIB_WRITE (R273, R274): locked while anything names device memory. -/
def execNearGibWrite (path : Path) (v : Word) (s : State) : Out := .next (s.nearWrite path v)

end Sys2Proof.Machine
end

