-- ==== Sys2Proof/Machine/Links.lean ====
section
/-! DEFINITION. HKL ports, flits, replays, control symbols and hop latency (R25, R26, R413 to R421, R446). -/

namespace Sys2Proof.Machine

/-- A link event on the PF's event ring (R446): type, cause, port or partition, bytes 4 to 5, 6 to 7, 8 to 15. -/
def Dev.linkEvent (d : Dev) (k : Clk) (ty cause b3 w45 w67 w8 : Nat) : Dev :=
  d.raise k pfRing (event k ty 0 cause b3 (w45 % 65536 + 65536 * w67) w8)

/-- A port moves to a state with its width and far end; a change of state raises its event (R414, R447). -/
def Dev.portTo (d : Dev) (k : Clk) (p st lanes far farPort : Nat) : Dev :=
  let old := d.portSt p
  let d1 := d.setRegN (portOff p + 4) (st + 16 * lanes + 256 * far + 65536 * farPort)
  if old = st then d1 else d1.linkEvent k 0x60 st p lanes 0 0

/-- The far end that the shape requires of a port, none where the shape has no neighbour there (R25). -/
def Dev.neighbour (d : Dev) (p : Nat) : Option Nat :=
  let a := p / 2
  let x := (coordsOf d.pkgId).getD a 0
  let s := (d.shape).getD a 1
  let wrap := flag (d.reg 0xE0008) (8 + a)
  let y : Option Nat :=
    if p % 2 = 0 then (if x + 1 < s then some (x + 1) else if wrap then some 0 else none)
    else (if 0 < x then some (x - 1) else if wrap then some (s - 1) else none)
  y.map (fun y => d.pkgId - x * 4 ^ a + y * 4 ^ a)

/-- The far end is the neighbour that R25 requires: by the declared shape on the lead, by adjacency on an axis elsewhere, where
the shape is not held (R26). -/
def State.cabled (s : State) (p farId farPort : Nat) : Bool :=
  let d := s.dev
  decide (farPort = p ^^^ 1) &&
    (if s.beat.role = .lead then d.neighbour p == some farId
     else
       let a := p / 2
       let x := (coordsOf d.pkgId).getD a 0
       let y := (coordsOf farId).getD a 0
       (List.range 3).all (fun b => b == a || (coordsOf d.pkgId).getD b 0 == (coordsOf farId).getD b 0) &&
         (if p % 2 = 0 then y == x + 1 || (y == 0 && decide (1 < x)) else y + 1 == x || (x == 0 && decide (1 < y))))

/-- A port leaves the up state: the flits of its replay buffer are lost, an XFR failure of each command with a message in one;
messages that wait take another way where there is one (R417, R423). -/
def Dev.portLoss (d : Dev) (k : Clk) (p : Nat) : Dev :=
  let x := d.port p
  let d1 := d.setPort p { x with tx := 1, rx := 0, sent := [], queue := x.queue.filter (fun m => (d.routeTo (fieldAt m.msg.hdr 2 1 % 64)).isNone) }
  let d2 := (x.queue.filter (fun m => (d.routeTo (fieldAt m.msg.hdr 2 1 % 64)).isSome)).foldl (fun a m => a.netSend m.part m.cid none m.msg) d1
  ((x.sent.filterMap (fun f => f.cid)).eraseDups).foldl (fun a cid => a.checkFail k cid 4 0xFF 0xFF) d2

/-- A port stops: its state first, then what it held. -/
def Dev.portStop (d : Dev) (k : Clk) (p st : Nat) : Dev :=
  let up := d.portSt p == 2
  let w := d.reg (portOff p + 4)
  let d1 := d.portTo k p st 0 (fld w 8 6) (fld w 16 3)
  if up then d1.portLoss k p else d1

/-- A port trains anew: as a retrain where it had trained (R414). -/
def Dev.portTrain (d : Dev) (k : Clk) (p : Nat) (again : Bool) : Dev :=
  let d1 := d.portStop k p 1
  d1.setPort p { d1.port p with again := again }

/-- 1 s in ticks. -/
def second : Nat := 1600000000

/-- A retrain has failed at tick `t`: the third within 1 s leaves the port down (R414). -/
def Dev.retrainFailed (d : Dev) (k : Clk) (p t : Nat) : Dev :=
  let x := d.port p
  let fs := t :: x.fails.filter (fun f => decide (t < f + second))
  if 3 ≤ fs.length then (d.setPort p { x with fails := [] }).portStop k p 4 else d.setPort p { x with fails := fs }

/-- A write of PORT_CTRL (R413, R414): EN set starts training, also after failed retrains; EN clear takes the port down. -/
def Dev.portCtrlWrite (d : Dev) (k : Clk) (p : Nat) (v : Word) : Dev :=
  let old := flag (d.reg (portOff p)) 0
  let st := d.portSt p
  let d1 := d.setReg (portOff p) (v &&& 1)
  if !flag v 0 then (if st = 0 then d1 else d1.portStop k p 0)
  else if !d.boot.links then d1
  else if !old || decide (st = 4) then (d1.setPort p { d1.port p with fails := [] }).portTrain k p false
  else if flag v 1 then d1.portTrain k p (decide (st = 2) || (d.port p).again)
  else d1

/-- Training is released: every enabled port starts (R413, R551). -/
def Dev.trainAll (d : Dev) (k : Clk) : Dev :=
  (List.range 6).foldl (fun a p => if flag (a.reg (portOff p)) 0 then a.portTrain k p false else a) d

/-! ### Flits (R415 to R419) -/

/-- A discarded message is counted (R419). -/
def Dev.msgError (d : Dev) : Dev := d.bump 0xE0020

/-- One flit is sent again (R417): counted, and a corrected error of its command. -/
def Dev.resend (d : Dev) (p : Nat) (f : SentFlit) : Dev :=
  let d1 := (d.bump (portOff p + 0x0C)).onCmd (f.cid.getD (2 ^ 64)) (fun x => { x with chk := { x.chk with corrected := x.chk.corrected + 1 } })
  let part := ((f.cid.bind d.cmd).map (fun c => c.part)).getD devAcct
  ({ d1 with toLink := d1.toLink ++ [.note p f.bytes] } : Dev).charge part 12 1

/-- The replay buffer is sent again from its oldest flit; a flit replayed 8 times that fails again takes the port down
(R417). -/
def Dev.replay (d : Dev) (k : Clk) (p : Nat) : Dev :=
  let x := d.port p
  if x.sent.any (fun f => decide (8 ≤ f.tries)) then d.portTrain k p true
  else x.sent.foldl (fun a f => a.resend p f) (d.setPort p { x with sent := x.sent.map (fun f => { f with tries := f.tries + 1 }) })

/-- Flits up to number `last` are acknowledged: they leave the replay buffer. -/
def Dev.acked (d : Dev) (p last : Nat) : Dev :=
  let x := d.port p
  if x.sent.any (fun f => f.seq == last) then
    d.setPort p { x with sent := (x.sent.dropWhile (fun f => f.seq != last)).drop 1 }
  else d

/-- An idle flit: an acknowledgement, or a NAK (R415, R417). -/
def Dev.ack (d : Dev) (p : Nat) (nak : Bool) : Dev :=
  ({ d with toLink := d.toLink ++ [.note p (flitOf 0 0 (d.port p).rx nak [])] } : Dev).charge devAcct 12 1

/-- The messages in the slots of a flit, with the count of those discarded: an all-zero header is an empty slot; a reserved type
and a slot count past the end are discarded (R418, R419). The first argument bounds the slots. -/
def messagesOf : Nat → Bytes → List Msg × Nat
  | 0, _ => ([], 0)
  | n + 1, bs =>
    if bs.length < 16 then ([], 0)
    else
      let hdr := bs.take 16
      let ty := fieldAt hdr 0 1
      let len := 16 * (fieldAt hdr 1 1 % 16)
      if hdr.all (fun b => b == 0) then messagesOf n (bs.drop 16)
      else if bs.length < 16 + len then ([], 1)
      else
        let r := messagesOf n (bs.drop (16 + len))
        if 1 ≤ ty ∧ ty ≤ 4 then (⟨hdr, (bs.drop 16).take len⟩ :: r.1, r.2) else (r.1, r.2 + 1)

/-- A message that arrived by a port: forwarded on, kept for this package, or discarded (R419, R422, R423). -/
def Dev.deliver (p : Nat) (d : Dev) (m : Msg) : Dev :=
  if fieldAt m.hdr 2 1 % 64 ≠ d.pkgId then d.netSend none none (some p) m
  else
    let kind := fieldAt m.hdr 8 1
    if fieldAt m.hdr 0 1 = 4 ∧ (kind = 0 ∨ 7 < kind) then d.msgError
    else { d with net := { d.net with inbox := d.net.inbox ++ [(p, m)] } }

/-- A message is acted on: it leaves what was received. -/
def Dev.msgTaken (d : Dev) (p : Nat) (m : Msg) : Dev :=
  { d with net := { d.net with inbox := d.net.inbox.erase (p, m) } }

/-! ### The role and the last link (R28, R30) -/

/-- HKL_STAND follows the role and the roster: bit 0 and the count (R447). -/
def State.standRefresh (s : State) : State :=
  s.onDev (fun d =>
    let n := ((List.range 64).filter d.onRoster).length
    d.setReg 0xE000C (setFld (setFld (d.reg 0xE000C) 0 1 (b2n (decide (s.beat.role = .lead)))) 16 7 n))

/-- HKL_STAND's no lead, lead collision and lead ID. -/
def Dev.standSet (d : Dev) (noLead coll : Bool) (lead : Nat) : Dev :=
  d.setReg 0xE000C (setFld (setFld (setFld (d.reg 0xE000C) 1 1 (b2n noLead)) 2 1 (b2n coll)) 8 6 lead)

/-- The beat source follows the role (R30, R34, R62): unlocked, learning restarts; locked, the unit goes on in holdover. -/
def State.setRole (s : State) (r : Role) : State :=
  let was := s.beat.fromLinks
  let s1 : State := State.reconflict { s with beat := { s.beat with role := r } }
  let s2 := if s1.beat.fromLinks = was then s1
    else if s1.beat.predicts then s1.toHoldover 2
    else { s1 with beat := { s1.beat with learn := none, lastEdge := none } }
  s2.standRefresh

/-- Some port is up or trains: the package has a link (R30, R447). -/
def Dev.linked (d : Dev) : Bool := (List.range 6).any (fun p => d.portSt p == 1 || d.portSt p == 2)

/-- A change of the ports: a member that loses the last of its links runs as a stand of one (R30, Where things meet of the package
chapter). -/
def State.unlink (s : State) (f : Dev → Dev) : State :=
  let s1 := s.onDev f
  if s.beat.role = .member && s.dev.linked && !s1.dev.linked then s1.setRole .alone else s1

/-- A write of PORT_CTRL on a path that reaches it. -/
def State.portWrite (s : State) (path : Path) (p : Nat) (v : Word) : State :=
  s.unlink (fun d => d.onWrite path (portOff p) (d.portCtrlWrite s.clk p v))

/-! ### Meanings -/

/-- PORT_ENABLE (R413). -/
def execPortEnable (path : Path) (port : Fin 6) (v : Word) (s : State) : Out :=
  .next (s.portWrite path port.val v)

/-- PORT_RETRAIN (R414). -/
def execPortRetrain (path : Path) (port : Fin 6) (v : Word) (s : State) : Out :=
  .next (s.portWrite path port.val v)

/-- LINK_TRAINING_TIMEOUT (R413, R414): 50 ms without a width; on a retrain it is a failed one. A port without a neighbour in the
shape the lead holds stays down and raises nothing (R25). -/
def execLinkTrainingTimeout (port : Fin 6) (s : State) : Out :=
  let p := port.val
  .next (s.unlink (fun d =>
    if d.portSt p ≠ 1 then d
    else if (d.port p).again then d.retrainFailed s.clk p d.now
    else if s.beat.role = .lead ∧ (d.neighbour p).isNone then d.setRegN (portOff p + 4) 0
    else d.portTo s.clk p 0 0 0 0))

/-- HKL_PORT_DOWN (R414): an up port retrains at once; a port that is down again while it retrains has failed a retrain. -/
def execHklPortDown (port : Fin 6) (t : Nat) (s : State) : Out :=
  let p := port.val
  .next (s.unlink (fun d0 =>
    let d := d0.at t
    if d.portSt p = 2 then d.portTrain s.clk p true
    else if d.portSt p = 1 ∧ (d.port p).again = true then d.retrainFailed s.clk p t
    else d))

/-- HKL_FLIT_RECEIVE (R415 to R419): checked, acknowledged or answered with a NAK, and its messages delivered in order. -/
def execHklFlitReceive (port : Fin 6) (flit : Bytes) (s : State) : Out :=
  let p := port.val
  let k := s.clk
  .next (s.onDev (fun d =>
    if d.portSt p ≠ 2 then d
    else if fieldAt flit 248 8 ≠ crc64 (flit.take 248) then d.ack p true
    else
      let w := fieldAt flit 0 2
      let a := fieldAt flit 2 2
      let d1 := d.acked p (a % 4096)
      let d2 := if bitAt a 12 then d1.replay k p else d1
      if w / 4096 ≠ 1 ∨ d2.portSt p ≠ 2 then d2.pump p
      else
        let x := d2.port p
        if w % 4096 = (x.rx + 1) % 4096 then
          let r := messagesOf 15 ((flit.drop 8).take 240)
          let d3 := (d2.setPort p { x with rx := w % 4096 }).ack p false
          ((Dev.bumpN r.2 (r.1.foldl (Dev.deliver p) d3) 0xE0020).pump p)
        else (d2.ack p (decide ((w % 4096 + 4096 - x.rx) % 4096 < 2048) && decide (w % 4096 ≠ x.rx))).pump p))

/-- FLIT_REPLAY_TIMEOUT (R417): 2 µs without an acknowledgement, as if a NAK had come. -/
def execFlitReplayTimeout (port : Fin 6) (s : State) : Out :=
  .next (s.onDev (fun d => if d.portSt port.val = 2 then d.replay s.clk port.val else d))

/-- PROBE (R420, R421): answered with an echo that carries the ticks from its arrival to the echo's departure. -/
def execProbe (port : Fin 6) (sym : Bytes) (t depart : Nat) (s : State) : Out :=
  .next ((s.at t).onDev (fun d =>
    if symOk sym && fieldAt sym 0 1 == 2 && d.portSt port.val == 2 then
      let b := le 1 3 ++ zeros 8 ++ le 4 (fieldAt sym 9 4) ++ le 1 (depart - t)
      d.sendSym [port.val] (b ++ le 2 (crc16 b))
    else d))

/-- ECHO (R421): the hop latency is the mean of the last 8 values of half the round trip less the turnaround. -/
def execEcho (port : Fin 6) (sym : Bytes) (t : Nat) (s : State) : Out :=
  .next ((s.at t).onDev (fun d =>
    let x := d.port port.val
    let sent := fieldAt sym 9 4
    if symOk sym && fieldAt sym 0 1 == 3 && x.probes.contains sent then
      let v := (t % 2 ^ 32 + 2 ^ 32 - sent) % 2 ^ 32 - fieldAt sym 13 1
      let l := (v :: x.lat).take 8
      (d.setPort port.val { x with lat := l, probes := x.probes.filter (· != sent) }).setRegN (portOff port.val + 8)
        (l.sum / (2 * l.length) % 2 ^ 24)
    else d))

/-- PROBE_TIMER (R421): every up port sends a probe with the timebase's low 32 bits. -/
def execProbeTimer (t : Nat) (s : State) : Out :=
  .next ((s.at t).onDev (fun d =>
    d.upPorts.foldl (fun a p =>
      let b := le 1 2 ++ zeros 8 ++ le 4 t ++ zeros 1
      (a.setPort p { a.port p with probes := ((a.port p).probes ++ [t % 2 ^ 32]) }).sendSym [p] (b ++ le 2 (crc16 b))) d))

end Sys2Proof.Machine
end

