-- ==== Sys2Proof/Machine/Stand.lean ====
section
/-! DEFINITION. The stand: joining, the roster, failed packages, lead handover and the group tables (R23 to R31, R426 to R433, R516 to R519). -/

namespace Sys2Proof.Machine

/-! ### Standing in the stand -/

/-- The lead's package ID as this package knows it. -/
def Dev.leadId (d : Dev) : Nat := fld (d.reg 0xE000C) 8 6

/-- A lead event (R446): 0 collision, 1 no lead, 2 swap done, 3 swap collision, 4 swap timeout, 5 no beat. -/
def Dev.leadEvent (d : Dev) (k : Clk) (cause other : Nat) : Dev := d.linkEvent k 0x63 cause 0 other 0 0

/-- A package's roster entry moves under a new generation (R496, R497). -/
def Dev.setPkg (d : Dev) (p st : Nat) : Dev :=
  (d.setRegN (0x160800 + 8 * p) st).setReg (0x160804 + 8 * p) (d.reg (0x160804 + 8 * p) + 1)

/-- The package is a member of the stand of lead `lead` (R27, R29, R30). -/
def State.join (s : State) (lead : Nat) (coll : Bool) : State :=
  let s1 := s.onDev (fun d => ({ d with net := { d.net with leadSeen := true } } : Dev).standSet false coll lead)
  if s1.beat.role = .member then s1.standRefresh else s1.setRole .member

/-- Roster entries of some packages (R516), two bytes each. -/
def Dev.rosterData (d : Dev) (ps : List Nat) : Bytes := ps.flatMap (fun p => le 2 (p + 256 * d.pkgState p))

/-- A roster message: byte 9 with adds and remove (R422). -/
def Dev.rosterMsg (d : Dev) (dest : Nat) (adds remove : Bool) (ps : List Nat) : Msg :=
  ctlMsg d dest 0 0 0 0x02 (le 1 (b2n adds + 2 * b2n remove)) (d.rosterData ps)

/-- The packages admitted beside this one. -/
def Dev.others (d : Dev) : List Nat := (List.range 64).filter (fun p => d.pkgState p == 1 && p != d.pkgId)

/-- A roster message to every admitted package. -/
def Dev.rosterAll (d : Dev) (adds remove : Bool) (ps : List Nat) : Dev :=
  d.others.foldl (fun a q => a.netSend none none none (d.rosterMsg q adds remove ps)) d

/-- The number of the next boundary and D, to one package (R52, R422). -/
def State.sendSync (s : State) (dest : Nat) : State :=
  let num := s.beat.numAhead (s.beat.ahead + 1)
  s.onDev (fun d => d.netSend none none none (ctlMsg d dest 0 0 0 0x01 [] (le 8 num ++ le 2 (d.regN 0x10028))))

/-- A package event (R522). -/
def Dev.pkgEvent (d : Dev) (k : Clk) (cause p sub rew inv : Nat) : Dev :=
  d.raise k pfRing (event k 0x93 0 cause p (sub % 65536 + 65536 * (rew % 256) + 16777216 * (inv % 256)) (d.regN (0x160804 + 8 * p)))

/-! ### Group tables (R429 to R432) -/

/-- The entry that a table holds once what is under way has taken effect: the generation a write must name (R432). -/
def Dev.grpLatest (d : Dev) (key : Nat) : GroupEnt :=
  match (d.net.updates.filter (fun u => u.1 == key)).getLast? with
  | some u => u.2.1
  | none => d.group key

/-- GRP_FIELDS of an entry. -/
def groupFields (e : GroupEnt) : Nat :=
  b2n e.valid + 2 * ((e.frames - 1) % 32) + 64 * ((e.members.length - 1) % 256) + 65536 * (e.axes % 8) + 524288 * (e.sub % 64)

/-- An entry from its fields. -/
def groupOf (f parts gen : Nat) (members : List Nat) : GroupEnt :=
  ⟨bitAt f 0, members, bitsAt f 16 3, bitsAt f 19 6, parts % 65536, bitsAt f 1 5 + 1, gen⟩

/-- The packages that an entry names: those of its members, or every admitted package for a family of axis groups. -/
def Dev.groupPackages (d : Dev) (key : Nat) (e : GroupEnt) : List Nat :=
  if key < 256 then (e.members.map (fun m => m / 16)).eraseDups else (List.range 64).filter d.onRoster

/-- The messages of a group update: activation beat, fields and PARTS, then up to 104 member codes from a slot on. -/
def Dev.updateMsgs (d : Dev) (dest key : Nat) (e : GroupEnt) (beat : Nat) : List Msg :=
  (List.range (max 1 (cdiv e.members.length 104))).map (fun j =>
    ctlMsg d dest 0 0 0 0x05 (le 1 key ++ le 1 (key / 256) ++ le 4 e.gen)
      (le 8 beat ++ le 4 (groupFields e) ++ le 2 e.parts ++ le 2 (104 * j) ++ ((e.members.drop (104 * j)).take 104).flatMap (le 2)))

/-- The lead gives an entry a new value: one generation on, active 16 beats later, told to every package that the old or the new
entry names (R432). -/
def State.groupAccept (s : State) (key : Nat) (e : GroupEnt) : State :=
  let beat := s.beat.num + 16
  s.onDev (fun d =>
    let old := d.grpLatest key
    let new := { e with gen := (old.gen + 1) % 2 ^ 32 }
    let dests := ((d.groupPackages key old ++ d.groupPackages key new).eraseDups).filter (fun q => q != d.pkgId && d.pkgState q == 1)
    let d1 := dests.foldl (fun a q => (d.updateMsgs q key new beat).foldl (fun b m => b.netSend none none none m) a) d
    { d1 with net := { d1.net with updates := d1.net.updates ++ [(key, new, beat)] } })

/-- What an entry breaks of Table: Group entries, the first by the order of R573: 5 a member that is not on the roster, 3 a field out
of range, 4 a duplicate member; 0 nothing. -/
def Dev.groupFault (d : Dev) (key : Nat) (e : GroupEnt) : Nat :=
  if 320 ≤ key then 3
  else if !e.valid then 0
  else if key < 256 then
    if e.members.any (fun m => !d.onRoster (m / 16)) then 5
    else if e.members.length < 2 then 3
    else if !decide e.members.Nodup then 4 else 0
  else if e.axes = 0 ∨ (List.range 3).any (fun a => decide (2 < bitsAt e.sub (2 * a) 2) || decide ((d.shape).getD a 1 < 2 ^ bitsAt e.sub (2 * a) 2)) = true
  then 3 else 0

/-- The staged entry and its key (R447). -/
def Dev.stagedGroup (d : Dev) : Nat × GroupEnt :=
  let w := d.reg 0xE1000
  let key := fld w 0 9
  let f := d.regN 0xE1008
  let ms := if key < 256 then (List.range (bitsAt f 6 8 + 1)).map (fun i => Sparse.get (fun _ => 0) d.net.gmem i) else []
  (key, groupOf f (d.regN 0xE100C) 0 ms)

/-- GRP_CMD writes the staged entry, or reads one into staging (R432, R447). -/
def State.groupCmd (s : State) (path : Path) (v : Word) : State :=
  let m := 0xE1018
  let lead := decide (s.beat.role = .lead) && s.dev.net.swap.isNone
  let (key, e) := s.dev.stagedGroup
  if flag v 0 then
    let f := s.dev.groupFault key e
    let res := if !lead then 2 else if f = 5 ∨ f = 3 then f else if s.dev.reg 0xE1004 ≠ BitVec.ofNat 32 (s.dev.grpLatest key).gen then 1 else f
    let s1 := s.onDev (fun d => d.setRegN 0xE101C res)
    if res = 0 then s1.groupAccept key e else s1.onDev (fun d => d.refuse path m (if res = 3 then 1 else if res = 5 ∨ (s.beat.role = .lead ∧ res = 2) then 2 else 4))
  else if flag v 1 then
    s.onDev (fun d =>
      if 320 ≤ key then (d.setRegN 0xE101C 3).refuse path m 1
      else
        let g := d.grpLatest key
        let d1 := (((d.setRegN 0xE101C 0).setRegN 0xE1004 g.gen).setRegN 0xE1008 (groupFields g)).setRegN 0xE100C g.parts
        let gm := (g.members.zip (List.range g.members.length)).foldl (fun a x => Sparse.put (fun _ => 0) a x.2 x.1) d1.net.gmem
        { d1 with net := { d1.net with gmem := gm } })
  else s

/-- A command register of a path: `go` where the path reaches it, it responds and its page is not locked. -/
def State.onWrite (s : State) (path : Path) (m : Nat) (go : State) : State :=
  if !reaches s.dev path m then s
  else if !s.dev.responds path m then s.onDev (fun d => d.refuse path m 3)
  else if s.dev.pageLocked m then s.onDev (fun d => d.refuse path m 2)
  else go

/-- Group entries whose activation beat has come take effect (R432). -/
def State.groupActivate (s : State) : State :=
  let due := s.dev.net.updates.filter (fun u => decide (u.2.2 ≤ s.beat.num))
  let s1 := s.onDev (fun d => { d with net := { d.net with updates := d.net.updates.filter (fun u => !decide (u.2.2 ≤ s.beat.num)) } })
  due.foldl (fun a u => a.onDev (fun d =>
    let d1 := { d with net := { d.net with groups := Sparse.put groupReset d.net.groups u.1 u.2.1 } }
    d1.linkEvent a.clk 0x64 0 0 u.1 0 (u.2.1.gen + 2 ^ 32 * (u.2.2 % 2 ^ 32)))) s1

/-! ### Failed and departed packages (R516 to R518) -/

/-- The lead rewrites or clears one table entry that names package `p` (R517): what becomes of it. -/
def Dev.remapEntry (d : Dev) (p : Nat) (e : GroupEnt) : Option GroupEnt :=
  if !e.valid || !e.members.any (fun m => m / 16 == p) then none
  else
    let w := d.reg (0x160A00 + 4 * p)
    let sub := fld w 0 6
    let ms := e.members.map (fun m => if m / 16 = p then 16 * sub + m % 16 else m)
    if flag w 8 && d.onRoster sub && decide (sub ≠ p) && decide ms.Nodup then some { e with members := ms }
    else some { e with valid := false }

/-- The lead fails a package, or takes its departure (R517). -/
def State.failPackage (s : State) (p st : Nat) : State :=
  let s1 := (s.onDev (fun d =>
    let d1 := d.setPkg p st
    d1.rosterAll false true [p])).standRefresh
  let changed := (List.range 256).filterMap (fun key => (s1.dev.remapEntry p (s1.dev.grpLatest key)).map (fun e => (key, e)))
  let s2 := changed.foldl (fun a x => a.groupAccept x.1 x.2) s1
  let w := s2.dev.reg (0x160A00 + 4 * p)
  s2.onDev (fun d => d.pkgEvent s.clk (if st = 2 then 0 else 1) p (if flag w 8 then fld w 0 6 else 0xFF)
    (changed.filter (fun x => x.2.valid)).length (changed.filter (fun x => !x.2.valid)).length)

/-- A new roster round on the lead (R516): who has missed three rounds fails, and the round's messages leave. -/
def State.rosterRound (s : State) : State :=
  let d := s.dev
  let miss := d.others.filter (fun p => !d.net.answered.contains p)
  let count := fun p => Sparse.get (fun _ => 0) d.net.missed p
  let missed := d.others.foldl (fun (a : Sparse Nat) p =>
    Sparse.put (fun _ => 0) a p (if miss.contains p then count p + 1 else 0)) d.net.missed
  let failed := d.others.filter (fun p => decide (3 ≤ Sparse.get (fun _ => 0) missed p))
  let s1 := s.onDev (fun d => { d with net := { d.net with missed := failed.foldl (fun a p => Sparse.drop a p) missed, answered := [] } })
  let s2 := failed.foldl (fun a p => a.failPackage p 2) s1
  let s3 := s2.onDev (fun d => d.rosterAll false false ((List.range 64).filter (fun p => d.pkgState p == 1)))
  s3.dev.others.foldl (fun a q => a.sendSync q) s3

/-! ### Lead handover (R426 to R428) -/

/-- A handover is in progress here, or asked for (R426). -/
def Dev.swapBusy (d : Dev) : Bool := d.net.swap.isSome || fld (d.reg 0xE0014) 0 3 == 1

/-- LEAD_SWAP_STATUS. -/
def Dev.swapStatus (d : Dev) (st : Nat) : Dev := d.setRegN 0xE0014 st

/-- The handover ends at this package with a status and its lead event. -/
def Dev.swapEnd (d : Dev) (k : Clk) (st cause other : Nat) : Dev :=
  (({ d with net := { d.net with swap := none } } : Dev).swapStatus st).leadEvent k cause other

/-- A group entry as the swap state carries it. -/
def swapEntry (key : Nat) (e : GroupEnt) : Bytes :=
  le 2 key ++ le 4 (groupFields e) ++ le 2 e.parts ++ le 4 e.gen ++ le 2 e.members.length ++ e.members.flatMap (le 2)

/-- The swap state: roster, shape, D and group tables, behind its length (R428). -/
def Dev.swapState (d : Dev) : Bytes :=
  let es := ((List.range 320).filter (fun key => decide (d.grpLatest key ≠ groupReset key))).map (fun key => swapEntry key (d.grpLatest key))
  let body := d.rosterData (List.range 64) ++ le 4 (d.regN 0xE0008) ++ le 2 (d.regN 0x10028) ++ le 2 es.length ++ es.flatten
  le 4 (body.length + 4) ++ body

/-- The entries of a swap state. The first argument bounds them. -/
def swapEntries : Nat → Bytes → List (Nat × GroupEnt)
  | 0, _ => []
  | n + 1, bs =>
    let c := fieldAt bs 12 2
    (fieldAt bs 0 2, groupOf (fieldAt bs 2 4) (fieldAt bs 6 2) (fieldAt bs 8 4) ((List.range c).map (fun i => fieldAt bs (14 + 2 * i) 2))) ::
      swapEntries n (bs.drop (14 + 2 * c))

/-- The new lead takes over what the old one held. -/
def Dev.swapTake (d : Dev) (bs : Bytes) : Dev :=
  let d1 := (List.range 64).foldl (fun a p =>
    let st := fieldAt bs (4 + 2 * p) 2 / 256 % 4
    if a.pkgState p = st then a else a.setPkg p st) d
  let d2 := (d1.setRegN 0xE0008 (fieldAt bs 132 4)).setRegN 0x10028 (fieldAt bs 136 2)
  let gs := (swapEntries (fieldAt bs 138 2) (bs.drop 140)).foldl (fun a x => Sparse.put groupReset a x.1 x.2) d2.net.groups
  { d2 with net := { d2.net with groups := gs } }

/-- The lead opens a handover to `b` (R428): the state leaves in parts of 224 bytes. -/
def State.swapOpen (s : State) (b : Nat) : State :=
  let at64 := s.beat.num + 64
  s.onDev (fun d =>
    let bs := d.swapState
    let w : Swap := ⟨true, b, at64, bs, [], false, none, none, none⟩
    let d1 := ({ d with net := { d.net with swap := some w } } : Dev).swapStatus 1
    (List.range (cdiv bs.length 224)).foldl (fun a i =>
      a.netSend none none none (ctlMsg d b 0 0 0 0x04 (le 1 i ++ zeros 2 ++ le 4 at64) ((bs.drop (224 * i)).take 224))) d1)

/-- A losing request ends with status collision: here, or at its requester, to which the lead returns it (R427). -/
def Dev.swapLose (d : Dev) (k : Clk) (r : Nat × Nat) : Dev :=
  if r.1 = d.pkgId then (d.swapStatus 3).leadEvent k 3 r.2
  else d.netSend none none none (ctlMsg d r.1 0 0 0 0x03 (le 1 r.1 ++ le 1 r.2) [])

/-- The requests of a beat are decided at its end (R427): the lowest requester's proceeds. -/
def State.swapResolve (s : State) : State :=
  let rs := s.dev.net.requests
  if s.beat.role ≠ .lead ∨ rs = [] ∨ s.dev.net.reqBeat = s.beat.num then s
  else
    let win := rs.foldl (fun a r => if r.1 < a.1 then r else a) (rs.headD (0, 0))
    let s1 := s.onDev (fun d => (rs.filter (fun r => r.1 != win.1)).foldl (fun a r => a.swapLose s.clk r) { d with net := { d.net with requests := [] } })
    s1.swapOpen (if win.1 = s.dev.pkgId then win.2 else win.1)

/-- What a handover does as beat `num` begins (R428): at S − 16 the new lead must have locked; at S the roles change. -/
def State.swapAtBeat (s : State) : State :=
  match s.dev.net.swap with
  | none => s
  | some w =>
    let k := s.clk
    let num := s.beat.num
    if num = w.beat then
      if w.isA then
        if w.agreed then
          let s1 := s.onDev (fun d => (d.swapEnd k 2 2 w.other).standSet false false w.other)
          State.standRefresh (State.reconflict { s1 with beat := { s1.beat with role := .member, delay := s1.dev.regN 0x10028, comp := [], portHops := [] } })
        else s.onDev (fun d => d.swapEnd k 4 4 w.other)
      else
        match w.agreed, w.p16 with
        | true, some p16 =>
          let s1 := s.onDev (fun d => ((d.swapTake (w.parts.flatMap (·.2))).swapEnd k 2 2 w.other).standSet false false d.pkgId)
          State.standRefresh (State.reconflict { s1 with beat := { s1.beat with role := .lead, p16 := p16, lastEdge := w.lastEdge, comp := [] } })
        | _, _ => s.onDev (fun d => d.swapEnd k 4 4 w.other)
    else if num + 16 = w.beat ∧ w.isA = false ∧ w.p16 = none then
      s.onDev (fun d => (d.netSend none none none (ctlMsg d w.other 0 0 0 0x03 (le 1 w.other ++ le 1 d.pkgId) [])).swapEnd k 6 5 w.other)
    else s

/-! ### Meanings -/

/-- HKL_IDENTITY_EXCHANGE (R26, R29): a port whose far end is not the one required is held down; two leads that meet keep the one
of the lower ID. -/
def execHklIdentityExchange (port : Fin 6) (farId : BitVec 6) (farPort : BitVec 3) (lanes : Nat) (farLead : Bool) (s : State) : Out :=
  let p := port.val
  let k := s.clk
  let far := farId.toNat
  .next (
    if s.dev.portSt p ≠ 1 then s
    else if !s.cabled p far farPort.toNat then
      s.unlink (fun d => (d.portTo k p 3 0 far farPort.toNat).linkEvent k 0x61 0 p far farPort.toNat 0)
    else
      let s1 := s.onDev (fun d =>
        let d1 := d.portTo k p 2 lanes far farPort.toNat
        (d1.setPort p { d1.port p with again := false }).pump p)
      if !farLead then s1
      else if s1.beat.role = .lead then
        if far < s1.dev.pkgId then (s1.onDev (fun d => d.leadEvent k 0 far)).join far true else s1
      else s1.onDev (fun d => ({ d with net := { d.net with leadSeen := true } } : Dev).standSet false (flag (d.reg 0xE000C) 2) far))

/-- STAND_ADMIT (R27, R518): inside the declared shape and not on the roster. A package that is not admitted keeps its links in
training. -/
def execStandAdmit (id : BitVec 6) (s : State) : Out :=
  let p := id.toNat
  let k := s.clk
  .next (
    if s.beat.role ≠ .lead ∨ s.dev.net.swap.isSome = true ∨ p = s.dev.pkgId then s
    else if s.dev.inShape p && s.dev.pkgState p == 0 then
      let again := decide (s.dev.regN (0x160804 + 8 * p) ≠ 0)
      let s1 := (s.onDev (fun d =>
        let d1 := d.setPkg p 1
        let d2 := { d1 with net := { d1.net with missed := Sparse.drop d1.net.missed p, answered := d1.net.answered ++ [p] } }
        let d3 := d2.rosterAll true false ((List.range 64).filter (fun q => d2.pkgState q == 1))
        if again then d3.pkgEvent k 2 p 0xFF 0 0 else d3)).standRefresh
      s1.sendSync p
    else
      s.onDev (fun d =>
        let d1 := d.linkEvent k 0x62 0 0 p 0 0
        if d.inShape p then d1
        else ((List.range 6).filter (fun q => d.portSt q == 2 && fld (d.reg (portOff q + 4)) 8 6 == p)).foldl (fun a q => a.portTrain k q false) d1))

/-- NO_LEAD_TIMEOUT (R30): the package goes on as a stand of one. -/
def execNoLeadTimeout (s : State) : Out :=
  .next (if s.beat.role = .alone ∧ s.dev.net.leadSeen = false ∧ s.dev.upPorts ≠ [] ∧ flag (s.dev.reg 0xE000C) 1 = false
    then s.onDev (fun d => (d.standSet true (flag (d.reg 0xE000C) 2) 0).leadEvent s.clk 1 0) else s)

/-- The entries of a roster message: package and state. -/
def rosterEntries (m : Msg) : List (Nat × Nat) :=
  ((List.range (m.data.length / 2)).map (fun i => fieldAt m.data (2 * i) 2)).filterMap (fun w =>
    if w / 256 % 4 = 0 then none else some (w % 64, w / 256 % 4))

/-- A roster message on a member: entries are taken over; its own admission joins it; a round is answered (R27, R516, R517). -/
def State.rosterMember (s : State) (m : Msg) : State :=
  let es := rosterEntries m
  let b := fieldAt m.hdr 9 1
  let lead := fieldAt m.hdr 3 1 % 64
  let own := s.dev.pkgId
  let k := s.clk
  let s1 := s.onDev (fun d => es.foldl (fun a e => if e.1 = own ∨ a.pkgState e.1 = e.2 then a else a.setPkg e.1 e.2) d)
  if bitAt b 1 then
    (s1.onDev (fun d => es.foldl (fun a e =>
      let (v, a1) := a.take 9
      a1.pkgEvent k (if e.2 = 2 then 0 else 1) e.1 (v.toNat % 65536) (v.toNat / 2 ^ 16) (v.toNat / 2 ^ 24)) d)).standRefresh
  else if es.contains (own, 1) then
    let s2 := (s1.join lead (flag (s1.dev.reg 0xE000C) 2)).onDev (fun d => if d.pkgState own = 1 then d else d.setPkg own 1)
    if bitAt b 0 then s2
    else s2.onDev (fun d => d.netSend none none none (ctlMsg d lead 0 0 0 0x02 (le 1 0) (le 2 (own + 256 * (if d.kiln.pd = 0 then 1 else 3)))))
  else s1

/-- ROSTER_MESSAGE (R516, R517): an answer or a departure on the lead, a round, an admission or a removal on a member. -/
def execRosterMessage (port : Fin 6) (m : Msg) (s : State) : Out :=
  let s0 := s.onDev (fun d => d.msgTaken port.val m)
  let src := fieldAt m.hdr 3 1 % 64
  .next (
    if s0.beat.role = .lead then
      if (rosterEntries m).contains (src, 3) then (if s0.dev.pkgState src = 1 then s0.failPackage src 3 else s0)
      else if (rosterEntries m).contains (src, 1) ∧ fieldAt m.hdr 9 1 % 4 = 0 then
        s0.onDev (fun d => { d with net := { d.net with answered := if d.net.answered.contains src then d.net.answered else d.net.answered ++ [src] } })
      else s0
    else s0.rosterMember m)

/-- A request to swap reaches the lead in this beat (R427). -/
def State.swapAsk (s : State) (r : Nat × Nat) : State :=
  s.onDev (fun d => { d with net := { d.net with requests := d.net.requests ++ [r], reqBeat := s.beat.num } })

/-- A write to LEAD_SWAP (R426, R579): refused where neither party is the lead, the other is not on the roster, or a handover is in
progress. -/
def State.leadSwap (s : State) (path : Path) (v : Word) : State :=
  let other := fld v 0 6
  let lead := decide (s.beat.role = .lead)
  let d := s.dev
  s.onWrite path 0xE0010 (
    if !flag v 8 then s
    else if d.swapBusy then s.onDev (fun d => d.refuse path 0xE0010 2)
    else if other = d.pkgId ∨ d.onRoster other = false ∨ (lead = false ∧ (s.beat.role = .alone ∨ other ≠ d.leadId)) then
      s.onDev (fun d => (d.swapStatus 5).refuse path 0xE0010 2)
    else
      let s1 := s.onDev (fun d => d.swapStatus 1)
      if lead then s1.swapAsk (d.pkgId, other)
      else s1.onDev (fun d => d.netSend none none none (ctlMsg d other 0 0 0 0x03 (le 1 d.pkgId ++ le 1 other) [])))

/-- LEAD_SWAP (R426). -/
def execLeadSwap (path : Path) (v : Word) (s : State) : Out := .next (s.leadSwap path v)

/-- SWAP_REQUEST (R427, R428): collected by the lead; one that the lead returned ends its requester's with collision, and one that
the new lead returned says that it has no beat. -/
def execSwapRequest (port : Option (Fin 6)) (m : Msg) (s : State) : Out :=
  let s0 := s.onDev (fun d => d.msgTaken (port.elim innerPort Fin.val) m)
  let r := (fieldAt m.hdr 9 1 % 64, fieldAt m.hdr 10 1 % 64)
  let k := s.clk
  .next (
    if s0.beat.role = .lead then
      match s0.dev.net.swap with
      | some w => if r.1 = s0.dev.pkgId ∧ r.2 = w.other then s0.onDev (fun d => d.swapEnd k 6 5 w.other) else s0.onDev (fun d => d.swapLose k r)
      | none => s0.swapAsk r
    else if r.1 = s0.dev.pkgId ∧ fld (s0.dev.reg 0xE0014) 0 3 = 1 ∧ s0.dev.net.swap = none then s0.onDev (fun d => (d.swapStatus 3).leadEvent k 3 r.2)
    else s0)

/-- SWAP_STATE (R428): the parts of the state gather; once whole, its digest goes back. -/
def execSwapState (port : Fin 6) (m : Msg) (s : State) : Out :=
  let src := fieldAt m.hdr 3 1 % 64
  .next (s.onDev (fun d0 =>
    let d := d0.msgTaken port.val m
    if s.beat.role ≠ .member ∨ src ≠ d.leadId then d
    else
      let n := fieldAt m.hdr 9 1
      let w : Swap := match d.net.swap with
        | some w => { w with parts := w.parts ++ [(n, m.data)] }
        | none => ⟨false, src, s.beat.num - s.beat.num % 2 ^ 32 + fieldAt m.hdr 12 4, [], [(n, m.data)], false, none, none, none⟩
      let bs := w.parts.flatMap (·.2)
      let whole := decide (fieldAt bs 0 4 ≤ bs.length) && !w.agreed
      let d1 := ({ d with net := { d.net with swap := some (if whole then { w with agreed := true } else w) } } : Dev).swapStatus 1
      if whole then d1.netSend none none none (ctlMsg d src 0 0 0 0x04 (le 1 0xFF) (le 16 (digest (bs.take (fieldAt bs 0 4))))) else d1))

/-- SWAP_STATE_DIGEST (R428): the old lead compares the digest with its own. -/
def execSwapStateDigest (g : BitVec 128) (s : State) : Out :=
  .next (s.onDev (fun d =>
    match d.net.swap with
    | some w => if w.isA ∧ digest w.sent = g.toNat then { d with net := { d.net with swap := some { w with agreed := true } } } else d
    | none => d))

/-- SWAP_TIMEOUT (R428): 100 ms without the state transferred. -/
def execSwapTimeout (s : State) : Out :=
  .next (s.onDev (fun d =>
    match d.net.swap with
    | some w => if w.agreed then d else d.swapEnd s.clk 4 4 w.other
    | none => if fld (d.reg 0xE0014) 0 3 = 1 then (({ d with net := { d.net with requests := [] } } : Dev).swapStatus 4).leadEvent s.clk 4 d.leadId else d))

/-- GROUP_UPDATE (R432): an entry, part by part, with its activation beat. -/
def execGroupUpdate (port : Fin 6) (m : Msg) (s : State) : Out :=
  let key := fieldAt m.hdr 9 1 + 256 * (fieldAt m.hdr 10 1 % 2)
  let gen := fieldAt m.hdr 11 4
  let beat := fieldAt m.data 0 8
  let f := fieldAt m.data 8 4
  let want := if key < 256 then bitsAt f 6 8 + 1 else 0
  let ms := (List.range (min 104 (want - fieldAt m.data 14 2))).map (fun i => fieldAt m.data (16 + 2 * i) 2)
  .next (s.onDev (fun d0 =>
    let d := d0.msgTaken port.val m
    if d.net.updates.any (fun u => u.1 == key && u.2.1.gen == gen) then
      { d with net := { d.net with updates := d.net.updates.map (fun u =>
          if u.1 = key ∧ u.2.1.gen = gen then (u.1, { u.2.1 with members := u.2.1.members ++ ms }, u.2.2) else u) } }
    else { d with net := { d.net with updates := d.net.updates ++ [(key, groupOf f (fieldAt m.data 12 2) gen ms, beat)] } }))

/-- GROUP_WRITE (R432): the staged entry, on the lead, at the generation named. -/
def execGroupWrite (path : Path) (s : State) : Out := .next (s.onWrite path 0xE1018 (s.groupCmd path 1))

/-- GROUP_READ (R447): an entry into staging. -/
def execGroupRead (path : Path) (s : State) : Out := .next (s.onWrite path 0xE1018 (s.groupCmd path 2))

end Sys2Proof.Machine
end

