-- ==== Sys2Proof/Machine/Collective.lean ====
section
/-! DEFINITION. The all-reduce, its allocators, messages and commit agreement, and the digest pass of every command (R33, R86, R434 to R445). -/

namespace Sys2Proof.Machine

/-! ### Chunks (R435, R436) -/

/-- A format of the integer arithmetic. -/
def isIntFmt (fmt : Nat) : Bool := fmt == 3 || fmt == 9

/-- Bytes of an element. -/
def Coll.width (x : Coll) : Nat := fmtBits x.fmt / 8

/-- Elements of a chunk. -/
def Coll.per (x : Coll) : Nat := if isIntFmt x.fmt then 8192 else 16384

/-- How many chunks the operation has. -/
def Coll.chunks (x : Coll) : Nat := cdiv x.n x.per

/-- Elements of chunk `i`. -/
def Coll.len (x : Coll) (i : Nat) : Nat := min x.n ((i + 1) * x.per) - i * x.per

/-- The byte position of chunk `i`. -/
def Coll.posOf (x : Coll) (i : Nat) : Nat := i * x.per * x.width

/-- The number of a package among the member packages. -/
def Coll.pkgIdx (x : Coll) (pkg : Nat) : Nat := x.packages.findIdx (· == pkg)

/-- The chunks that a package owns, ascending. -/
def Coll.owned (x : Coll) (pkg : Nat) : List Nat := (List.range x.chunks).filter (fun i => i % x.packages.length == x.pkgIdx pkg)

/-- The member that acts for its package as owner: its member of lowest code (R438). -/
def Coll.acts (x : Coll) : Bool := (x.members.filter (fun m => m / 16 == x.code / 16)).head? == some x.code

/-- The collective of a tag at a member of this package. -/
def Dev.collAt (d : Dev) (tag part : Nat) : Option Coll := d.net.colls.find? (fun x => x.tag == tag && x.code % 16 == part)

/-- The collective that acts as owner for a tag. -/
def Dev.collOwner (d : Dev) (tag : Nat) : Option Coll := d.net.colls.find? (fun x => x.tag == tag && x.acts)

/-- The operation's SR key (R435): bytes 0 to 7 of the digest of its identity. -/
def Coll.srKey (x : Coll) : Nat := digest (le 4 (x.key % 256) ++ le 4 (x.key / 256) ++ le 4 x.gen ++ le 4 x.num) % 2 ^ 64

/-! ### Staging (R437) -/

/-- The leading slot of chunk 0 (R443). -/
def Coll.lead (x : Coll) : Bytes := le 5 x.n ++ le 1 (x.fmt % 16 + 16 * (x.rm % 8)) ++ zeros 10

/-- Stage one contribution, at most 4 chunks ahead of the oldest not yet pulled; poison in the input is received. -/
def State.stageOne (s : State) (host : HostData) (cid : Nat) : State :=
  match s.dev.coll cid with
  | none => s
  | some x =>
    let oldest := (x.staged.map (·.1)).foldl min x.stage
    if !x.landing || decide (oldest + 4 ≤ x.stage) || decide (x.chunks ≤ x.stage) || (isHost x.inAddr && host.isEmpty) then s
    else
      let a := x.inAddr + x.posOf x.stage
      let n := x.len x.stage * x.width
      match s.dev.poisonIn [⟨0, 0, 0, n, a⟩] with
      | some line => s.onDev (fun d => d.receivePoison s.clk cid (128 * line))
      | none => s.onDev (fun d =>
        (d.chargeLines (x.code % 16) a n).setColl { x with stage := x.stage + 1, staged := x.staged ++ [(x.stage, readAny s.mem host a n)] })

/-- Stage what may be. -/
def State.stageAll : Nat → State → HostData → Nat → State
  | 0, s, _, _ => s
  | n + 1, s, host, cid => State.stageAll n (s.stageOne host cid) host cid

/-! ### The owner (R438) -/

/-- Frames that a collective's queue holds for it (R444). -/
def Dev.commHeld (d : Dev) (c : Cmd) : Nat := Sparse.get (fun _ => 0) d.net.commFrames (16 * c.part + c.ring % 16)

/-- A frame for the newest chunk: one that its communication queue holds, or a request. -/
def Dev.askFrame (d : Dev) (k : Clk) (x : Coll) (o : OwnChunk) : Dev :=
  match d.cmd x.cid with
  | none => d
  | some c =>
    let used := (x.own.filter (fun e => e.frame)).length
    if x.comm && decide (used < d.commHeld c) then d.setColl { x with own := x.own ++ [{ o with frame := true }] }
    else (d.setColl { x with own := x.own ++ [o] }).askAlloc 16 x.cid (x.code % 16) 1 k.beat

/-- The owner takes up its next chunk while it holds fewer than FRAMES and waits for none. -/
def Dev.ownNext (d : Dev) (k : Clk) (cid : Nat) : Dev :=
  match d.coll cid with
  | none => d
  | some x =>
    if !x.acts || decide (x.frames ≤ x.own.length) || x.own.any (fun o => !o.frame) then d
    else
      match (x.owned d.pkgId)[x.ownNext]? with
      | none => d
      | some i => d.askFrame k { x with ownNext := x.ownNext + 1 } ⟨i, false, 0, [], 0, []⟩

/-- Take up chunks while that is possible. -/
def Dev.ownAll : Nat → Dev → Clk → Nat → Dev
  | 0, d, _, _ => d
  | n + 1, d, k, cid => Dev.ownAll n (d.ownNext k cid) k cid

/-- A pull (Table: Message types). -/
def Dev.pullMsg (d : Dev) (x : Coll) (i member : Nat) : Msg :=
  msgOf d 2 0 (member / 16) (x.code % 16) (member % 16) 0 x.tag (le 8 (i + 2 ^ 32 * member)) []

/-- The pulls that may leave for a chunk: in fixed member order, at most 4 outstanding. -/
def Dev.sendPulls (cid : Nat) (d : Dev) (i : Nat) : Dev :=
  match d.coll cid with
  | none => d
  | some x =>
    match x.own.find? (fun o => o.idx == i) with
    | none => d
    | some o =>
      if !o.frame then d
      else
        let upto := min x.members.length (o.added + 4)
        let new := (x.members.take upto).drop o.pulled
        let d1 := d.setColl { x with own := x.own.map (fun e => if e.idx = i then { e with pulled := max e.pulled upto } else e) }
        new.foldl (fun a m => a.netSend (some (x.code % 16)) (some cid) none (a.pullMsg x i m)) d1

/-- What a collective can do now: stage, take up chunks, pull. -/
def State.collWork (s : State) (host : HostData) (cid : Nat) : State :=
  let s1 := s.stageAll 4 host cid
  s1.onDev (fun d =>
    let d1 := d.ownAll 32 s.clk cid
    (match d1.coll cid with
      | some x => x.own.map (fun (o : OwnChunk) => o.idx)
      | none => []).foldl (Dev.sendPulls cid) d1)

/-! ### Results (R435, R438, R440) -/

/-- The elements of a chunk's bytes. -/
def elemsOf (w : Nat) (bs : Bytes) (n : Nat) : List Nat := (List.range n).map (fun i => fieldAt bs (w * i) w)

/-- One member's elements enter the accumulators (Table: Reduction arithmetic). -/
def reduceStep (fmt : Nat) (first : Bool) (acc es : List Nat) : List Nat :=
  if isIntFmt fmt then
    if first then es.map (fun e => intBits 64 (intOf (fmtBits fmt) e))
    else (acc.zip es).map (fun p => intBits 64 (intOf 64 p.1 + intOf (fmtBits fmt) p.2))
  else if first then es.map (fun e => encodeTo 8 .rne 0 (valueOf fmt e))
  else (acc.zip es).map (fun p => encodeTo 8 .rne 0 (Fv.add .rne (valueOf 8 p.1) (valueOf fmt p.2)))

/-- The bytes of a chunk's sums in the input format. -/
def Coll.resultBytes (x : Coll) (i : Nat) (acc : List Nat) : Bytes :=
  let m := (rndOf x.rm).getD .rne
  (acc.zip (List.range acc.length)).flatMap (fun p =>
    le x.width (if isIntFmt x.fmt then encodeTo x.fmt .rne 0 (Fv.ofInt (intOf 64 p.1))
      else encodeTo x.fmt m (srR x.srKey (i * x.per + p.2)) (valueOf 8 p.1)))

/-- Result writes carry up to 192 bytes each. -/
def resultPieces (n : Nat) : Nat := cdiv n 192

/-- Writes of the result stream that precede the last one of chunk `i`, the owner's last. -/
def Coll.writesBefore (x : Coll) (pkg : Nat) : Nat :=
  ((x.owned pkg).map (fun j => resultPieces (x.len j * x.width))).sum - 1

/-- The messages that carry a chunk's result to a member of another package (R438, R440); where a member's output lies is not this
package's to know (site 8 of the free values). -/
def Dev.resultMsgs (d : Dev) (x : Coll) (i member share : Nat) (bs : Bytes) : List Msg :=
  let base := (Config.free 8 (65536 * x.tag + member)).toNat / 16 * 16
  let n := resultPieces bs.length
  let final := (x.owned d.pkgId).getLast? == some i
  (List.range n).map (fun j =>
    let piece := (bs.drop (192 * j)).take 192
    let fin := final && decide (j + 1 = n)
    msgOf d 1 0 (member / 16) (x.code % 16) (member % 16) (b2n fin) x.tag (le 8 (base + x.posOf i + 192 * j))
      (if fin then le 4 (x.writesBefore d.pkgId) ++ zeros 12 ++ le 16 share ++ piece else piece))

/-- Elements have been delivered to a member, with an owner's share at the end of its stream; once everything has come, its
execution ends (R374, R440). -/
def Dev.delivered (d : Dev) (cid n : Nat) (share : Option (Nat × Nat)) : Dev :=
  match d.coll cid with
  | none => d
  | some x =>
    let x1 := { x with delivered := x.delivered + n, shares := x.shares ++ share.toList }
    let d1 := (d.setColl x1).onCmd cid (fun c => { c with pos := min x1.delivered x1.n })
    if x1.n ≤ x1.delivered ∧ min x1.packages.length x1.chunks ≤ x1.shares.length then
      d1.onCmd cid (fun c => if c.ph = .running then { c with ph := .digest } else c)
    else d1

/-- A chunk's result goes to a member: written here, or sent. -/
def State.resultTo (i share : Nat) (bs : Bytes) (x : Coll) (s : State) (member : Nat) : State :=
  let own := s.dev.pkgId
  if member / 16 ≠ own then s.onDev (fun d => (d.resultMsgs x i member share bs).foldl (fun a m => a.netSend (some (x.code % 16)) (some x.cid) none m) d)
  else
    match s.dev.collAt x.tag (member % 16) with
    | none => s
    | some y =>
      let s1 := s.writeAny (s.dev.fnOf (member % 16)) (y.outAddr + x.posOf i) bs
      s1.onDev (fun d => (d.chargeLines (member % 16) (y.outAddr + x.posOf i) bs.length).delivered y.cid (x.len i) (if (x.owned own).getLast? = some i then some (own, share) else none))

/-- A chunk is complete (R438): its result goes to every member, and its frame is free again, or its queue's. -/
def State.chunkDone (s : State) (cid : Nat) (o : OwnChunk) : State :=
  match s.dev.coll cid with
  | none => s
  | some x =>
    let bs := x.resultBytes o.idx o.acc
    let share := x.share ^^^ chunkSum (x.posOf o.idx / 256) bs
    let x1 := { x with share := share, own := x.own.filter (fun e => e.idx != o.idx) }
    let s1 := s.onDev (fun d => if x.comm then d.setColl x1 else (d.setColl x1).allocGive 16 1)
    x1.members.foldl (State.resultTo o.idx share bs x1) s1

/-- The bytes of a member's contribution, none while some are missing. -/
def OwnChunk.whole (o : OwnChunk) (code n : Nat) : Option Bytes :=
  let ps := o.parts.filter (fun p => p.1 == code)
  if (ps.map (fun p => p.2.2.length)).sum < n then none
  else some ((ps.foldl (fun a p => overwrite a (16 * p.2.1) p.2.2) (zeros (n + 256))).take n)

/-- Contributions are added while the next member's, in fixed member order, is whole. -/
def Coll.absorb (x : Coll) : Nat → OwnChunk → OwnChunk
  | 0, o => o
  | f + 1, o =>
    match x.members[o.added]? with
    | none => o
    | some code =>
      match o.whole code (x.len o.idx * x.width) with
      | none => o
      | some bs =>
        Coll.absorb x f { o with added := o.added + 1, parts := o.parts.filter (fun p => p.1 != code),
                                 acc := reduceStep x.fmt (decide (o.added = 0)) o.acc (elemsOf x.width bs (x.len o.idx)) }

/-! ### Ends (R439, R441, R443) -/

/-- A collective event on the ring of the member's partition (R446): 0 mismatch, 1 a fell notice received. -/
def Dev.collEvent (d : Dev) (k : Clk) (cause : Nat) (x : Coll) : Dev :=
  match d.cmd x.cid with
  | none => d
  | some c => d.raise k c.part (event k 0x65 0 cause (c.part % 16) (x.tag % 65536) c.tag)

/-- The signatures of the members disagree (R443): the command ends check-failed, detail 5, with a FINAL event and no re-run. -/
def Dev.collMismatch (d : Dev) (k : Clk) (x : Coll) : Dev :=
  match d.cmd x.cid with
  | none => d
  | some c =>
    if !c.ph.fellable then d
    else
      let d1 := ((d.collEvent k 0 x).bump 0x80020).raise k c.part (checkFailEvent k true 5 c 0xFF 0xFF)
      (d1.collEnd x.cid false).fell x.cid (.complete 4 5)

/-- A fell notice is received (R441): the command is felled and re-run, or ends once its re-runs are used up. -/
def Dev.collFelled (d : Dev) (k : Clk) (x : Coll) : Dev :=
  match d.cmd x.cid with
  | none => d
  | some c =>
    if !c.ph.fellable then d
    else
      let d1 := (d.collEvent k 1 x).collEnd x.cid false
      if d.retryMax ≤ c.retries then d1.fell x.cid (.complete 4 5)
      else (d1.onCmd x.cid (fun x => { x with attempt := x.attempt + 1, retries := x.retries + 1 })).fell x.cid .requeue

/-- A wait in an allocator ends the collective at every member (R439): here with resource-wait, elsewhere by the fell notice. -/
def Dev.collNoRoom (d : Dev) (cid detail : Nat) : Dev :=
  match d.coll cid with
  | none => d
  | some x =>
    let rest := d.net.colls.filter (fun y => y.tag == x.tag && y.cid != cid)
    rest.foldl (fun a y => (a.collEnd y.cid false).fell y.cid (.complete 9 detail)) (d.fell cid (.complete 9 detail))

/-- Every member has passed (R441): the coordinator tells the others and commits. -/
def Dev.collAgree (d : Dev) (k : Clk) (cid : Nat) : Dev :=
  match d.coll cid with
  | none => d
  | some x =>
    if x.members.all (fun m => x.passes.contains m) && !x.agreed then
      let d1 := (d.setColl { x with agreed := true }).notifyAll x 1
      (d1.commitPoint k cid).collEnd cid false
    else d

/-- A member has passed its comparison: the coordinator notes it, another member tells the coordinator. -/
def Dev.collPass (d : Dev) (k : Clk) (cid : Nat) : Dev :=
  match d.coll cid with
  | none => d
  | some x =>
    let x1 := { x with passed := true }
    let boss := x.members.headD x.code
    if boss = x.code then (d.setColl { x1 with passes := x1.passes ++ [x.code] }).collAgree k cid
    else if x.agreed then (d.commitPoint k cid).collEnd cid false
    else (d.setColl x1).netSend none (some cid) none (noticeMsg d boss (x.code % 16) x.tag 0)

/-! ### Allocators (R33, R407, R439) -/

/-- Requesters an allocator serves (N of R33). -/
def allocN (a : Nat) : Nat := if a < 16 then 8 else 16

/-- Requests of one cycle enter the wait list in priority order, from index (beat mod N) on. -/
def Alloc.settle (x : Alloc) (a beat : Nat) : Alloc :=
  let n := allocN a
  let key (r : AllocReq) : Nat := (r.idx + n - beat % n) % n
  let new := sortBy (fun p q => decide (key p ≤ key q)) (x.wait.filter (fun r => r.new))
  { x with wait := x.wait.filter (fun r => !r.new) ++ new.map (fun r => { r with new := false }) }

/-- A frame has been granted: to the chunk that waits for it; a communication queue keeps it. -/
def Dev.frameGranted (d : Dev) (cid : Nat) : Dev :=
  match d.coll cid, d.cmd cid with
  | some x, some c =>
    let d1 := d.setColl { x with own := x.own.map (fun o => { o with frame := true }) }
    let held := if x.comm then Sparse.put (fun _ => 0) d1.net.commFrames (16 * c.part + c.ring % 16) (d1.commHeld c + 1) else d1.net.commFrames
    { d1 with net := { d1.net with commFrames := held } }
  | _, _ => d

/-- One grant of a landing or frame allocator: the head of its list, where what it asks for is free (R33). -/
def State.allocGrant (s : State) (a : Nat) : State :=
  let x := (s.dev.alloc a).settle a s.clk.beat
  let s1 := s.onDev (fun d => d.setAlloc a x)
  match x.wait with
  | [] => s1
  | r :: rest =>
    if s1.dev.allocFree a < r.n then s1
    else
      let s2 := s1.onDev (fun d =>
        let d1 := (d.setAlloc a { x with wait := rest }).allocTake a r.n
        if a < 16 then
          match d1.coll r.who with
          | some y => d1.setColl { y with landing := true }
          | none => d1
        else d1.frameGranted r.who)
      match s2.dev.cmd r.who with
      | some c => if c.ph = .running then s2.collWork [] r.who else s2
      | none => s2

/-- ALLOCATOR_GRANT (R33). -/
def execAllocatorGrant (a : AllocId) (s : State) : Out :=
  .next (match a with
  | .kv p => s.onDev (fun d => d.serveWait s.mem [] s.clk p.val 1)
  | .landing p => s.allocGrant p.val
  | .frame => s.allocGrant 16)

/-- A request waits too long (R439): its collective ends with resource-wait. -/
def Dev.allocTimeout (d : Dev) (k : Clk) (a who tmo detail : Nat) : Dev :=
  match (d.alloc a).wait.find? (fun r => r.who == who) with
  | none => d
  | some r => if r.since + tmo ≤ k.beat then d.collNoRoom who detail else d

/-- ALLOCATOR_WAIT_TIMEOUT (R33, R407, R439): a request is named by its slot, or by its collective. -/
def execAllocatorWaitTimeout (a : AllocId) (req : Nat) (s : State) : Out :=
  .next (s.onDev (fun d => match a with
  | .kv p => d.kvTimeout s.clk p.val req
  | .landing p => d.allocTimeout s.clk p.val req (fld (d.reg 0xE0018) 0 8) 2
  | .frame => d.allocTimeout s.clk 16 req (fld (d.reg 0xE001C) 0 8) 3))

/-! ### The digest pass (R63, R86, R440) -/

/-- The coverage that a command's own opcode gives it at its digest pass (Table: Required coverage). -/
def Cmd.digestCover (c : Cmd) (multi : Bool) : Nat :=
  match c.op with
  | 1 => 0x14
  | 2 => 0x94
  | 3 => 0x94
  | 5 => 0x16 + (if multi then 0x20 else 0)
  | 6 => 0x16
  | 7 => 0x14
  | _ => 0

/-- A collective's digest pass ends with its cross-check (R440, R441); a group of one has none. -/
def Dev.collCheck (d : Dev) (k : Clk) (cid out : Nat) : Dev :=
  match d.coll cid with
  | none => d
  | some x =>
    if x.members.length < 2 then (d.commitPoint k cid).collEnd cid false
    else if out ≠ (x.n * x.width) ^^^ x.shares.foldl (fun a e => a ^^^ e.2) 0 then (d.bump 0xE0024).checkFail k cid 5 0xFF 0xFF
    else d.collPass k cid

/-- The digest pass of a command is over: what it read back decides (R63, R74, R86, R374). -/
def State.digestDone (s : State) (c : Cmd) (host : HostData) : State :=
  let k := s.clk
  let d := s.dev
  let cid := c.cid
  if c.chk.zero then s.onDev (fun d => d.commitPoint k cid)
  else if c.poisoned then s.onDev (fun d => d.endInput k cid 6 0)
  else
    match d.poisonIn c.outs with
    | some _ => s.onDev (fun d => d.checkFail k cid 2 0xFF 0xFF)
    | none =>
      let plain (r : Range) : Nat := digest (readAny s.mem host r.addr r.len)
      let first := match c.outs with
        | r :: _ => plain r
        | [] => 0
      if (c.op = 2 ∨ c.op = 3) ∧ first ≠ c.srcDig then s.onDev (fun d => d.checkFail k cid 7 0xFF 0xFF)
      else
        let multi := match d.coll cid with
          | some x => decide (2 ≤ x.members.length)
          | none => false
        s.onDev (fun d =>
          let d1 := d.onCmd cid (fun x => { x with outDig := boundDigests plain c.outs, chk := { x.chk with cover := x.chk.cover ||| c.digestCover multi } })
          if c.op = 5 then d1.collCheck k cid first
          else if c.op = 6 then (d1.sigReport k c).commitPoint k cid
          else d1.commitPoint k cid)

/-- DIGEST_PASS_DONE (R86): once the command's final writes are released and its stores performed. -/
def execDigestPassDone (cid : Nat) (host : HostData) (s : State) : Out :=
  .next (match s.dev.cmd cid with
  | none => s
  | some c =>
    let waits := s.dev.stores.any (fun x => x.cid == cid) || (s.dev.finals ++ s.dev.finalsQ).any (fun x => x.cid == cid) ||
      (match s.dev.coll cid with
        | some x => x.passed
        | none => false)
    if c.ph = .digest ∧ waits = false then s.digestDone c host else s)

/-! ### Meanings of the operation and its messages -/

/-- COLLECTIVE (R435 to R438): it starts, or goes on with what it can do now. -/
def execCollective (cid : Nat) (host : HostData) (s : State) : Out :=
  let s1 := s.onDev (fun d => d.start cid 5 (fun c => d.setCmd { c with ph := .running }))
  .next (match s1.dev.cmd cid with
  | some c => if c.op = 5 ∧ c.ph = .running then s1.collWork host cid else s1
  | none => s1)

/-- A message's tag is under discard from its source (R445). -/
def Dev.discarded (d : Dev) (m : Msg) : Bool := d.net.discards.contains (fieldAt m.hdr 6 2, fieldAt m.hdr 3 1 % 64)

/-- WRITE_MESSAGE (R419, R440, R445): performed through its holding port as a write of its stream, or discarded and counted. A
collective's result is kept within its member's output range. -/
def execWriteMessage (port : Fin 6) (m : Msg) (t : Nat) (s : State) : Out :=
  let s0 := (s.onDev (fun d => d.msgTaken port.val m)).at t
  let addr := fieldAt m.hdr 8 8
  let fin := bitAt (fieldAt m.hdr 5 1) 0
  let num := fieldAt m.hdr 6 2
  let src := fieldAt m.hdr 3 1 % 64
  let dst := fieldAt m.hdr 4 1 / 16
  let coll := s0.dev.net.colls.find? (fun x => x.tag == num && x.code % 16 == dst && decide (x.outAddr ≤ addr) && decide (addr < x.outAddr + x.n * x.width))
  let skip := if fin then (if coll.isSome then 32 else 16) else 0
  let body := m.data.drop skip
  let bs := match coll with
    | some x => body.take (x.outAddr + x.n * x.width - addr)
    | none => body
  let stream := num + 65536 * src
  .next (
    if isHost addr || addr % 16 != 0 || m.data.length < 16 + skip || !(s0.dev.homed addr && s0.dev.homed (addr + bs.length - 1)) then s0.onDev Dev.msgError
    else
      let cid := match coll with
        | some x => x.cid
        | none => 2 ^ 64
      let s1 :=
        if fin then s0.finalArrive ⟨.hkl port, stream, cid, fieldAt m.data 0 4, addr, 2 ^ bs.length - 1, bs, t⟩
        else ((s0.landWrite (.hkl port) addr (2 ^ bs.length - 1) bs).onDev (fun d => d.landOne (.hkl port) stream)).settlePort (.hkl port)
      match coll with
      | some x => s1.onDev (fun d => d.delivered x.cid (bs.length / max 1 x.width) (if fin then some (src, fieldAt m.data 16 16) else none))
      | none => s1)

/-- A chunk's bytes as contributions: offset and bytes of each; the first of chunk 0 leaves room for the leading slot. -/
def contribPieces (first : Nat) : Nat → Nat → Bytes → List (Nat × Bytes)
  | 0, _, _ => []
  | n + 1, off, bs => if bs.isEmpty then [] else (off, bs.take first) :: contribPieces 224 n (off + first) (bs.drop first)

/-- PULL_MESSAGE (R437, R445): answered with the staged contribution, whose landing chunk is then free; one that is not staged yet
waits. -/
def execPullMessage (port : Option (Fin 6)) (m : Msg) (s : State) : Out :=
  let p := port.elim innerPort Fin.val
  let i := fieldAt m.hdr 8 8 % 2 ^ 27
  .next (
    if s.dev.discarded m then s.onDev (fun d => d.msgTaken p m)
    else
      match s.dev.collAt (fieldAt m.hdr 6 2) (fieldAt m.hdr 4 1 / 16) with
      | none => s
      | some x =>
        match x.staged.find? (fun e => e.1 == i) with
        | none => s
        | some (_, bs) =>
          let s1 := s.onDev (fun d =>
            let d1 := (d.msgTaken p m).setColl { x with staged := x.staged.filter (fun e => e.1 != i) }
            (contribPieces (if i = 0 then 208 else 224) (bs.length / 224 + 2) 0 bs).foldl (fun a e =>
              a.netSend (some (x.code % 16)) (some x.cid) none
                (msgOf a 3 2 (fieldAt m.hdr 3 1 % 64) (x.code % 16) (fieldAt m.hdr 4 1 % 16) 0 x.tag (le 8 (i + 2 ^ 32 * x.code + 2 ^ 48 * (e.1 / 16)))
                  (if i = 0 ∧ e.1 = 0 then x.lead ++ e.2 else e.2))) d1)
          s1.collWork [] x.cid)

/-- CONTRIBUTION_MESSAGE (R438, R443, R445): kept until its member's turn, then added; a complete chunk's result is sent. -/
def execContributionMessage (port : Option (Fin 6)) (m : Msg) (s : State) : Out :=
  let p := port.elim innerPort Fin.val
  let w := fieldAt m.hdr 8 8
  let i := w % 2 ^ 27
  let code := w / 2 ^ 32 % 2 ^ 16
  let off := w / 2 ^ 48 % 2 ^ 12
  let s0 := s.onDev (fun d => d.msgTaken p m)
  .next (
    if s.dev.discarded m then s0
    else
      match s0.dev.collOwner (fieldAt m.hdr 6 2) with
      | none => s0
      | some x =>
        match x.own.find? (fun o => o.idx == i) with
        | none => s0
        | some o =>
          let opens := decide (i = 0) && decide (off = 0)
          if opens && m.data.take 16 != x.lead then s0.onDev (fun d => (d.notifyAll x 3).collMismatch s.clk x)
          else
            let data := if opens then m.data.drop 16 else m.data
            let o1 := x.absorb x.members.length { o with parts := o.parts ++ [(code, off, data)] }
            let adds := (o1.added - o.added) * cdiv (x.len i * x.width) 128
            let s1 := s0.onDev (fun d => (d.charge (x.code % 16) 11 adds).setColl { x with own := x.own.map (fun e => if e.idx = i then o1 else e) })
            let s2 := if o1.added = x.members.length then s1.chunkDone x.cid o1 else s1
            s2.collWork [] x.cid)

/-- DISCARD_NOTICE (R270, R445): pulls and contributions of the tag are dropped, and the source's held final writes of that stream
are discarded. -/
def execDiscardNotice (port : Fin 6) (m : Msg) (t : Nat) (s : State) : Out :=
  let tag := fieldAt m.hdr 9 2
  let src := fieldAt m.hdr 3 1 % 64
  .next ((s.at t).onDev (fun d0 =>
    let d := d0.msgTaken port.val m
    let keep (e : Nat × Msg) : Bool := !(fieldAt e.2.hdr 6 2 == tag && fieldAt e.2.hdr 3 1 % 64 == src && (fieldAt e.2.hdr 0 1 == 2 || fieldAt e.2.hdr 0 1 == 3))
    let held (x : Final) : Bool := !(x.stream == tag + 65536 * src)
    let colls := d.net.colls.map (fun (x : Coll) => if x.tag = tag then { x with own := x.own.map (fun o => { o with parts := o.parts.filter (fun q => q.1 / 16 != src) }) } else x)
    let ds := if d.net.discards.contains (tag, src) then d.net.discards else d.net.discards ++ [(tag, src)]
    { d with finals := d.finals.filter held, finalsQ := d.finalsQ.filter held,
             streams := d.streams.filter (fun x => x.num != tag + 65536 * src),
             net := { d.net with inbox := d.net.inbox.filter keep, colls := colls, discards := ds } }))

/-- DISCARD_EXPIRE (R445): 1 ms without a re-run. -/
def execDiscardExpire (tag : BitVec 16) (src : BitVec 6) (s : State) : Out :=
  .next (s.onDev (fun d => { d with net := { d.net with discards := d.net.discards.filter (fun x => x != (tag.toNat, src.toNat)) } }))

/-- The collective that a notice is for: its tag, at the destination partition. -/
def Dev.noticeFor (d : Dev) (m : Msg) : Option Coll := d.collAt (fieldAt m.hdr 9 2) (fieldAt m.hdr 4 1 / 16)

/-- PASS_NOTICE (R441): the coordinator notes the member; once every member has passed, the commit follows. -/
def execPassNotice (port : Option (Fin 6)) (m : Msg) (s : State) : Out :=
  let member := 16 * (fieldAt m.hdr 3 1 % 64) + fieldAt m.hdr 4 1 % 16
  .next (s.onDev (fun d0 =>
    let d := d0.msgTaken (port.elim innerPort Fin.val) m
    match d.noticeFor m with
    | none => d
    | some x => (d.setColl { x with passes := x.passes ++ [member] }).collAgree s.clk x.cid))

/-- COMMIT_NOTICE (R441): the member may reach its commit point. -/
def execCommitNotice (port : Option (Fin 6)) (m : Msg) (s : State) : Out :=
  .next (s.onDev (fun d0 =>
    let d := d0.msgTaken (port.elim innerPort Fin.val) m
    match d.noticeFor m with
    | none => d
    | some x => if x.passed then (d.commitPoint s.clk x.cid).collEnd x.cid false else d.setColl { x with agreed := true }))

/-- FELL_NOTICE (R441). -/
def execFellNotice (port : Option (Fin 6)) (m : Msg) (s : State) : Out :=
  .next (s.onDev (fun d0 =>
    let d := d0.msgTaken (port.elim innerPort Fin.val) m
    match d.noticeFor m with
    | none => d
    | some x => d.collFelled s.clk x))

/-- MISMATCH_NOTICE (R443). -/
def execMismatchNotice (port : Option (Fin 6)) (m : Msg) (s : State) : Out :=
  .next (s.onDev (fun d0 =>
    let d := d0.msgTaken (port.elim innerPort Fin.val) m
    match d.noticeFor m with
    | none => d
    | some x => d.collMismatch s.clk x))

/-- COLLECTIVE_TIMEOUT (R442): a pull without its reply, or a pass without its commit notice, for 1 ms. -/
def execCollectiveTimeout (cid : Nat) (s : State) : Out :=
  .next (s.onDev (fun d =>
    match d.coll cid with
    | none => d
    | some x =>
      if x.own.any (fun o => decide (o.added < o.pulled)) || (x.passed && !x.agreed) then
        d.orderTimeout s.clk cid (.iod (Fin.ofNat 16 (x.code % 16))) 0 0
      else d))

end Sys2Proof.Machine
end

