-- ==== Sys2Proof/Machine/Resets.lean ====
section
/-! DEFINITION. Resets: of a partition, of the device and of the service domain, and what each clears (R466, R508 to R515, R580). -/

namespace Sys2Proof.Machine

/-! ### Aborting a partition's commands (R490, R510) -/

/-- One command ends with status aborted, by where it stands: waiting at once, granted through felling; past its commit point
it completes as it is. -/
def Dev.abortHere (d : Dev) (k : Clk) (detail : Nat) (c : Cmd) : Dev :=
  if c.ph = .waiting then (d.dropRequest c).endCmd k c.cid 0xB detail 0xFF
  else if c.ph.fellable then d.fell c.cid (.complete 0xB detail)
  else if c.ph = .felling ∨ c.ph = .draining then d.onCmd c.cid (fun x => { x with fellEnd := (match x.fellEnd with
    | .requeue => .complete 0xB detail
    | e => e) })
  else d

/-- A sequence of the serving sequencer ends aborted, outside a step (R409). -/
def Dev.abortSeq (d : Dev) (k : Clk) (detail : Nat) (c : Cmd) : Dev :=
  let sv := d.srv c.part
  match sv.seqs.find? (fun q => q.cid == c.cid) with
  | none => d.queueCompletion k c 0xB detail 0xFF
  | some q => if q.batch.isSome && sv.live.isSome then d else (d.seqLeave c.part q).queueCompletion k c 0xB detail 0xFF

/-- A command ends with status aborted, by its kind: a list and a serving step end through their live entry. -/
def Dev.abortCmd (d : Dev) (k : Clk) (detail cid : Nat) : Dev :=
  match d.cmd cid with
  | none => d
  | some c =>
    match c.kind with
    | .entry _ _ => d.abortHere k detail c
    | .step _ =>
      if (d.entryOf cid).isSome then d
      else if c.ph = .completion then d.stepFailed k c 0xB detail 0xFF
      else d.abortHere k detail c
    | .descriptor =>
      if c.op = 1 ∧ c.ph = .running then
        match d.entryOf cid with
        | some e => if e.ph = .receipt then d.onCmd cid (fun x => { x with stop := some (0xB, detail, 0xFF) }) else d
        | none => d.abortHere k detail c
      else if c.op = 7 ∧ c.ph = .running then d.abortSeq k detail c
      else d.abortHere k detail c

/-- The numbers of the commands of a partition, entries before steps before descriptors. -/
def Dev.abortOrder (d : Dev) (p : Nat) (f : Cmd → Bool) : List Nat :=
  let cs := (d.cmdsOf p).filter f
  let pick (g : CmdKind → Bool) : List Nat := (cs.filter (fun c => g c.kind)).map (fun (c : Cmd) => c.cid)
  pick (fun x => match x with
    | .entry _ _ => true
    | _ => false) ++
  pick (fun x => match x with
    | .step _ => true
    | _ => false) ++ pick (· == .descriptor)

/-- Abort the commands of a partition that `f` names. -/
def Dev.abortAll (d : Dev) (k : Clk) (p detail : Nat) (f : Cmd → Bool) : Dev :=
  (d.abortOrder p f).foldl (fun a c => a.abortCmd k detail c) d

/-! ### Partition reset (R508 to R511) -/

/-- Fetch reads in flight of a partition's rings are forgotten, and its record reads with them. -/
def Dev.stopRings (d : Dev) (p : Nat) : Dev :=
  (List.range 16).foldl (fun a i => a.setSring (16 * p + i) { a.sring (16 * p + i) with inFetch := [], reading := false }) d

/-- Steps 1 to 4 of R510 as they start; a trigger while the partition resets merges into the reset in progress (R509). -/
def State.partReset (s : State) (p trigger : Nat) : State :=
  let k := s.clk
  if s.dev.partSt p = 3 ∨ s.dev.ready = false then s
  else
    s.onDev (fun d =>
      let quiet := d.partSt p == 2
      let d1 := (({ d with resetting := Sparse.put (fun _ => 0) d.resetting p (trigger + 1 + 8 * b2n quiet) } : Dev).setPartSt p 3).partEvent k
        p 3 trigger
      let d2 := (d1.stopRings p).abortAll k p 1 (fun _ => true)
      if d2.cmds.any (fun x => x.part == p && x.ph == .receipt) then d2 else d2.sealTrigger k p 3 none)

/-- The code of a trigger (Table: Fault events). -/
def triggerCode : ResetTrigger → Nat
  | .vfFlr => 0
  | .register => 1
  | .snoopTimeout => 2

/-- PART_RESET (R510). -/
def execPartReset (p : Fin 16) (trigger : ResetTrigger) (s : State) : Out := .next (s.partReset p.val (triggerCode trigger))

/-- VF_FLR (R317, R509). -/
def execVfFlr (k : Fin 16) (s : State) : Out := .next (if s.dev.vfs then s.partReset k.val 0 else s)

/-- HOME_TIMEOUT (R255, R256, R508): a snooped partition that has not answered; with AUTO_RST it is reset at once. -/
def execHomeTimeout (addr : Nat) (p : Fin 16) (s : State) : Out :=
  match s.dev.place addr with
  | none => .fault (.notHomed addr)
  | some _ =>
    match (s.dev.dirEnt (addr / 128)).txn with
    | none => .next s
    | some t =>
      if t.wait.contains p.val || t.answered.contains p.val then
        let s1 := s.homeExpired (addr / 128) p.val
        .next (if flag (s1.dev.reg 0x160000) 8 && s1.dev.partSt p.val == 2 then s1.partReset p.val 2 else s1)
      else .next s

/-- Some record of a resetting partition is unwritten. -/
def Dev.unwritten (d : Dev) (p : Nat) : Bool :=
  (partRings p).any (fun r => !(d.dring r).wait.isEmpty) || !(d.evQ p).q.isEmpty || !(d.evQ p).src.isEmpty ||
    !(d.chain p).waiting.isEmpty || (d.chain p).signing.isSome || !(d.chain p).signed.isEmpty ||
    d.cmds.any (fun c => c.part == p && (c.ph == .receipt || c.ph == .completion))

/-- What a partition has not written is discarded: entries, events, seals, and the commands whose records they are. -/
def Dev.discardRecords (d : Dev) (p : Nat) : Dev :=
  let d1 := (partRings p).foldl (fun a r => a.setDring r { a.dring r with wait := [] }) d
  let d2 := (d1.setEvQ p (evqReset p)).setChain p { d1.chain p with waiting := [], signing := none, signed := [] }
  { d2 with cmds := d2.cmds.filter (fun c => !(c.part == p && (c.ph == .receipt || c.ph == .completion))) }

/-- PART_RESET_DRAIN_TIMEOUT (R510 step 4). -/
def execPartResetDrainTimeout (p : Fin 16) (s : State) : Out :=
  .next (s.onDev (fun d =>
    if d.partSt p.val = 3 ∧ d.unwritten p.val = true then
      let d1 := d.discardRecords p.val
      d1.putPart p.val (d1.reg (partStOff p.val) ||| 0x1000000)
    else d))

/-- Registers that a partition reset returns to their reset values (R515, R580): the PTN, QUE and BUF pages on every path but
the cone, the window and the region mask; the seal ring's; COMM_BIND. -/
def partReg (p key : Nat) : Bool :=
  let o := key % 2 ^ 24
  let page := o % 0x1000
  (pagePart o == some p && !(decide (0x20000 ≤ o) && decide (o < 0x30000) &&
      ((decide (0x40 ≤ page) && decide (page < 0x58)) || (decide (0x500 ≤ page) && decide (page < 0x508))))) ||
    (decide (0x81000 + 0x40 * p ≤ o) && decide (o < 0x81040 + 0x40 * p)) ||
    (decide (0xE4000 + 0x40 * p ≤ o) && decide (o < 0xE4040 + 0x40 * p))

/-- A line of a partition's L2 is invalidated: of a partition that was non-responsive, a modified line is set to P at home (R270). -/
def Dev.flushLine (d : Dev) (quiet : Bool) (p line : Nat) : Dev :=
  let e := d.dirEnt line
  let d1 := if quiet && d.l2St p line == .m then d.poisonLine line else d
  let sh := e.sharers.filter (· != p)
  let e1 : DirEnt := match e.st with
    | .s => { e with sharers := sh, st := (if sh.isEmpty then .i else .s) }
    | .e => if e.owner = p then { e with st := .i } else e
    | _ => e
  (d1.setL2 p line .i).setDir line e1

/-- Step 5 of R510: the L2 is handled, and every core's register files, local memory and L1 are 0. -/
def Dev.flushPart (d : Dev) (p : Nat) : Dev :=
  let quiet := decide (8 ≤ Sparse.get (fun _ => 0) d.resetting p)
  let lines := (d.l2.filter (fun e => e.1 % 16 == p)).map (fun e => e.1 / 16)
  let owned := (d.dir.filter (fun e => (e.2.st == .e && e.2.owner == p) || e.2.sharers.contains p)).map (fun e => e.1)
  let d1 := (lines ++ owned).foldl (fun a l => a.flushLine quiet p l) d
  (List.range 36).foldl (fun a l =>
    let c := a.core (36 * p + l)
    a.setCore (36 * p + l) { coreReset 0 with noCheck := c.noCheck, readyAt := c.readyAt }) d1

/-- Step 6 of R510: what Table: Reset effects returns to reset. -/
def Dev.clearPart (d : Dev) (p : Nat) : Dev :=
  let frames := (d.net.commFrames.filter (fun e => e.1 / 16 == p)).foldl (fun n e => n + e.2) 0
  let d1 := d.allocGive 16 frames
  { d1 with
    regs := d1.regs.filter (fun e => !partReg p e.1),
    shadow := d1.shadow.filter (fun e => pagePart (e.1 % 2 ^ 24) != some p),
    bufs := d1.bufs.filter (fun e => e.1 / 4096 != p),
    tally := d1.tally.filter (fun e => e.1 / 4096 != p),
    client := d1.client.filter (fun e => e.1 / 2048 != p),
    lastRing := d1.lastRing.filter (fun e => e.1 / 8 != p),
    held := d1.held.filter (fun e => e.1 / 8 != p),
    saveImg := d1.saveImg.filter (fun e => e.1 / 64 != p),
    serve := Sparse.drop d1.serve p,
    allocs := Sparse.drop d1.allocs p,
    evq := Sparse.drop d1.evq p,
    dr := d1.dr.filter (fun e => !(partRings p).contains e.1),
    sr := d1.sr.filter (fun e => e.1 / 16 != p),
    resetting := Sparse.drop d1.resetting p,
    net := { d1.net with commFrames := d1.net.commFrames.filter (fun e => e.1 / 16 != p) } }

/-- The offset of a partition's reset count. -/
def resetCntOff (p : Nat) : Nat := 0x160380 + 4 * p

/-- PART_RESET_DONE (R510 steps 5 to 7, R515): once every command of the partition has ended and its records are out. -/
def execPartResetDone (p : Fin 16) (s : State) : Out :=
  let k := s.clk
  .next (s.onDev (fun d =>
    if d.partSt p.val ≠ 3 ∨ d.cmdsOf p.val ≠ [] ∨ d.unwritten p.val = true then d
    else
      let trigger := (Sparse.get (fun _ => 0) d.resetting p.val - 1) % 8
      let d1 := (d.flushPart p.val).clearPart p.val
      let d2 := (d1.setReg (resetCntOff p.val) (d1.reg (resetCntOff p.val) + 1)).newChain k p.val
      (d2.setPartSt p.val (stateByCount (d2.workingActive p.val))).partEvent k p.val 4 trigger))

/-! ### Device reset (R512 to R515, R580) -/

/-- Registers that keep their contents when every domain but the service domain returns to reset (R513, R580): those of the
service port's path, GLB_FWVER, BOOT_STATUS and BOOT_CTRL, the SVC block, RAIL_STATUS, the core map, the stress and suspect counts, the
reset counts, and the generations of the partition entries; PKG_CAP only where the domains are gated and it goes on
responding (R535). -/
def keptReg (gating : Bool) (key : Nat) : Bool :=
  let o := key % 2 ^ 23
  key / 2 ^ 24 == 1 ||
    (key / 2 ^ 24 == 0 &&
      (o == 0x10 || o == 0x100 || o == 0x104 || (decide (0x140000 ≤ o) && decide (o < 0x150000)) || o == 0x12000C || o == 0x120008 ||
       (gating && o == 0x120020) ||
       (decide (0x161000 ≤ o) && decide (o < 0x161000 + 8 * 576)) || (decide (0x164000 ≤ o) && decide (o < 0x164000 + 8 * 576)) ||
       (decide (0x166000 ≤ o) && decide (o < 0x166000 + 4 * 576)) || (decide (0x160380 ≤ o) && decide (o < 0x1603C0)) ||
       (decide (0x160300 ≤ o) && decide (o < 0x160380) && o % 8 == 4)))

/-- Configuration space after a reset or a link down that reaches it (R313; the attribute defaults of the PCI Express base
specification: log entry 22). -/
def Dev.cfgReset (d : Dev) : Dev := { d with vfs := false, mps := 128, mrrs := 512, relaxed := true }

/-- A firmware copy left open is lost to a device reset; it fails its check (R553, Where things meet). -/
def FwCopy.closeLost : FwCopy → FwCopy
  | .written _ false => .written [] true
  | c => c

/-- Every domain but the service domain returns to its reset state (R512, R515): what remains is what R513 and R580 keep, the
outputs already made, and the model's own counters. -/
def Dev.domainReset (d : Dev) (gating : Bool) : Dev :=
  { devReset with
    now := d.now, fresh := d.fresh, resp := d.resp, nextCid := d.nextCid,
    regs := d.regs.filter (fun e => keptReg gating e.1),
    shadow := d.shadow.filter (fun e => e.1 / 2 ^ 24 == 1),
    staged := d.staged.filter (fun e => e.1 / 2 ^ 24 == 1),
    vfs := d.vfs, mps := d.mps, mrrs := d.mrrs, relaxed := d.relaxed, hostRate := d.hostRate, hostWidth := d.hostWidth,
    toHost := d.toHost, msix := d.msix, toLink := d.toLink, strapId := d.strapId, strapLead := d.strapLead, poison := d.poison,
    reasons := d.reasons, fwStress := d.fwStress, fwSuspect := d.fwSuspect, rowMap := d.rowMap, bankUsed := d.bankUsed,
    kiln := { kilnReset with tripAt := d.kiln.tripAt }, pmb := d.pmb, sinds := d.sinds,
    boot := { d.boot with up := false, locked := false, tries := 0, pcie := false, links := false,
                          fwA := FwCopy.closeLost d.boot.fwA, fwB := FwCopy.closeLost d.boot.fwB },
    svc := { d.svc with calRun := false, calBusy := false, calDue := false, trim := [], progN := 0, telN := 0 } }

/-- Bring-up restarts at stage 2 (R550): the booted-copy and copy-failed fields stay; without firmware nothing changes. -/
def Dev.bootRestart (d : Dev) : Dev :=
  let w := d.reg 0x100
  if d.boot.checked && !(flag w 9 && fld w 12 4 == 1) then d.setRegN 0x100 (2 + 2 ^ 24 * fld w 24 3) else d

/-- PWR_STATUS after a device reset: TRIP stays; in PS5 all of it does, for only WAKE leaves PS5 (R491, R580). -/
def Dev.pwrStatusReset (d : Dev) : Dev := if flag (d.reg 0x120008) 3 then d else d.setReg 0x120008 (d.reg 0x120008 &&& 4)

/-- Every partition's reset count rises by one (R514). -/
def Dev.countResets (d : Dev) : Dev :=
  (List.range 16).foldl (fun a p => a.setReg (resetCntOff p) (a.reg (resetCntOff p) + 1)) d

/-- A device reset (R512): chains close without a seal, and bring-up starts again at stage 2. -/
def State.deviceReset (s : State) : State :=
  if s.dev.boot.svcUp then
    { s with beat := beatReset, dev := ((s.dev.domainReset (flag (s.dev.reg 0x120008) 3 || s.dev.boot.due)).countResets.bootRestart).pwrStatusReset }
  else s

/-- DEV_RESET.GO (R512): configuration space stays as it is (R313). From the PF's BAR0 or the service space alone (R523). -/
def State.devResetWrite (s : State) (path : Path) (v : Word) : State :=
  if reaches s.dev path 0x160014 && flag v 0 then s.deviceReset else s

/-- DEV_RESET (R512). -/
def execDevReset (path : Path) (v : Word) (s : State) : Out := .next (s.devResetWrite path v)

/-- A reset of the host link's kind: the device resets, and configuration space with it (R313, R317). -/
def State.linkReset (s : State) : State := s.deviceReset.onDev Dev.cfgReset

/-- PF_FLR (R317): Max_Payload_Size keeps its value through a Function Level Reset, as the PCI Express base specification has it. -/
def execPfFlr (s : State) : Out :=
  .next (s.deviceReset.onDev (fun d => { d.cfgReset with mps := d.mps }))

/-- PCIE_HOT_RESET (R317). -/
def execPcieHotReset (s : State) : Out := .next s.linkReset

/-- PCIE_LINK_DOWN (R317). -/
def execPcieLinkDown (s : State) : Out := .next s.linkReset

/-! ### Power-gating and the service reset (R466, R489, R490) -/

/-- Every domain but the service domain loses its power: what it held is lost, and the host link is down (R270, R466, R489). -/
def State.gate (s : State) : State := { s with beat := beatReset, dev := ((s.dev.domainReset true).cfgReset).bootRestart }

/-- A service reset (R466, R580): what the firmware store and the pins hold remains, and counts accrued since the store's last
write are lost (R513). -/
def State.serviceReset (s : State) : State :=
  let d := s.dev
  let keep (key : Nat) : Bool :=
    key / 2 ^ 24 == 0 && ((decide (0x161000 ≤ key) && decide (key < 0x161000 + 8 * 576)) || (decide (0x160380 ≤ key) && decide (key < 0x1603C0)))
  let d1 : Dev :=
    { devReset with
      now := d.now, fresh := d.fresh, nextCid := d.nextCid, regs := d.regs.filter (fun e => keep e.1),
      hostRate := d.hostRate, hostWidth := d.hostWidth, toHost := d.toHost, msix := d.msix, toLink := d.toLink, strapId := d.strapId, strapLead := d.strapLead,
      poison := d.poison, reasons := d.reasons, fwStress := d.fwStress, fwSuspect := d.fwSuspect, rowMap := d.rowMap,
      bankUsed := d.bankUsed, boot := { bootReset with pg := d.boot.pg, fwA := d.boot.fwA, fwB := d.boot.fwB, perst := d.boot.perst } }
  let d2 := d.fwStress.foldl (fun a e => a.setReg64 (0x164000 + 8 * e.1) e.2) d1
  { s with beat := beatReset, dev := d.fwSuspect.foldl (fun a e => a.setRegN (suspectOff e.1) e.2) d2 }

end Sys2Proof.Machine
end

