-- ==== Sys2Proof/Machine/Power.lean ====
section
/-! DEFINITION. Rails, power states and floors, droop, regulator alerts, temperatures, trips, orderly power-down and wake (R286 to R289, R463 to R471, R484 to R492). -/

namespace Sys2Proof.Machine

/-- Ticks of the beat timebase in a millisecond (R34). -/
def msTicks : Nat := 1600000

/-- An event of the service domain's controllers on the PF's ring, whose queue exists while the other domains are out of reset. -/
def Dev.ioEvent (d : Dev) (k : Clk) (ev : Bytes) : Dev := if d.boot.up then d.raise k pfRing ev else d

/-- A kiln event (Table: Kiln events), to the PF's ring. -/
def Dev.kilnEvent (d : Dev) (k : Clk) (ty cause b3 w4 w8 : Nat) : Dev := d.ioEvent k (event k ty 0 cause b3 w4 w8)

/-- A quotient as a whole number: the neighbour that a free value picks where it is not exact (log entry 41). -/
def Dev.whole (d : Dev) (site : Nat) (num den : Int) : Int × Dev :=
  if num % den = 0 then (num / den, d)
  else
    let f := d.take site
    (num / den + (if f.1.getLsbD 0 then 1 else 0), f.2)

/-! ### Floors and the effective state (R471) -/

/-- No floor. -/
def floorReset : Nat → Floor := fun _ => ⟨0, false, none⟩

/-- A floor of a die: kind 0 DRAM, 1 junction, 2 droop, 3 regulator, 4 cap. -/
def Dev.floor (d : Dev) (die kind : Nat) : Floor := Sparse.get floorReset d.floors (8 * die + kind)

/-- The effective state of a die: the highest-numbered floor (R471). -/
def Dev.effState (d : Dev) (die : Nat) : Nat :=
  (List.range 5).foldl (fun a i => max a (d.floor die i).ps) (fld (d.reg 0x120004) 0 2)

/-- DIE_STATE_d shows every floor and the result; bit 24 stays (R471, R493). -/
def Dev.dieRefresh (d : Dev) (die : Nat) : Dev :=
  let off := 0x120010 + 4 * die
  let f (i : Nat) : Nat := (d.floor die i).ps
  d.setRegN off (f 4 + 2 ^ 4 * f 0 + 2 ^ 8 * f 1 + 2 ^ 12 * f 2 + 2 ^ 16 * f 3 + 2 ^ 20 * d.effState die + 2 ^ 24 * fld (d.reg off) 24 1)

/-- Replace a floor. -/
def Dev.setFloor (d : Dev) (die kind : Nat) (f : Floor) : Dev :=
  ({ d with floors := Sparse.put floorReset d.floors (8 * die + kind) f } : Dev).dieRefresh die

/-- The state that a die's clock runs. -/
def Dev.clkState (d : Dev) (die : Nat) : Nat := Sparse.get (fun _ => 0) d.kiln.clk die

/-- CLOCK_SWITCH (R469): the die's core clock runs its effective state from now on; no command and no result changes. -/
def execClockSwitch (die : Fin 4) (s : State) : Out :=
  .next (s.onDev (fun d => { d with kiln := { d.kiln with clk := Sparse.put (fun _ => 0) d.kiln.clk die.val (d.effState die.val) } }))

/-- No core of the die holds a resident block or a shadow sample. -/
def Dev.dieIdle (d : Dev) (die : Nat) : Bool :=
  d.cores.all (fun e => e.1 / 144 != die || (e.2.blocks.isEmpty && e.2.shadow.isNone))

/-- PS4_ENTRY (R470): a die idle for IDLE_US. -/
def execPs4Entry (die : Fin 4) (s : State) : Out :=
  .next (s.onDev (fun d => if d.ready && d.dieIdle die.val then d.orReg (0x120010 + 4 * die.val) (2 ^ 24) else d))

/-! ### Rails (R463 to R466) -/

/-- PENDING shows the rails that are not good. -/
def Dev.pending (d : Dev) : Dev := d.setReg 0x12000C (setFld (d.reg 0x12000C) 0 12 (2 ^ 12 - 1 - d.boot.pg.toNat))

/-- PG_GOOD (R465): after 10 ms high. -/
def execPgGood (rail : Fin 12) (s : State) : Out :=
  .next (s.onDev (fun d =>
    let d1 := { d with boot := { d.boot with pg := d.boot.pg ||| (1 <<< rail.val : BitVec 12) } }
    if d1.boot.svcUp then d1.pending else d1))

/-- PG_LOST (R465, R466): a lost PG_SVC or PG_IO resets the whole device, another lost rail is a power fault, which latches. -/
def execPgLost (rail : Fin 12) (t : Nat) (s : State) : Out :=
  let s1 := s.onDev (fun d => { d.at t with boot := { d.boot with pg := d.boot.pg &&& ~~~(1 <<< rail.val : BitVec 12) } })
  .next (
    if s.dev.boot.pg.getLsbD rail.val = false then s.at t
    else if rail.val < 2 then s1.serviceReset
    else if s.dev.boot.svcUp then
      s1.gate.onDev (fun d => ({ d.pending with boot := { d.boot with due := true } } : Dev).orReg 0x12000C (2 ^ 13 + 2 ^ (16 + rail.val)))
    else s1)

/-- PG_GLITCH (R465): a low of less than 2 µs on a good input is ignored and counted. -/
def execPgGlitch (rail : Fin 12) (s : State) : Out :=
  .next (s.onDev (fun d => if d.boot.pg.getLsbD rail.val then d.bump 0x120408 else d))

/-- RAIL_LATE_TIMEOUT (R465): 1 s after the service domain has left reset. -/
def execRailLateTimeout (s : State) : Out :=
  .next (s.onDev (fun d => if d.boot.svcUp && d.boot.pg != BitVec.allOnes 12 then d.orReg 0x12000C (2 ^ 12) else d))

/-- SERVICE_RESET_RELEASE (R464, R549): PG_SVC and PG_IO are good; the firmware check, stage 1, begins. -/
def execServiceResetRelease (t : Nat) (s : State) : Out :=
  .next (s.onDev (fun d0 =>
    let d := d0.at t
    if !d.boot.svcUp && d.boot.pg.getLsbD 0 && d.boot.pg.getLsbD 1 then
      (({ d with boot := { d.boot with svcUp := true } } : Dev).setRegN 0x100 1).pending
    else d))

/-! ### Droop (R484) -/

/-- A die that never drooped. -/
def droopReset : Nat → Droop := fun _ => ⟨none, 0, 0, 0, 0⟩

/-- The droop state of a die. -/
def Dev.droop (d : Dev) (die : Nat) : Droop := Sparse.get droopReset d.kiln.droop die

/-- Replace it. -/
def Dev.setDroop (d : Dev) (die : Nat) (x : Droop) : Dev :=
  { d with kiln := { d.kiln with droop := Sparse.put droopReset d.kiln.droop die x } }

/-- DROOP_DETECT (R484): the core clock period of the die stretches; each stretch counts once. -/
def execDroopDetect (die : Fin 4) (t : Nat) (s : State) : Out :=
  .next (s.onDev (fun d0 =>
    let d := d0.at t
    let x := d.droop die.val
    if d.ready && x.on.isNone then (d.setDroop die.val { x with on := some t }).bump 0x120404 else d))

/-- Ticks of the interval in which the clock has been stretched by tick `t`. -/
def Droop.upTo (x : Droop) (t : Nat) : Nat :=
  x.sum + (match x.on with
    | some o => t - max o x.start
    | none => 0)

/-- DROOP_RELEASE (R484): every detector has read above the threshold for 100 ns. -/
def execDroopRelease (die : Fin 4) (t : Nat) (s : State) : Out :=
  .next (s.onDev (fun d0 =>
    let d := d0.at t
    let x := d.droop die.val
    if x.on.isSome then d.setDroop die.val { x with on := none, sum := x.upTo t } else d))

/-- DROOP_FLOOR_STEP (R484): an interval of 1 ms ends. Stretched for more than 5 % of it, the floor rises; stretched for at most
1 % of ten such intervals, it falls (log entry 40). -/
def execDroopFloorStep (die : Fin 4) (t : Nat) (s : State) : Out :=
  let k := s.clk
  .next (s.onDev (fun d0 =>
    let d := d0.at t
    let i := die.val
    let x := d.droop i
    let n := x.upTo t
    let f := d.floor i 2
    if t < x.start + msTicks then d
    else if t - x.start < 20 * n then
      let d1 := d.setDroop i { x with sum := 0, start := t, run := 0, runN := 0 }
      if f.ps < 3 then (d1.setFloor i 2 { f with ps := f.ps + 1 }).kilnEvent k 0x80 4 i 0 0 else d1
    else if x.runN + 1 < 10 then d.setDroop i { x with sum := 0, start := t, run := x.run + n, runN := x.runN + 1 }
    else
      let d1 := d.setDroop i { x with sum := 0, start := t, run := 0, runN := 0 }
      if 100 * (x.run + n) ≤ 10 * msTicks ∧ 0 < f.ps then (d1.setFloor i 2 { f with ps := f.ps - 1 }).kilnEvent k 0x80 5 i 0 0 else d1))

/-! ### VR_ALERT_N (R485, R486, R542) -/

/-- An input that has never been asserted. -/
def vrReset : Nat → VrIn := fun _ => ⟨false, 0, false, false⟩

/-- A VR_ALERT_N input. -/
def Dev.vr (d : Dev) (g : Nat) : VrIn := Sparse.get vrReset d.kiln.vr g

/-- Replace it. -/
def Dev.setVr (d : Dev) (g : Nat) (x : VrIn) : Dev := { d with kiln := { d.kiln with vr := Sparse.put vrReset d.kiln.vr g x } }

/-- The dies a group acts on (R485). -/
def vrDies (g : Nat) : List Nat := if g < 4 then [g] else [0, 1, 2, 3]

/-- The rails of an alert group (Table: Rails). -/
def vrRails (g : Nat) : List Nat := if g < 4 then [2 + g] else if g = 4 then [6, 7] else [8, 9, 10, 11]

/-- The offset of PMB_RAIL_r. -/
def railOff (r : Nat) : Nat := 0x140200 + 0x10 * r

/-- A rail is polled (R540). -/
def Dev.railEn (d : Dev) (r : Nat) : Bool := flag (d.reg (railOff r)) 7

/-- The next transaction of the PMBus controller, when none is in progress: alert reads, then the manual command, then the
round (R540, R542). -/
def Dev.pmbNext (d : Dev) : Dev :=
  let x := d.pmb
  if x.cur.isSome then d
  else
    match x.alerts, x.manual, x.round with
    | (g, r) :: rest, _, _ => { d with pmb := { x with cur := some ⟨.alert g, r, 0x79⟩, alerts := rest } }
    | [], some (r, c), _ => { d with pmb := { x with cur := some ⟨.manual, r, c⟩, manual := none } }
    | [], none, some o =>
      match o.todo with
      | (r, c) :: rest => { d with pmb := { x with cur := some ⟨.round, r, c⟩, round := some { o with todo := rest } } }
      | [] => d
    | [], none, none => d

/-- VR_ALERT_ASSERT (R485, R542): the floor of the dies concerned goes to PS3, STATUS_WORD of the group's enabled rails is read,
and the event follows the first that is not 0. -/
def execVrAlertAssert (g : Fin 6) (t : Nat) (s : State) : Out :=
  let k := s.clk
  .next (s.onDev (fun d0 =>
    let d := d0.at t
    let x := d.vr g.val
    if !d.ready || x.low then d
    else
      let rails := (vrRails g.val).filter d.railEn
      let d1 := (vrDies g.val).foldl (fun a i => a.setFloor i 3 ⟨3, true, none⟩) (d.bump 0x120400)
      let d2 := d1.setVr g.val { x with low := true, said := false, due := !rails.isEmpty }
      if rails.isEmpty then d2.kilnEvent k 0x81 0 g.val 0 0
      else ({ d2 with pmb := { d2.pmb with alerts := d2.pmb.alerts ++ rails.map (fun r => (g.val, r)) } } : Dev).pmbNext))

/-- Some asserted input holds the regulator floor of a die. -/
def Dev.vrHeld (d : Dev) (die : Nat) : Bool := (List.range 6).any (fun g => (d.vr g).low && (vrDies g).contains die)

/-- VR_ALERT_RELEASE (R485): the floor stays for 10 ms. -/
def execVrAlertRelease (g : Fin 6) (t : Nat) (s : State) : Out :=
  let k := s.clk
  .next (s.onDev (fun d0 =>
    let d := d0.at t
    let x := d.vr g.val
    if !x.low then d
    else
      let d1 := d.setVr g.val { x with low := false, released := t }
      let d2 := (vrDies g.val).foldl (fun a i =>
        if a.vrHeld i then a else a.setFloor i 3 { a.floor i 3 with since := some (t + 10 * msTicks) }) d1
      d2.kilnEvent k 0x81 1 g.val 0 0))

/-- VR_FLOOR_STEP (R485): after its hold the floor falls one state, and one more every 10 ms. -/
def execVrFloorStep (die : Fin 4) (t : Nat) (s : State) : Out :=
  .next (s.onDev (fun d0 =>
    let d := d0.at t
    let f := d.floor die.val 3
    match f.since with
    | none => d
    | some u =>
      if t < u ∨ d.vrHeld die.val = true then d
      else if f.ps ≤ 1 then d.setFloor die.val 3 ⟨0, false, none⟩
      else d.setFloor die.val 3 { f with ps := f.ps - 1, since := some (u + 10 * msTicks) }))

/-- VR_ALERT_STUCK (R486): asserted for 1 s, said once. -/
def execVrAlertStuck (g : Fin 6) (s : State) : Out :=
  let k := s.clk
  .next (s.onDev (fun d =>
    let x := d.vr g.val
    if x.low && !x.said then (d.setVr g.val { x with said := true }).kilnEvent k 0x81 2 g.val 0 0 else d))

/-! ### Thermal trip (R489) -/

/-- The device trips: every domain but the service domain is power-gated, THERM_TRIP_N asserts and TRIP latches. A power-down
in progress stays incomplete (R489, Where things meet). -/
def State.trip (s : State) (t : Nat) : State :=
  let inc := decide (s.dev.kiln.pd ≠ 0) || flag (s.dev.reg 0x120008) 1
  s.gate.onDev (fun d =>
    ({ d with kiln := { d.kiln with tripAt := some t }, boot := { d.boot with trip := true } } : Dev).setRegN 0x120008 (2 * b2n inc + 4 + 8))

/-! ### Sensors -/

/-- A sensor as the model numbers it reads a valid temperature, in 0.1 °C (R286). -/
def validTemp (x : Option Int) : Option Int :=
  match x with
  | some v => if -400 ≤ v ∧ v ≤ 1500 then some v else none
  | none => none

/-- The highest of some temperatures. -/
def hottest : List Int → Option Int
  | [] => none
  | x :: r => match hottest r with
    | some y => some (max x y)
    | none => some x

/-- A temperature in whole °C (log entry 41). -/
def Dev.wholeTemp (d : Dev) (v : Int) : Int × Dev := d.whole 11 v 10

/-- A signed number as the low bits of a word. -/
def signedBits (w : Nat) (v : Int) : Nat := (v % (2 ^ w : Int)).toNat

/-- The thermal run of a sensor group as reset leaves it. -/
def heatReset : Nat → Heat := fun _ => ⟨0, 0, 0⟩

/-- A thermal run. -/
def Dev.heatOf (d : Dev) (key : Nat) : Heat := Sparse.get heatReset d.heat key

/-- Replace it. -/
def Dev.setHeat (d : Dev) (key : Nat) (h : Heat) : Dev := { d with heat := Sparse.put heatReset d.heat key h }

/-- A thermal floor follows a sample: hot raises it at once and then every 1 ms, cool lowers it every 10 ms (R288, R488).
`was` is whether the last sample was hot, `cooled` whether it was cool. -/
def Floor.sample (f : Floor) (t : Nat) (was cooled hot cool : Bool) : Floor :=
  if hot then (if f.active && was then f else ⟨min 3 (f.ps + 1), true, some (t + msTicks)⟩)
  else if f.active && cool then (if cooled && f.since.isSome then f else { f with since := some (t + 10 * msTicks) })
  else { f with since := none }

/-- A thermal floor steps at its timer (R288, R488). -/
def Floor.step (f : Floor) (t : Nat) (hot cool : Bool) : Floor :=
  match f.since with
  | none => f
  | some u =>
    if t < u then f
    else if hot then { f with ps := min 3 (f.ps + 1), since := some (u + msTicks) }
    else if cool then (if f.ps ≤ 1 then ⟨0, false, none⟩ else { f with ps := f.ps - 1, since := some (u + 10 * msTicks) })
    else f

/-! ### DRAM layers (R286 to R289) -/

/-- The layers of a die at or above, and at or below, a temperature. -/
def Dev.layerHot (d : Dev) (die : Nat) : Bool := (List.range 8).any (fun l => decide (1000 ≤ (d.heatOf (8 * die + l)).temp))
/-- Every layer of a die reads 97 °C or less. -/
def Dev.layerCool (d : Dev) (die : Nat) : Bool := (List.range 8).all (fun l => decide ((d.heatOf (8 * die + l)).temp ≤ 970))

/-- The refresh multiplier as a power of two (Table: Refresh scaling). -/
def refreshMult (m : Nat) (v : Int) : Nat :=
  if 950 ≤ v then 2 else if m = 2 ∧ 930 ≤ v then 2 else if 850 ≤ v then 1 else if 0 < m ∧ 830 ≤ v then 1 else 0

/-- A thermal memory event: layer, end, sensor fault, sensor (Table: Memory events). -/
def Dev.thermalEvent (d : Dev) (k : Clk) (die detail : Nat) : Dev := d.raise k pfRing (memEvent k 0x43 0 0 die 0 0 detail)

/-- One layer's sample: sensors said at fault once, its temperature, its multiplier and its run at 105 °C or more. -/
def Dev.sampleLayer (d : Dev) (k : Clk) (temps : List (Option Int)) (die l : Nat) : Dev :=
  let no (i : Nat) : Nat := 4 * (8 * die + l) + i
  let rd := (List.range 4).map (fun i => (i, validTemp ((temps[no i]?).getD none)))
  let bad := (rd.filter (fun x => x.2.isNone)).map (fun x => x.1)
  let d1 := bad.foldl (fun a i =>
    if a.sensorSaid.contains (no i) then a
    else ({ a with sensorSaid := a.sensorSaid ++ [no i] } : Dev).thermalEvent k die (l + 16 + 32 * i)) d
  let v := (hottest (rd.filterMap (fun x => x.2))).getD 1000
  let h := d1.heatOf (8 * die + l)
  d1.setHeat (8 * die + l) ⟨v, if 1050 ≤ v then min 2 (h.hot + 1) else 0, refreshMult h.mult v⟩

/-- The layer of a die that reads highest, the lowest of equals. -/
def Dev.hotLayer (d : Dev) (die : Nat) : Nat :=
  (List.range 8).foldl (fun a l => if (d.heatOf (8 * die + a)).temp < (d.heatOf (8 * die + l)).temp then l else a) 0

/-- MEM_TEMP_d shows the hottest layer, the highest multiplier and throttling (R306). -/
def Dev.memTemp (d : Dev) (die : Nat) : Dev :=
  let l := d.hotLayer die
  let v := d.wholeTemp (d.heatOf (8 * die + l)).temp
  let m := (List.range 8).foldl (fun a i => max a (d.heatOf (8 * die + i)).mult) 0
  v.2.setRegN (memDie die) (signedBits 8 v.1 + 2 ^ 8 * l + 2 ^ 11 * m + 2 ^ 13 * b2n (d.floor die 0).active)

/-- A die's layers are sampled. -/
def Dev.sampleDie (d : Dev) (k : Clk) (temps : List (Option Int)) (t die : Nat) : Dev :=
  let was := d.layerHot die
  let cooled := d.layerCool die
  let d1 := (List.range 8).foldl (fun a l => a.sampleLayer k temps die l) d
  let f := d1.floor die 0
  let f' := f.sample t was cooled (d1.layerHot die) (d1.layerCool die)
  let d2 := d1.setFloor die 0 f'
  let d3 := if !f.active && f'.active then d2.thermalEvent k die (d2.hotLayer die) else d2
  d3.memTemp die

/-- DRAM_THERMAL_SAMPLE (R286 to R289): sensors in ascending die, layer and sensor, in 0.1 °C. -/
def execDramThermalSample (temps : List (Option Int)) (t : Nat) (s : State) : Out :=
  let k := s.clk
  .next (
    if !s.dev.ready then s.at t
    else
      let s1 := s.onDev (fun d => (List.range 4).foldl (fun a i => a.sampleDie k temps t i) (d.at t))
      if (List.range 32).any (fun i => decide (2 ≤ (s1.dev.heatOf i).hot)) then s1.trip t else s1)

/-- DRAM_THROTTLE_STEP (R288). -/
def execDramThrottleStep (die : Fin 4) (t : Nat) (s : State) : Out :=
  let k := s.clk
  .next (s.onDev (fun d0 =>
    let d := d0.at t
    let i := die.val
    let f := d.floor i 0
    let f' := f.step t (d.layerHot i) (d.layerCool i)
    if f' = f then d
    else
      let d1 := d.setFloor i 0 f'
      if f'.active then d1 else (d1.thermalEvent k i (d1.hotLayer i + 8)).memTemp i))

/-! ### Junctions (R487 to R489) -/

/-- JT_THROTTLE in 0.1 °C. -/
def Dev.jtThrottle (d : Dev) : Int := 10 * (fld (d.reg 0x120034) 0 8 : Int)

/-- The reading of a junction sensor with its trim, and JT_THROTTLE for an invalid one (R487, R560). Sensors are numbered die by
die, 16 each, then the IOD's 8. -/
def Dev.junction (d : Dev) (temps : List (Option Int)) (no : Nat) : Option Int :=
  match (temps[no]?).getD none with
  | some v => validTemp (some (v + Sparse.get (fun _ => 0) d.svc.trim no))
  | none => none

/-- A sensor set is sampled: a sensor at fault is said once, the hottest reading is kept, and which sensors read 110 °C or more. -/
def Dev.sampleSet (d : Dev) (k : Clk) (temps : List (Option Int)) (set n : Nat) : Dev :=
  let rd := (List.range n).map (fun i => (i, d.junction temps (16 * set + i)))
  let d1 := rd.foldl (fun a x =>
    if x.2.isSome || a.sensorSaid.contains (1000 + 16 * set + x.1) then a
    else ({ a with sensorSaid := a.sensorSaid ++ [1000 + 16 * set + x.1] } : Dev).kilnEvent k 0x86 0 set x.1 0) d
  let vs := rd.map (fun x => (x.1, x.2.getD d.jtThrottle))
  let mask := (vs.filter (fun x => decide (1100 ≤ x.2))).foldl (fun a x => a + 2 ^ x.1) 0
  d1.setHeat (64 + set) ⟨(hottest (vs.map (fun x => x.2))).getD 0, mask, 0⟩

/-- A die's junction condition: hot by its own sensors or the IOD's, cool by its own (R488). -/
def Dev.jHot (d : Dev) (die : Nat) : Bool :=
  decide (d.jtThrottle ≤ (d.heatOf (64 + die)).temp) || decide (d.jtThrottle ≤ (d.heatOf 68).temp)
/-- Every sensor of the die reads JT_THROTTLE − 3 °C or less. -/
def Dev.jCool (d : Dev) (die : Nat) : Bool := decide ((d.heatOf (64 + die)).temp ≤ d.jtThrottle - 30)

/-- A die's junction floor follows a sample. -/
def Dev.jFloor (d old : Dev) (k : Clk) (t die : Nat) : Dev :=
  let f := d.floor die 1
  let f' := f.sample t (old.jHot die) (old.jCool die) (d.jHot die) (d.jCool die)
  let d1 := d.setFloor die 1 f'
  if !f.active && f'.active then d1.kilnEvent k 0x80 2 die 0 0 else d1

/-- JUNCTION_SAMPLE (R487 to R489): two consecutive samples of a sensor at 110 °C or more trip the device. -/
def execJunctionSample (temps : List (Option Int)) (t : Nat) (s : State) : Out :=
  let k := s.clk
  .next (
    if !s.dev.ready then s.at t
    else
      let d0 := s.dev.at t
      let d1 := (List.range 5).foldl (fun a i => a.sampleSet k temps i (if i < 4 then 16 else 8)) d0
      let d2 := (List.range 4).foldl (fun a i => a.jFloor d0 k t i) d1
      let s1 := s.onDev (fun _ => d2)
      if (List.range 5).any (fun i => (d0.heatOf (64 + i)).hot &&& (d1.heatOf (64 + i)).hot != 0) then s1.trip t else s1)

/-- JUNCTION_FLOOR_STEP (R488). -/
def execJunctionFloorStep (die : Fin 4) (t : Nat) (s : State) : Out :=
  let k := s.clk
  .next (s.onDev (fun d0 =>
    let d := d0.at t
    let i := die.val
    let f := d.floor i 1
    let f' := f.step t (d.jHot i) (d.jCool i)
    if f' = f then d
    else
      let d1 := d.setFloor i 1 f'
      if f'.active then d1 else d1.kilnEvent k 0x80 3 i 0 0))

/-! ### Orderly power-down and wake (R490, R491) -/

/-- Commands that a power-down ends at its start (R490 step 1): those not granted, saved kernels among them, the serving
sequences with the step that runs them, and a list between two entries. -/
def Dev.pdFirst (d : Dev) (c : Cmd) : Bool :=
  c.ph == .waiting || c.ph == .saved || c.ph == .saving || c.op == 7 || d.inStep c ||
    (decide (c.op = 1) && c.kind == .descriptor && c.ph == .running && !c.entryLive)

/-- A list goes on with its granted entry and ends after it; a parking kernel runs on (R490). -/
def Dev.pdLists (d : Dev) : Dev :=
  { d with cmds := d.cmds.map (fun (c : Cmd) =>
      if c.op = 1 ∧ c.kind = .descriptor ∧ c.entryLive = true then { c with stop := some (0xB, 2, 0xFF) }
      else if c.ph = .parking then { c with ph := .running } else c) }

/-- Every chain without a command that may still commit is sealed (R96, R490 step 3). -/
def Dev.pdSeal (d : Dev) (k : Clk) : Dev :=
  (List.range 16).foldl (fun a p =>
    if a.cmds.any (fun x => x.part == p && x.ph != .completion && x.ph != .felling && x.ph != .draining) then a
    else a.sealTrigger k p 3 none) d

/-- An orderly power-down starts (R490 step 1); one in progress goes on. -/
def Dev.powerdown (d : Dev) (k : Clk) : Dev :=
  if d.kiln.pd ≠ 0 ∨ flag (d.reg 0x120008) 3 = true then d
  else
    let d1 := ({ d with kiln := { d.kiln with pd := 1 } } : Dev).orReg 0x120008 1
    let d2 := d1.kilnEvent k 0x84 0 0 0 0
    let d3 := (List.range 16).foldl (fun a p => (a.stopRings p).abortAll k p 2 a.pdFirst) d2
    d3.pdLists.pdSeal k

/-- A write to PWR_CMD (R490, R491, R493, R566): codes 0 and 3 are refused; WAKE is taken through the service space, in PS5, and
60 s after a trip at the earliest. -/
def State.pwrCmd (s : State) (path : Path) (v : Word) (t : Nat) : State :=
  let code := fld v 0 2
  let k := s.clk
  s.onDev (fun d0 =>
    let d := d0.at t
    let ps5 := flag (d.reg 0x120008) 3
    let early := match d.kiln.tripAt with
      | some u => decide (t < u + 60000 * msTicks)
      | none => false
    d.onWrite path 0x120000
      (if code = 1 then d.powerdown k
       else if code = 2 then
         d.guard path 0x120000 (firstCause [(path != .svc, 3), (!ps5 || early, 2)])
           (((d.setReg 0x120008 (d.reg 0x120008 &&& 4)).countResets).bootRestart)
       else d.refuse path 0x120000 1))

/-- POWERDOWN (R490): the write that carries the code. -/
def execPowerdown (path : Path) (v : Word) (s : State) : Out := .next (s.pwrCmd path v s.dev.now)

/-- WAKE (R491): bring-up runs from stage 2, as after a device reset. -/
def execWake (path : Path) (v : Word) (t : Nat) (s : State) : Out := .next (s.pwrCmd path v t)

/-- PD_BUDGET_EXPIRE (R490 steps 2 and 3, R513): commands short of their commit point are felled and aborted, the chains sealed,
and the stress and suspect counts written to the firmware store. -/
def execPdBudgetExpire (s : State) : Out :=
  let k := s.clk
  .next (s.onDev (fun d =>
    if d.kiln.pd ≠ 1 then d
    else
      let d1 := (List.range 16).foldl (fun a p => a.abortAll k p 2 (fun _ => true)) { d with kiln := { d.kiln with pd := 2 } }
      (d1.pdSeal k).saveCounts))

/-- The package enters PS5 (R490 step 5): the host link and the HKL ports go down, and the service domain alone is powered. -/
def State.enterPs5 (s : State) (inc : Bool) : State :=
  (s.onDev Dev.saveCounts).gate.onDev (fun d => d.setReg 0x120008 ((d.reg 0x120008 &&& 4) ||| BitVec.ofNat 32 (8 + 2 * b2n inc)))

/-- Every store has been performed, every held final write released or timed out, and every record written (R270). -/
def Dev.drained (d : Dev) : Bool :=
  d.stores.isEmpty && d.finals.isEmpty && d.finalsQ.isEmpty && (List.range 16).all (fun p => !d.unwritten p)

/-- A chain has receipts beyond its last seal. -/
def Dev.unsealed (d : Dev) (p : Nat) : Bool :=
  match (d.chain p).log with
  | (top, _) :: _ => decide ((d.chain p).sealedTo < top)
  | [] => false

/-- POWERDOWN_DRAIN_DONE (R490 steps 3 to 5): with every command ended, chains still open are sealed first. -/
def execPowerdownDrainDone (s : State) : Out :=
  let k := s.clk
  .next (
    if s.dev.kiln.pd = 0 ∨ (s.dev.cmds.any (fun c => c.ph != .completion)) = true then s
    else if (List.range 16).any s.dev.unsealed then s.onDev (fun d => d.pdSeal k)
    else if s.dev.drained then s.enterPs5 (flag (s.dev.reg 0x120008) 1) else s)

/-- PD_DRAIN_TIMEOUT (R490 steps 4 and 5): records still unwritten are discarded, and PD_INCOMPLETE sets. -/
def execPdDrainTimeout (s : State) : Out :=
  .next (
    if s.dev.kiln.pd = 0 ∨ (s.dev.kiln.pd = 1 ∧ (s.dev.cmds.any (fun c => c.ph != .completion && c.ph != .receipt)) = true) then s
    else if (List.range 16).any s.dev.unwritten then s.enterPs5 true else s)

end Sys2Proof.Machine
end

