-- ==== Sys2Proof/Machine/Energy.lean ====
section
/-! DEFINITION. Caps, the energy model and cones, the PMBus controller, and the calibration of the model (R472 to R483, R539 to R542). -/

namespace Sys2Proof.Machine

/-! ### The model (R468, R476 to R479) -/

/-- σ of a state in 1/256 (Table: Power states). -/
def sigma (ps : Nat) : Nat :=
  if ps = 0 then (if Config.isC then 218 else 256) else if ps = 1 then 218 else if ps = 2 then 179 else if ps = 3 then 128 else 154

/-- Coefficient number `i` of Table: Model coefficients. -/
def coefOff (i : Nat) : Nat := if i < 8 then 0x120100 + 4 * i else 0x120120 + 4 * (i - 8)

/-- An activity count of the period: account and kind. -/
def Dev.activity (d : Dev) (acct kind : Nat) : Nat := Sparse.get (fun _ => 0) d.kiln.cnt (16 * acct + kind)

/-- The core terms of an account, in fJ: products by format, and group instructions. -/
def Dev.coreFj (d : Dev) (acct : Nat) : Nat := (List.range 9).foldl (fun a i => a + d.activity acct i * d.regN (coefOff i)) 0

/-- The other dynamic terms, in fJ: bulk, narrow, requests and flits. -/
def Dev.restFj (d : Dev) (acct : Nat) : Nat :=
  d.activity acct 9 * d.regN (coefOff 9) + d.activity acct 10 * d.regN (coefOff 10) + d.activity acct 11 * d.regN (coefOff 11) +
    d.activity acct 12 * d.regN (coefOff 12)

/-- The dynamic energy of an account before the gain, in 2⁻¹² fJ; `sg` is σ. -/
def Dev.dynFj (d : Dev) (acct sg : Nat) : Nat := 16 * (sg * d.coreFj acct + 256 * d.restFj acct)

/-- The static energy of a partition of a die before the gain, in 2⁻¹² fJ: σ_c of the die's state, PS4 included, over 100 µs; a
quarter of the die's and a sixteenth of the IOD's static power. -/
def Dev.statFj (d : Dev) (die : Nat) : Nat :=
  sigma (d.dieState die) * (4 * d.regN (coefOff 13) + d.regN (coefOff 14)) * 100000000

/-- 1 µJ in 2⁻²⁸ fJ. -/
def coneUnit : Nat := 1000000000 * 2 ^ 28

/-- Gains a and b, unsigned 16.16. -/
def Dev.gainA (d : Dev) : Nat := d.regN 0x120144
/-- Gain b. -/
def Dev.gainB (d : Dev) : Nat := d.regN 0x120148

/-- The accumulator of an account: its register and its wrap counter (R478, R493). -/
def coneOff (acct : Nat) : Nat × Nat := (0x120200 + 8 * acct, 0x120300 + 4 * acct)

/-- Add energy in 2⁻²⁸ fJ to an account's cone; what stays below 1 µJ is carried. The whole cones added. -/
def Dev.addCone (d : Dev) (acct e : Nat) : Nat × Dev :=
  let v := Sparse.get (fun _ => 0) d.kiln.res acct + e
  let n := v / coneUnit
  (n, ({ d with kiln := { d.kiln with res := Sparse.put (fun _ => 0) d.kiln.res acct (v % coneUnit) } } : Dev).accumulate
    (coneOff acct).1 (coneOff acct).2 n)

/-- The cones of the period for accounts 0 to n − 1, added, with the energies of the model before the gains. -/
def Dev.addCones : Nat → Dev → List Nat × Dev
  | 0, d => ([], d)
  | n + 1, d =>
    let r := Dev.addCones n d
    let die := n / 4
    let dev := n == 16
    let dy := d.dynFj n (if dev then 256 else sigma (d.effState die))
    let st := if dev then 0 else d.statFj die
    let c := r.2.addCone n (d.gainB * dy + d.gainA * st)
    (r.1 ++ [c.1], { c.2 with kiln := { c.2.kiln with st := c.2.kiln.st + st, dy := c.2.kiln.dy + dy } })

/-! ### Caps (R472 to R474) -/

/-- The effective cap in hundredths of the cap: the guard is 8 % in calibration stages 0 and 3 (R473, R480). -/
def Dev.guardPct (d : Dev) : Nat := if fld (d.reg 0x120140) 0 2 = 0 ∨ fld (d.reg 0x120140) 0 2 = 3 then 92 else 100

/-- Consecutive low periods of a partition, or of the package (16). -/
def Dev.lowRun (d : Dev) (i : Nat) : Nat := Sparse.get (fun _ => 0) d.kiln.low i

/-- Set them. -/
def Dev.setLow (d : Dev) (i n : Nat) : Dev := { d with kiln := { d.kiln with low := Sparse.put (fun _ => 0) d.kiln.low i n } }

/-- The cap floor of a die moves by one state, with its event. -/
def Dev.capStep (d : Dev) (k : Clk) (die : Nat) (up : Bool) : Dev :=
  let f := d.floor die 4
  (d.setFloor die 4 { f with ps := (if up then f.ps + 1 else f.ps - 1) }).kilnEvent k 0x80 (if up then 0 else 1) die 0 0

/-- The package cap (R473): the hottest die below PS3 slows, or after ten low periods the coolest die above PS0 speeds up. Ties go
to the lowest die. -/
def Dev.packageCap (d : Dev) (k : Clk) (cones : List Nat) : Dev :=
  let power (die : Nat) : Nat := (List.range 4).foldl (fun a i => a + cones.getD (4 * die + i) 0) 0
  let total := cones.foldl (fun a x => a + x) 0
  let lim := d.guardPct * d.regN 0x120020
  if lim < total then
    let d1 := d.setLow 16 0
    match argMax power ((List.range 4).filter (fun i => decide ((d.floor i 4).ps < 3))) with
    | some i => d1.capStep k i true
    | none => d1
  else if 100 * total ≤ 95 * lim then
    if d.lowRun 16 + 1 < 10 then d.setLow 16 (d.lowRun 16 + 1)
    else
      let d1 := d.setLow 16 0
      match argMin power ((List.range 4).filter (fun i => decide (0 < (d.floor i 4).ps))) with
      | some i => d1.capStep k i false
      | none => d1
  else d.setLow 16 0

/-- The offset of PART_DUTY_n. -/
def dutyOff (p : Nat) : Nat := 0x120080 + 4 * p

/-- A duty event, to the PF's ring and the partition's (R492). -/
def Dev.dutyEvent (d : Dev) (k : Clk) (p cause : Nat) : Dev :=
  (d.kilnEvent k 0x80 cause p 0 0).raise k p (event k 0x80 0 cause p 0 0)

/-- A partition's cap moves its issue duty (R474); with no cap every period counts as low (log entry 42). -/
def Dev.partCap (d : Dev) (k : Clk) (p cones : Nat) : Dev :=
  let cap := fld (d.reg (0x120040 + 4 * p)) 0 11
  let lim := d.guardPct * cap
  let duty := d.regN (dutyOff p)
  if cap ≠ 0 ∧ lim < cones then
    let d1 := (d.setLow p 0).setRegN (dutyOff p) (max 1 (duty - 1))
    if duty = 16 then d1.dutyEvent k p 6 else d1
  else if cap = 0 ∨ 100 * cones ≤ 95 * lim then
    if d.lowRun p + 1 < 10 then d.setLow p (d.lowRun p + 1)
    else
      let d1 := (d.setLow p 0).setRegN (dutyOff p) (min 16 (duty + 1))
      if duty = 15 then d1.dutyEvent k p 7 else d1
  else d.setLow p 0

/-- A quiescent window begins in a period at whose end no engine holds a granted command and no core a block (R481). -/
def Dev.quietNow (d : Dev) : Bool :=
  d.cmds.all (fun c => c.ph == .waiting || c.ph == .saved || c.ph == .receipt || c.ph == .completion) &&
    d.cores.all (fun e => e.2.blocks.isEmpty)

/-- CONTROL_PERIOD (R473 to R478): a period of 100 µs ends. -/
def execControlPeriod (s : State) : Out :=
  let k := s.clk
  .next (s.onDev (fun d =>
    if !d.boot.up then d
    else
      let r := Dev.addCones 17 d
      let d1 := r.2.packageCap k r.1
      let d2 := (List.range 16).foldl (fun a p => a.partCap k p (r.1.getD p 0)) d1
      let x := d2.kiln
      { d2 with kiln := { x with cnt := [], periods := x.periods + 1,
                                 quiet := (if d2.quietNow && x.quiet.isNone then some (x.periods + 1) else x.quiet),
                                 quietN := (if d2.quietNow && x.quiet.isNone then [] else x.quietN) } }))

/-! ### Calibration stages (R479 to R483) -/

/-- A calibration event, with the gains. -/
def Dev.calEvent (d : Dev) (k : Clk) (cause : Nat) : Dev := d.kilnEvent k 0x82 cause (d.regN 0x120140) d.gainA d.gainB

/-- Enter a stage of Table: Calibration stages; a change is said. -/
def Dev.calStage (d : Dev) (k : Clk) (n : Nat) : Dev :=
  if d.regN 0x120140 = n then d else (d.setRegN 0x120140 n).calEvent k 0

/-- A write of a coefficient: taken, and calibration returns to stage 0 with a = b = 1 (R479). -/
def Dev.coefWrite (d : Dev) (k : Clk) (path : Path) (i : Nat) (v : Word) : Dev :=
  d.onWrite path (coefOff i)
    ((((d.setReg (coefOff i) v).setRegN 0x120144 0x10000).setRegN 0x120148 0x10000).calStage k 0)

/-- COEFFICIENT_WRITE (R479). -/
def execCoefficientWrite (path : Path) (i : Fin 15) (v : Word) (s : State) : Out :=
  .next (s.onDev (fun d => d.coefWrite s.clk path i.val v))

/-- A quotient in 16.16 (log entry 41). -/
def Dev.round16 (d : Dev) (num den : Int) : Nat × Dev :=
  let x := d.whole 12 (num * 65536) den
  (x.1.toNat, x.2)

/-- 0.5 ≤ num ÷ den ≤ 2, for a positive den. -/
def gainOk (num den : Int) : Bool := decide (den ≤ 2 * num) && decide (num ≤ 2 * den)

/-- A gain register lies from 0.5 to 2.0. -/
def gainRegOk (g : Nat) : Bool := decide (0x8000 ≤ g) && decide (g ≤ 0x20000)

/-- A fit outside the range is rejected, counted and said (R480). -/
def Dev.fitRejected (d : Dev) (k : Clk) : Dev := (d.bump 0x12040C).calEvent k 1

/-- QUIESCENT_FIT (R481): rounds of a window of at least 5 ms give a_new; a moves a quarter of the way, and stage 1 is entered. -/
def execQuiescentFit (s : State) : Out :=
  let k := s.clk
  .next (s.onDev (fun d =>
    let x := d.kiln
    let long := match x.quiet with
      | some q => decide (q + 50 ≤ x.periods)
      | none => true
    let ss : Int := x.quietN.foldl (fun a r => a + (r.st : Int)) 0
    let num : Int := x.quietN.foldl (fun a r => a + ((r.pm : Int) * 65536 - (d.gainB : Int) * (r.dy : Int))) 0
    let den := ss * 65536
    if x.quietN = [] ∨ long = false ∨ ss ≤ 0 then d
    else
      let d1 := { d with kiln := { x with quietN := [], quiet := none } }
      if gainOk num den && gainRegOk d.gainB then
        let g := d1.round16 (3 * (d.gainA : Int) * den + 65536 * num) (4 * 65536 * den)
        (g.2.setRegN 0x120144 g.1).calStage k 1
      else d1.fitRejected k))

/-- CAL_B_FIT (R482): once per second in stage 1, from the rounds in which D ≥ 0.1 S. -/
def execCalBFit (s : State) : Out :=
  let k := s.clk
  .next (s.onDev (fun d =>
    let rs := d.kiln.secN.filter (fun r => decide (r.st ≤ 10 * r.dy))
    let d1 := { d with kiln := { d.kiln with secN := [] } }
    let dd : Int := rs.foldl (fun a r => a + (r.dy : Int)) 0
    let num : Int := rs.foldl (fun a r => a + ((r.pm : Int) * 65536 - (d.gainA : Int) * (r.st : Int))) 0
    let den := dd * 65536
    if d.regN 0x120140 ≠ 1 ∨ dd ≤ 0 then d1
    else if gainOk num den && gainRegOk d.gainA then
      let g := d1.round16 (3 * (d.gainB : Int) * den + 65536 * num) (4 * 65536 * den)
      g.2.setRegN 0x120148 g.1
    else d1.fitRejected k))

/-- A sum over some rounds. -/
def sumOf (rs : List Sample) (f : Sample → Int) : Int := rs.foldl (fun a r => a + f r) 0

/-- CAL_REGRESSION (R483): least squares over the rounds of the window of 10 s. -/
def execCalRegression (s : State) : Out :=
  let k := s.clk
  .next (s.onDev (fun d =>
    let rs := d.kiln.winN
    let d1 := { d with kiln := { d.kiln with winN := [] } }
    let st := d.regN 0x120140
    let p (r : Sample) : Int := r.pm
    let x (r : Sample) : Int := r.st
    let y (r : Sample) : Int := r.dy
    let n : Int := rs.length
    let xx := sumOf rs (fun r => x r * x r)
    let xy := sumOf rs (fun r => x r * y r)
    let yy := sumOf rs (fun r => y r * y r)
    let xp := sumOf rs (fun r => x r * p r)
    let yp := sumOf rs (fun r => y r * p r)
    let sy := sumOf rs y
    let sp := sumOf rs p
    let det := xx * yy - xy * xy
    let na := xp * yy - yp * xy
    let nb := yp * xx - xp * xy
    let spread := decide (sy * sy ≤ 400 * (n * yy - sy * sy))
    let res := sumOf rs (fun r => let e := p r * det - na * x r - nb * y r; e * e)
    let close := decide (10000 * n * res ≤ 9 * sp * sp * det * det)
    if (st ≠ 2 ∧ st ≠ 3) ∨ det ≤ 0 ∨ spread = false then d1
    else if !(gainOk na det && gainOk nb det) then d1.fitRejected k
    else if !close then d1
    else
      let ga := d1.round16 na det
      let gb := ga.2.round16 nb det
      ((gb.2.setRegN 0x120144 ga.1).setRegN 0x120148 gb.1).calStage k 2))

/-- CAL_STAGE_TIMEOUT (R480): 60 s in stage 1 without a quiescent window, or 600 s in stage 2 or 0 without an accepted fit. -/
def execCalStageTimeout (s : State) : Out :=
  let k := s.clk
  .next (s.onDev (fun d =>
    match d.regN 0x120140 with
    | 1 => d.calStage k 2
    | 0 => d.calStage k 3
    | 2 => d.calStage k 3
    | _ => d))

/-! ### PMBus (R467, R475, R539 to R542) -/

/-- LINEAR11: exponent and mantissa (R539). -/
def linear11 (w : BitVec 16) : Int × Int :=
  let n := fld (w.zeroExtend 32) 11 5
  let y := fld (w.zeroExtend 32) 0 11
  (if 16 ≤ n then (n : Int) - 32 else n, if 1024 ≤ y then (y : Int) - 2048 else y)

/-- A LINEAR11 value in 2⁻¹⁶ units. -/
def linear16th (w : BitVec 16) : Int :=
  let x := linear11 w
  x.2 * 2 ^ (x.1 + 16).toNat

/-- READ_VOUT in 2⁻¹⁶ V, by the rail's VEXP (R539). -/
def Dev.vout16 (d : Dev) (r : Nat) (w : BitVec 16) : Nat :=
  let e := fld (d.reg (railOff r)) 8 5
  w.toNat * 2 ^ (if 16 ≤ e then e - 16 else e + 16)

/-- A value in 2⁻¹⁶ units as a multiple of 1 ÷ `per` (log entry 41). -/
def Dev.scaled (d : Dev) (v16 : Int) (per : Nat) : Int × Dev := d.whole 13 (v16 * per) 65536

/-- A power in 2⁻³² W in whole W (log entry 41). -/
def Dev.watts (d : Dev) (p32 : Nat) : Nat × Dev :=
  let x := d.whole 13 p32 4294967296
  (x.1.toNat, x.2)

/-- The nominal level of a rail in mV, and IMAX in A. -/
def Dev.nominal (d : Dev) (r : Nat) : Nat := fld (d.reg (railOff r)) 16 16
/-- IMAX of a rail. -/
def Dev.imax (d : Dev) (r : Nat) : Nat := fld (d.reg (railOff r + 4)) 0 16

/-- A value that a reading returned lies in its range (R541). -/
def Dev.inRange (d : Dev) (r code : Nat) (w : BitVec 16) : Bool :=
  match code with
  | 0x8B => decide (d.vout16 r w * 1000 ≤ 2 * d.nominal r * 65536)
  | 0x8C => decide (-(d.imax r : Int) * 65536 ≤ 20 * linear16th w) && decide (4 * linear16th w ≤ 5 * (d.imax r : Int) * 65536)
  | 0x88 => decide (0 ≤ linear16th w) && decide (linear16th w ≤ 20 * 65536)
  | 0x8D => decide (-40 * 65536 ≤ linear16th w) && decide (linear16th w ≤ 150 * 65536)
  | _ => true

/-- A passing reading updates PMB_V_r or PMB_I_r (R541, R548). -/
def Dev.reading (d : Dev) (r code : Nat) (w : BitVec 16) : Dev :=
  let v := railOff r + 8
  let i := railOff r + 0xC
  match code with
  | 0x8B => let x := d.scaled (d.vout16 r w) 1000; x.2.setReg v (setFld (x.2.reg v) 0 16 (signedBits 16 x.1))
  | 0x8C => let x := d.scaled (linear16th w) 10; x.2.setReg i (setFld (x.2.reg i) 0 16 (signedBits 16 x.1))
  | 0x88 => let x := d.scaled (linear16th w) 100; x.2.setReg v (setFld (x.2.reg v) 16 16 (signedBits 16 x.1))
  | 0x8D => let x := d.scaled (linear16th w) 1; x.2.setReg i (setFld (x.2.reg i) 16 16 (signedBits 16 x.1))
  | _ => d

/-- A failed reading: counted, the round is no longer valid, and the third in a row of its rail is said once (R541, R547). -/
def Dev.readFailed (d : Dev) (k : Clk) (r code cause : Nat) : Dev :=
  let x := d.pmb
  let n := Sparse.get (fun _ => 0) x.fails r + 1
  let d1 := ({ d with pmb := { x with fails := Sparse.put (fun _ => 0) x.fails r (min 3 n),
                                      round := x.round.map (fun (o : PmbRound) => { o with ok := false }) } } : Dev).bump 0x140114
  if 3 ≤ n ∧ x.said.contains r = false then
    ({ d1 with pmb := { d1.pmb with said := d1.pmb.said ++ [r] } } : Dev).ioEvent k (event k 0xA1 0 r cause code 0)
  else d1

/-- A reading passed: its rail's run of failures ends. -/
def Dev.readPassed (d : Dev) (r : Nat) : Dev :=
  { d with pmb := { d.pmb with fails := Sparse.drop d.pmb.fails r, said := d.pmb.said.filter (· != r) } }

/-- A VOUT more than 10 % from the rail's nominal level is said, and its round excluded (R467). -/
def Dev.disagree (d : Dev) (k : Clk) (r : Nat) (w : BitVec 16) : Dev :=
  let v : Int := 10000 * (d.vout16 r w : Int)
  let nom : Int := 65536 * (d.nominal r : Int)
  if v < 9 * nom ∨ 11 * nom < v then
    let mv := d.scaled (d.vout16 r w) 1000
    let d1 := mv.2.kilnEvent k 0x85 0 r (signedBits 32 mv.1) 0
    { d1 with pmb := { d1.pmb with round := d1.pmb.round.map (fun (o : PmbRound) => { o with ok := false }) } }
  else d

/-- A reading of the round ends (R540, R541): VOUT is kept for the product with the IOUT that follows. -/
def Dev.roundReading (d : Dev) (k : Clk) (r code : Nat) (reply : PmbReply) : Dev :=
  match reply with
  | .word w =>
    let d0 := if code = 0x8B then d.disagree k r w else d
    if d0.inRange r code w then
      let d1 := (d0.readPassed r).reading r code w
      let v := d1.vout16 r w
      { d1 with pmb := { d1.pmb with round := d1.pmb.round.map (fun (o : PmbRound) =>
          if code = 0x8B then { o with v16 := v }
          else if code = 0x8C then { o with sum := o.sum + (o.v16 : Int) * linear16th w } else o) } }
    else d0.readFailed k r code 3
  | .nack => d.readFailed k r code 0
  | .pec => d.readFailed k r code 1
  | .timeout => d.readFailed k r code 2
  | .sent => d

/-- Modelled energy in 2⁻¹² fJ over `n` periods as power in 2⁻³² W, rounded down. -/
def powerOf (e n : Nat) : Nat := e * 2 ^ 32 / (4096 * 100000000000 * n)

/-- CONE_MEAS gains the energy that a valid round stands for, PMB_ROUND ms at P_m; what stays below 1 µJ is carried (R478, log entry 43). -/
def Dev.measured (d : Dev) (pm : Nat) : Dev :=
  let v := Sparse.get (fun _ => 0) d.kiln.res 17 + pm * fld (d.reg 0x140104) 0 10 * 1000
  ({ d with kiln := { d.kiln with res := Sparse.put (fun _ => 0) d.kiln.res 17 (v % 2 ^ 32) } } : Dev).accumulate
    (coneOff 17).1 (coneOff 17).2 (v / 2 ^ 32)

/-- P_m above PKG_CAP in three consecutive valid rounds raises every die's cap floor (R475). -/
def Dev.overrun (d : Dev) (k : Clk) (pm : Nat) : Dev :=
  let cap := d.regN 0x120020
  let n := if cap * 2 ^ 32 < pm then d.kiln.overs + 1 else 0
  if n < 3 then { d with kiln := { d.kiln with overs := n } }
  else
    let d1 := (List.range 4).foldl (fun a i => a.setFloor i 4 { a.floor i 4 with ps := min 3 ((a.floor i 4).ps + 1) })
      { d with kiln := { d.kiln with overs := 0 } }
    let w := d1.watts pm
    w.2.kilnEvent k 0x83 0 0 w.1 cap

/-- A round has ended (R475, R480, R541): a valid one that took at most 4 ms gives a sample. -/
def Dev.roundEnd (d : Dev) (k : Clk) (o : PmbRound) : Dev :=
  let d1 := ({ d with pmb := { d.pmb with round := none } } : Dev).bump 0x140110
  let n := d.kiln.periods - o.period
  if !o.ok || n = 0 || decide (40 < n) || !d.boot.up then d1
  else
    let pm := o.sum.toNat
    let x : Sample := ⟨pm, powerOf (d.kiln.st - o.st) n, powerOf (d.kiln.dy - o.dy) n⟩
    let quiet := match d.kiln.quiet with
      | some q => decide (q + 10 ≤ o.period)
      | none => false
    let kn := d1.kiln
    let d2 := { d1 with kiln := { kn with pm := pm, secN := kn.secN ++ [x], winN := kn.winN ++ [x],
                                          quietN := (if quiet then kn.quietN ++ [x] else kn.quietN) } }
    (d2.measured pm).overrun k pm

/-- PMBUS_ROUND_START (R540): VOUT and IOUT of every enabled rail, then VIN and temperature of one in rotation. A round still
running makes this one skip. -/
def execPmbusRoundStart (s : State) : Out :=
  .next (s.onDev (fun d =>
    let rails := (List.range 12).filter d.railEn
    if !flag (d.reg 0x140100) 0 || d.pmb.round.isSome then d
    else
      match rails.head? with
      | none => d
      | some r0 =>
        let r := (rails.find? (fun x => decide (d.pmb.turn ≤ x))).getD r0
        let todo := rails.flatMap (fun x => [(x, 0x8B), (x, 0x8C)]) ++ [(r, 0x88), (r, 0x8D)]
        ({ d with pmb := { d.pmb with turn := r + 1,
                                      round := some ⟨todo, true, d.kiln.periods, d.kiln.st, d.kiln.dy, 0, 0⟩ } } : Dev).pmbNext))

/-- An alert read ends: the event takes the first word that is not 0, or the last read's 0 (R485). -/
def Dev.alertRead (d : Dev) (k : Clk) (g r : Nat) (reply : PmbReply) : Dev :=
  let more := d.pmb.alerts.any (fun x => x.1 == g)
  let say (a : Dev) (w : Nat) : Dev :=
    if (a.vr g).due && (decide (w ≠ 0) || !more) then (a.setVr g { a.vr g with due := false }).kilnEvent k 0x81 0 g w 0 else a
  match reply with
  | .word w => say (d.readPassed r) w.toNat
  | .nack => say (d.readFailed k r 0x79 0) 0
  | .pec => say (d.readFailed k r 0x79 1) 0
  | .timeout => say (d.readFailed k r 0x79 2) 0
  | .sent => say d 0

/-- PMB_RESULT of a manual command (R548). -/
def pmbResult : PmbReply → Nat
  | .word w => w.toNat + 2 * 2 ^ 16
  | .sent => 2 * 2 ^ 16
  | .nack => 3 * 2 ^ 16
  | .pec => 4 * 2 ^ 16
  | .timeout => 5 * 2 ^ 16

/-- PMBUS_TRANSACTION_DONE (R467, R475, R485, R541, R542). -/
def execPmbusTransactionDone (r : PmbReply) (s : State) : Out :=
  let k := s.clk
  .next (s.onDev (fun d =>
    match d.pmb.cur with
    | none => d
    | some x =>
      let d0 := { d with pmb := { d.pmb with cur := none } }
      let d1 := match x.who with
        | .alert g => d0.alertRead k g x.rail r
        | .manual => d0.setRegN 0x14010C (pmbResult r)
        | .round => d0.roundReading k x.rail x.code r
      let d2 := match x.who, d1.pmb.round with
        | .round, some o => if o.todo.isEmpty then d1.roundEnd k o else d1
        | _, _ => d1
      d2.pmbNext))

/-- The command code of a PMB_CMD selector (R539, R548). -/
def pmbCode (sel : Nat) : Nat := [0x88, 0x8B, 0x8C, 0x8D, 0x79, 0x03].getD sel 0

/-- A write to PMB_CMD (R542, R548): one command to one rail, ahead of the round's next transaction. -/
def Dev.pmbCmd (d : Dev) (path : Path) (v : Word) : Dev :=
  d.onWrite path 0x140108 (d.guard path 0x140108 (firstCause [(decide (11 < fld v 0 4) || decide (5 < fld v 8 3), 1)])
    (if flag v 31 then
      (({ d with pmb := { d.pmb with manual := some (fld v 0 4, pmbCode (fld v 8 3)) } } : Dev).setRegN 0x14010C 0x10000).pmbNext
    else d))

/-- READ_VIN (R542). -/
def execReadVin (path : Path) (v : Word) (s : State) : Out := .next (s.onDev (fun d => d.pmbCmd path v))
/-- READ_VOUT (R542). -/
def execReadVout (path : Path) (v : Word) (s : State) : Out := .next (s.onDev (fun d => d.pmbCmd path v))
/-- READ_IOUT (R542). -/
def execReadIout (path : Path) (v : Word) (s : State) : Out := .next (s.onDev (fun d => d.pmbCmd path v))
/-- READ_TEMPERATURE_1 (R542). -/
def execReadTemperature1 (path : Path) (v : Word) (s : State) : Out := .next (s.onDev (fun d => d.pmbCmd path v))
/-- STATUS_WORD (R542). -/
def execStatusWord (path : Path) (v : Word) (s : State) : Out := .next (s.onDev (fun d => d.pmbCmd path v))
/-- CLEAR_FAULTS (R486, R542): sent on such a write alone. -/
def execClearFaults (path : Path) (v : Word) (s : State) : Out := .next (s.onDev (fun d => d.pmbCmd path v))

end Sys2Proof.Machine
end

