-- ==== Sys2Proof/Machine/Boot.lean ====
section
/-! DEFINITION. Bring-up, firmware, the reset pins and the test access port (R549 to R556, R586 to R588, R594 to R596). -/

namespace Sys2Proof.Machine

/-! ### Stages (R549, R550) -/

/-- BOOT_STATUS.STAGE. -/
def Dev.stageNo (d : Dev) : Nat := fld (d.reg 0x100) 0 4

/-- BOOT_STATUS.FAIL. -/
def Dev.bootFailed (d : Dev) : Bool := flag (d.reg 0x100) 9

/-- A stage begins. -/
def Dev.setStage (d : Dev) (n : Nat) : Dev := d.setReg 0x100 (setFld (d.reg 0x100) 0 4 n)

/-- Bring-up fails with a cause, naming die and channel (Table: Bring-up registers). -/
def Dev.bootFail (d : Dev) (cause die ch : Nat) : Dev :=
  d.setReg 0x100 (setFld (setFld (setFld (setFld (d.reg 0x100) 9 1 1) 12 4 cause) 16 2 die) 18 5 ch)

/-- Bring-up is in a stage and has not failed. -/
def Dev.inStage (d : Dev) (n : Nat) : Bool := d.boot.svcUp && !d.bootFailed && d.stageNo == n

/-! ### Firmware (R552, R553) -/

/-- The bytes of a copy; none of one left open (R553). -/
def FwCopy.bytes (copyB : Bool) : FwCopy → Option Bytes
  | .shipped => some (Config.fwImage copyB)
  | .written ws true => some (ws.flatMap (fun w => le 4 w.toNat))
  | .written _ false => none

/-- The version of a copy that passes its check (R552), where `sig` says whether its signature verifies against the release key. -/
def fwVersion (sig : Bool) (bs : Option Bytes) : Option Nat :=
  match bs with
  | none => none
  | some b =>
    let n := fieldAt b 8 4
    let ok := sig && (b.take 4 == [0x55, 0x4C, 0x46, 0x57]) && decide (n % 4 = 0) && decide (4 ≤ n) && decide (n ≤ 2 ^ 22 - 256) &&
      decide (256 + n ≤ b.length) && zeroAt b 12 52 && zeroAt b 208 48 && (sha384 (sub b 256 n) == sub b 64 48) &&
      decide (Config.fuseVersion.toNat ≤ fieldAt b 4 4)
    if ok then some (fieldAt b 4 4) else none

/-- FIRMWARE_CHECK_DONE (R549, R552): the accepted copy of the higher version boots, A on a tie; with neither, FAIL with cause 1.
Stored state is restored as stage 2 begins (R513). -/
def execFirmwareCheckDone (sigA sigB : Bool) (s : State) : Out :=
  .next (s.onDev (fun d =>
    if !(d.inStage 1) then d
    else
      let a := fwVersion sigA (FwCopy.bytes false d.boot.fwA)
      let b := fwVersion sigB (FwCopy.bytes true d.boot.fwB)
      let d1 := d.setReg 0x100 (setFld (setFld (d.reg 0x100) 25 1 (b2n a.isNone)) 26 1 (b2n b.isNone))
      let useB := match a, b with
        | some x, some y => decide (x < y)
        | none, some _ => true
        | _, none => false
      match (if useB then b else a) with
      | none => d1.bootFail 1 0 0
      | some v =>
        let d2 := ({ d1 with boot := { d1.boot with checked := true } } : Dev).setStage 2
        (d2.setReg 0x100 (setFld (d2.reg 0x100) 24 1 (b2n useB))).setRegN 0x10 v))

/-- The copy that did not boot: B where A booted. -/
def Dev.spareCopy (d : Dev) : FwCopy := if flag (d.reg 0x100) 24 then d.boot.fwA else d.boot.fwB

/-- Replace it. -/
def Dev.setSpareCopy (d : Dev) (c : FwCopy) : Dev :=
  { d with boot := (if flag (d.reg 0x100) 24 then { d.boot with fwA := c } else { d.boot with fwB := c }) }

/-- A write to FW_CTRL (R553, R566): OPEN erases the copy that did not boot, COMMIT closes the open copy; with both set, in
that order. Through the PF's BAR0 it is refused. -/
def Dev.fwCtrl (d : Dev) (path : Path) (v : Word) : Dev :=
  d.onWrite path 0x110 (d.guard path 0x110 (firstCause [(path != .svc, 3)])
    (let d1 := if flag v 0 then (d.setSpareCopy (.written [] false)).setRegN 0x118 1 else d
     match d1.spareCopy with
     | .written ws false => if flag v 1 then (d1.setSpareCopy (.written ws true)).setReg 0x118 (setFld (d1.reg 0x118) 0 2 2) else d1
     | _ => d1))

/-- FW_OPEN (R553). -/
def execFwOpen (path : Path) (v : Word) (s : State) : Out := .next (s.onDev (fun d => d.fwCtrl path v))

/-- FW_COMMIT (R553). -/
def execFwCommit (path : Path) (v : Word) (s : State) : Out := .next (s.onDev (fun d => d.fwCtrl path v))

/-- A write to FW_DATA (R553, R566): one word at the write pointer; refused with no copy open or beyond 4 MiB, which FW_STATUS
reports. -/
def Dev.fwData (d : Dev) (path : Path) (v : Word) : Dev :=
  let refused (c : Nat) : Dev := (d.setReg 0x118 (setFld (d.reg 0x118) 0 2 3)).refuse path 0x114 c
  d.onWrite path 0x114 (d.guard path 0x114 (firstCause [(path != .svc, 3)])
    (match d.spareCopy with
     | .written ws false =>
       if 2 ^ 20 ≤ ws.length then refused 1
       else (d.setSpareCopy (.written (ws ++ [v]) false)).setRegN 0x118 (1 + 2 ^ 8 * (ws.length + 1))
     | _ => refused 2))

/-- FW_DATA (R553). -/
def execFwData (path : Path) (v : Word) (s : State) : Out := .next (s.onDev (fun d => d.fwData path v))

/-! ### Stages 2 to 7 -/

/-- TAP instructions under which the pins follow the boundary register and the domains stay in reset (R596). -/
def testCode (c : BitVec 8) : Bool := c == 0 || c == 3 || c == 4 || c == 5 || c == 6

/-- Internal reset may be released: every rail good, no PS5, no test instruction (R464, R491, R596). -/
def Dev.releasable (d : Dev) : Bool :=
  d.inStage 2 && d.boot.checked && !d.boot.up && d.boot.pg == BitVec.allOnes 12 && !flag (d.reg 0x120008) 3 && !testCode d.boot.tap

/-- Internal reset is released with the straps as read: they give the position, and LEAD_N low a lead candidate (R23, R28, R588).
The end of a power fault is a device reset (R512). -/
def State.release (s : State) (x : Straps) (t : Nat) : State :=
  let s0 := s.at t
  let s1 := if s0.dev.boot.due then { s0 with beat := beatReset, dev := ((s0.dev.domainReset false).countResets).pwrStatusReset } else s0
  { s1 with
    beat := { s1.beat with role := (if x.leadN then .alone else .lead) },
    dev := ({ s1.dev with strapId := x.x.toNat + 4 * x.y.toNat + 16 * x.z.toNat, strapLead := !x.leadN,
                          boot := { s1.dev.boot with up := true, due := false } } : Dev).setStage 3 }

/-- INTERNAL_RESET_RELEASE (R464, R588): three readings of the straps; while they disagree the release waits. -/
def execInternalResetRelease (r1 r2 r3 : Straps) (t : Nat) (s : State) : Out :=
  .next (if s.dev.releasable && r1 == r2 && r2 == r3 then s.release r1 t else s.at t)

/-- STRAP_DISAGREE_TIMEOUT (R588): the release goes ahead with the last reading. -/
def execStrapDisagreeTimeout (last : Straps) (t : Nat) (s : State) : Out :=
  .next (if s.dev.releasable then s.release last t else s.at t)

/-- CLOCKS_LOCKED (R549, R551, R586): stage 3 ends, and PCIe link training starts; with PERST_N asserted both wait for it. -/
def execClocksLocked (s : State) : Out :=
  .next (s.onDev (fun d =>
    if !(d.inStage 3) then d
    else if d.boot.perst then { d with boot := { d.boot with locked := true } }
    else ({ d with boot := { d.boot with locked := true, pcie := true } } : Dev).setStage 4))

/-- DRAM training has failed on a channel, named by 32 · die + channel: a second attempt follows the first (R549). -/
def Dev.trainFailed (d : Dev) (c : Nat) : Dev :=
  if d.boot.tries = 0 then { d with boot := { d.boot with tries := 1 } } else d.bootFail 3 (c / 32) (c % 32)

/-- DRAM_TRAINING_DONE (R549): with no failed channel, stage 5 begins. The remap tables apply (R285). -/
def execDramTrainingDone (failed : List Nat) (s : State) : Out :=
  .next (s.onDev (fun d =>
    if !(d.inStage 4) then d
    else match failed with
      | [] => d.setStage 5
      | c :: r => d.trainFailed (r.foldl min c)))

/-- MEM_INIT_DONE (R512, R549): every codeword holds zero data and a clear poison mark. -/
def execMemInitDone (s : State) : Out :=
  .next (if s.dev.inStage 5 then { s with mem := [], dev := ({ s.dev with poison := [] } : Dev).setStage 6 } else s)

/-- A core's failed self-test (R65, R554): with DEGRADED set, one whose check unit failed goes on working without it. -/
def Dev.selfTestFail (d : Dev) (k : Clk) (e reason : Nat) : Dev :=
  let t := tileOfEntry e
  let no := 36 * t.1 + t.2
  if reason = 2 ∧ flag (d.reg 0x80000) 4 = true then d.setCore no { d.core no with noCheck := true }
  else d.blaze k t.1 t.2 reason

/-- The results of the self-tests in ascending entry: dead routers and failing cores; then routes, isolated tiles and partition
states (R229, R231, R236, R554). -/
def Dev.selfTests (d : Dev) (k : Clk) (cores : List (Nat × Nat)) (routers : List Nat) : Dev :=
  let d1 := (List.range 576).foldl (fun a e =>
    let a1 := if routers.contains e then a.routerDead k (e / 144) (e % 144) else a
    match cores.find? (fun x => x.1 == e) with
    | some x => a1.selfTestFail k e x.2
    | none => a1) d
  let d2 := (List.range 4).foldl (fun a i => a.loadRoutes k i) d1
  (List.range 16).foldl (fun a p => a.partUpdate k p) d2

/-- HKL training is released (R555): positions and lead configuration are fixed from here on. -/
def Dev.goLinks (d : Dev) (k : Clk) : Dev :=
  ({ d with boot := { d.boot with links := true } } : Dev).trainAll k

/-- SELF_TEST_COMPLETE (R549, R554, R555): READY sets, the chains begin, the beat unit starts, and HKL training with it where
LINK_AUTO is set. -/
def execSelfTestComplete (cores : List (Nat × Nat)) (routers : List Nat) (iodOk : Bool) (t : Nat) (s : State) : Out :=
  let s0 := s.at t
  let k := s0.clk
  .next (
    if !(s0.dev.inStage 6) then s0
    else if !iodOk then s0.onDev (fun d => d.bootFail 4 0 0)
    else
      let s1 := s0.onDev (fun d =>
        let d1 := (d.selfTests k cores routers).setStage 7
        (List.range 16).foldl (fun a p => a.newChain k p) (d1.orReg 0x100 (2 ^ 8)))
      let s2 : State := { s1 with beat := { s1.beat with powered := true } }
      let s3 := (if s2.beat.en then s2.startBeat t else s2).standRefresh
      if flag (s3.dev.reg 0x104) 0 then s3.onDev (fun d => d.goLinks k) else s3)

/-- BRINGUP_STAGE_TIMEOUT (R549): the stage's cause, or cause 5 for the 1 s of stages 3 to 7 together. -/
def execBringupStageTimeout (total : Bool) (s : State) : Out :=
  .next (s.onDev (fun d =>
    if !d.boot.svcUp || d.bootFailed || d.ready then d
    else if total then (if 3 ≤ d.stageNo then d.bootFail 5 0 0 else d)
    else match d.stageNo with
      | 1 => (d.orReg 0x100 (2 ^ 25 + 2 ^ 26)).bootFail 1 0 0
      | 3 => if d.boot.locked then d else d.bootFail 2 0 0
      | 4 => d.trainFailed 0
      | 5 => d.bootFail 3 0 0
      | 6 => d.bootFail 4 0 0
      | _ => d))

/-- A write to BOOT_CTRL (R555, R563): LINK_GO starts HKL training where stage 6 has ended and it has not started. -/
def Dev.bootCtrl (d : Dev) (k : Clk) (path : Path) (v : Word) : Dev :=
  d.onWrite path 0x104
    (let d1 := d.setReg 0x104 (v &&& 1)
     if flag v 1 && d1.ready && !d1.boot.links then d1.goLinks k else d1)

/-- LINK_GO (R555). -/
def execLinkGo (path : Path) (v : Word) (s : State) : Out := .next (s.onDev (fun d => d.bootCtrl s.clk path v))

/-! ### PERST_N and the reference clock (R586, R587) -/

/-- PERST_ASSERT (R586): the host link goes down, which resets the device; a latched power fault governs (Where things meet). -/
def execPerstAssert (s : State) : Out :=
  let s1 := s.onDev (fun d => { d with boot := { d.boot with perst := true } })
  .next (if s.dev.boot.perst then s else if s.dev.boot.due then s1 else s1.linkReset)

/-- PERST_RELEASE (R586): PCIe link training may run, and bring-up goes on past stage 3. -/
def execPerstRelease (s : State) : Out :=
  .next (s.onDev (fun d =>
    let d1 := { d with boot := { d.boot with perst := false } }
    if d1.boot.locked && d1.inStage 3 then ({ d1 with boot := { d1.boot with pcie := true } } : Dev).setStage 4 else d1))

/-- REFCLK_LOSS (R587): a device reset; in PS5 nothing happens, and a power fault governs. -/
def execRefclkLoss (s : State) : Out :=
  .next (if flag (s.dev.reg 0x120008) 3 || s.dev.boot.due then s else s.linkReset)

/-! ### The test access port (R594 to R596) -/

/-- A TAP instruction becomes current: entering one that drives the pins, the domains enter reset as in a device reset; leaving
them, bring-up runs from stage 2. -/
def State.tapTo (s : State) (code : BitVec 8) : State :=
  let s1 := if testCode code && !testCode s.dev.boot.tap then s.linkReset else s
  s1.onDev (fun d => { d with boot := { d.boot with tap := code } })

/-- The data register captures a value. -/
def State.capture (s : State) (v : Nat) : State := s.onDev (fun d => { d with boot := { d.boot with tdr := v } })

/-- The IDCODE (R595). -/
def Dev.idcode (d : Dev) : Nat := 1 + 2 * 0x2D7 + 2 ^ 12 * 0x5116 + 2 ^ 28 * fld (d.reg 0) 20 4

/-- EXTEST (R596). -/
def execExtest (s : State) : Out := .next (s.tapTo 0x00)

/-- SAMPLE_PRELOAD (R594). -/
def execSamplePreload (s : State) : Out := .next (s.tapTo 0x01)

/-- IDCODE (R595). -/
def execIdcode (s : State) : Out := .next ((s.tapTo 0x02).capture s.dev.idcode)

/-- CLAMP (R596). -/
def execClamp (s : State) : Out := .next (s.tapTo 0x03)

/-- HIGHZ (R596). -/
def execHighz (s : State) : Out := .next (s.tapTo 0x04)

/-- EXTEST_PULSE (R596). -/
def execExtestPulse (s : State) : Out := .next (s.tapTo 0x05)

/-- EXTEST_TRAIN (R596). -/
def execExtestTrain (s : State) : Out := .next (s.tapTo 0x06)

/-- BYPASS (R594): every code without another instruction; the register captures 0, as IEEE 1149.1 has it (log entry 44). A code
that names an instruction selects none here. -/
def execBypass (code : BitVec 8) (s : State) : Out :=
  .next (if code.toNat < 7 then s else (s.tapTo code).capture 0)

/-- TAP_RESET (R594, R596): IDCODE is the default after TAP reset. -/
def execTapReset (s : State) : Out := .next ((s.tapTo 0x02).capture s.dev.idcode)

end Sys2Proof.Machine
end

