-- ==== Sys2Proof/Machine/Background.lean ====
section
/-! DEFINITION. The background duties: windows, calibration, the telemetry snapshot and the duties' progress (R557 to R562). -/

namespace Sys2Proof.Machine

/-! ### Windows (R557, R558) -/

/-- The offset of the window registers of a duty. -/
def bgOff (k : Nat) : Nat := 0x200 + 0x10 * k

/-- PERIOD in beats. -/
def Dev.bgPeriod (d : Dev) (k : Nat) : Nat := fld (d.reg (bgOff k)) 0 24
/-- OFFSET in beats. -/
def Dev.bgOffset (d : Dev) (k : Nat) : Nat := fld (d.reg (bgOff k + 4)) 0 24
/-- The start notch. -/
def Dev.bgStart (d : Dev) (k : Nat) : Nat := fld (d.reg (bgOff k + 8)) 0 10
/-- LEN in notches. -/
def Dev.bgLen (d : Dev) (k : Nat) : Nat := fld (d.reg (bgOff k + 8)) 10 22

/-- Notches since notch 0 of the last beat b with b mod PERIOD = OFFSET. -/
def State.bgPos (s : State) (k : Nat) : Nat :=
  let n := max 1 (s.dev.bgPeriod k)
  (s.beat.num + n - s.dev.bgOffset k % n) % n * 1024 + s.beat.notch

/-- A position lies inside the window. -/
def Dev.bgInside (d : Dev) (k pos : Nat) : Bool := decide (d.bgStart k ≤ pos) && decide (pos < d.bgStart k + d.bgLen k)

/-! ### Telemetry (R562) -/

/-- TEL_ADDR. -/
def Dev.telAddr (d : Dev) : Nat := d.reg64 0x250

/-- The hottest junction sensors of the four dies in °C, as bytes. -/
def Dev.junctionBytes : Nat → Dev → Bytes × Dev
  | 0, d => ([], d)
  | n + 1, d =>
    let r := Dev.junctionBytes n d
    let v := r.2.wholeTemp (r.2.heatOf (64 + n)).temp
    (r.1 ++ le 1 (signedBits 8 v.1), v.2)

/-- The snapshot of Table: Telemetry snapshot, written to host memory with the next sequence number. An address that names no
host memory takes none. -/
def Dev.snapshot (d : Dev) (k : Clk) : Dev :=
  if !isHost d.telAddr || !d.ready then d
  else
    let seq := d.regN 0x258 + 1
    let eff := (List.range 4).foldl (fun a i => a + d.effState i * 2 ^ (3 * i)) 0
    let dram := (List.range 4).flatMap (fun i => le 1 (fld (d.reg (memDie i)) 0 8))
    let j := Dev.junctionBytes 4 d
    let w := j.2.watts d.kiln.pm
    let cones := (List.range 18).flatMap (fun i => le 8 (d.reg64 (coneOff i).1))
    let ce := (List.range 4).flatMap (fun i => le 4 (d.regN (memDie i + 0x20)))
    let bs := le 8 seq ++ le 8 k.beat ++ le 2 k.notch ++ le 2 eff ++ dram ++ j.1 ++ le 4 w.1 ++ cones ++ ce ++ zeros 56 ++ le 8 seq
    (w.2.setRegN 0x258 seq).toHostMem 0 d.telAddr bs

/-! ### Calibration (R560) -/

/-- A unit may start where a pass is in progress, none is retraining and the window is open. -/
def Dev.calNext (d : Dev) (isOpen : Bool) : Dev :=
  if d.svc.calRun && isOpen then { d with svc := { d.svc with calBusy := true } } else d

/-- Units done in the pass. -/
def Dev.calPos (d : Dev) : Nat := fld (d.reg 0x244) 0 8

/-- A pass starts. -/
def Dev.calStart (d : Dev) (isOpen : Bool) : Dev :=
  (({ d with svc := { d.svc with calRun := true, calDue := false, calBusy := false } } : Dev).setRegN 0x244 0).calNext isOpen

/-- A unit of the pass is done; after 133 the pass ends, and one that fell due meanwhile starts at once. -/
def Dev.calDone (d : Dev) (isOpen : Bool) : Dev :=
  let d1 := ({ d with svc := { d.svc with calBusy := false } } : Dev).setRegN 0x244 (d.calPos + 1)
  if d.calPos + 1 < 133 then d1.calNext isOpen
  else if d1.svc.calDue then d1.calStart isOpen
  else { d1 with svc := { d1.svc with calRun := false } }

/-- The unit now retraining, or about to, is number `u`. -/
def Dev.calAt (d : Dev) (isOpen : Bool) (u : Nat) : Bool := d.svc.calRun && d.calPos == u && (d.svc.calBusy || isOpen)

/-- CAL_PASS_START (R560): every CAL_PERIOD seconds, or at once when the pass in progress ends later. -/
def execCalPassStart (s : State) : Out :=
  let isOpen := s.winOpen 1
  .next (s.onDev (fun d =>
    if !d.ready then d
    else if d.svc.calRun then { d with svc := { d.svc with calDue := true } } else d.calStart isOpen))

/-- CHANNEL_RETRAIN_DONE (R560): a channel whose retraining fails keeps its settings, and is counted. -/
def execChannelRetrainDone (die : Fin 4) (ch : Fin 32) (ok : Bool) (s : State) : Out :=
  let isOpen := s.winOpen 1
  .next (s.onDev (fun d =>
    if !d.calAt isOpen (32 * die.val + ch.val) then d
    else (if ok then d else d.bump 0x248).calDone isOpen))

/-- A trim moves by at most 2 °C. -/
def trimStep (x : Int) : Int := max (-20) (min 20 x)

/-- SENSOR_TRIM_DONE (R560): each sensor's offset moves by its difference from the reference sensor, in 0.1 °C. -/
def execSensorTrimDone (set : Fin 5) (diff : List Int) (s : State) : Out :=
  let isOpen := s.winOpen 1
  .next (s.onDev (fun d =>
    if !d.calAt isOpen (128 + set.val) then d
    else
      let t := ((List.range (if set.val < 4 then 16 else 8)).zip diff).foldl (fun (a : Sparse Int) x =>
        let i := 16 * set.val + x.1
        Sparse.put (fun _ => 0) a i (Sparse.get (fun _ => 0) a i + trimStep x.2)) d.svc.trim
      ({ d with svc := { d.svc with trim := t } } : Dev).calDone isOpen))

/-! ### Progress (R341, R376, R561) -/

/-- A progress record. -/
def progressBytes (src pct inst ring pos : Nat) : Bytes :=
  le 1 src ++ zeros 1 ++ le 2 (min pct 65535) ++ le 2 inst ++ le 1 ring ++ zeros 1 ++ le 8 pos

/-- Write a progress record where its ring has room; otherwise it drops (R339). -/
def Dev.progressTo (d : Dev) (p : Nat) (bs : Bytes) : Dev := if d.drRoom (288 + p) then d.drWrite (288 + p) bs false else d

/-- The records of the background duties (Table: Background progress). -/
def Dev.bgRecords (d : Dev) : List Bytes :=
  let pos := d.reg 0xA0010
  let free := (List.range 16).filter (fun p => Sparse.get (fun _ => 0) d.swaps p == 0)
  (List.range 4).map (fun i => progressBytes 2 (fld (d.reg (memDie i + 0x10)) 0 16) i 0 (d.reg64 (memDie i + 8))) ++
    [progressBytes 3 (fld (d.reg 0xA0014) 0 16) (fld pos 0 6) 0 pos.toNat,
     progressBytes 4 (d.calPos * 65536 / 133) 0 0 d.calPos,
     progressBytes 5 (free.length * 65536 / 16) 0 0 (d.regN 0x160108),
     progressBytes 6 (if d.telAddr = 0 ∨ d.reg 0x258 = 0 then 0 else 65535) 0 0 (d.regN 0x258)]

/-- A notch, or a free tick, passes for BG_PROG (R561). -/
def Dev.bgProgress (d : Dev) : Dev :=
  let w := d.reg 0x260
  if !flag w 0 then { d with svc := { d.svc with progN := 0 } }
  else if d.svc.progN + 1 < fld w 8 16 then { d with svc := { d.svc with progN := d.svc.progN + 1 } }
  else d.bgRecords.foldl (fun a r => a.progressTo (fld w 4 4) r) { d with svc := { d.svc with progN := 0 } }

/-- The total that a command's position counts towards (Table: Progress positions). -/
def Cmd.total (c : Cmd) : Nat :=
  match c.op with
  | 1 => fieldAt c.desc 36 4
  | 4 => c.run.total
  | 5 => fieldAt c.desc 50 5
  | 7 => fieldAt c.desc 36 4
  | _ => match c.outs with
    | r :: _ => r.len
    | [] => 0

/-- The command's progress record (R376); the percentage of a total of 0 is a free value. -/
def Dev.cmdProgress (d : Dev) (c : Cmd) : Dev :=
  let x := if c.total = 0 then d.take 14 else (BitVec.ofNat 64 (c.pos * 65536 / c.total), d)
  x.2.progressTo c.part (progressBytes 1 (if c.total = 0 then x.1.toNat % 65536 else x.1.toNat) c.idx (c.ring % 16) c.pos)

/-- A notch, or a free tick, passes for a command with PROG set, from its launch to its commit point (R376). A serving step and
its entries have no descriptor to name, and write none. -/
def Dev.cmdTick (d : Dev) (c : Cmd) : Dev :=
  if !(bitAt c.flags 8 && c.ph.fellable) || d.inStep c then d
  else if c.progN + 1 < fld (d.reg (ptn c.part + 0x110)) 0 16 then d.onCmd c.cid (fun x => { x with progN := c.progN + 1 })
  else (d.onCmd c.cid (fun x => { x with progN := 0 })).cmdProgress c

/-! ### Openings and closings -/

/-- BG_WINDOW_OPEN (R47, R557, R559): a calibration unit may start, a telemetry snapshot is written. -/
def execBgWindowOpen (k : Fin 4) (s : State) : Out :=
  let c := s.clk
  .next (
    if !(s.beat.counting && decide (s.bgPos k.val = s.dev.bgStart k.val)) then s
    else s.onDev (fun d =>
      let d1 := { d with bgOpen := d.bgOpen.filter (· != k.val) ++ [k.val] }
      if k.val = 1 then d1.calNext true else if k.val = 3 then d1.snapshot c else d1))

/-- BG_WINDOW_CLOSE (R557): LEN notches after its opening. -/
def execBgWindowClose (k : Fin 4) (s : State) : Out :=
  .next (
    if s.beat.counting && s.dev.bgInside k.val (s.bgPos k.val) then s
    else s.onDev (fun d => { d with bgOpen := d.bgOpen.filter (· != k.val) }))

end Sys2Proof.Machine
end

