-- ==== Sys2Proof/Machine/Companion.lean ====
section
/-! DEFINITION. Companion reads over the service wires, and the indicator sinks (R537, R538, R543 to R547). -/

namespace Sys2Proof.Machine

/-! ### Companion reads (R537, R538) -/

/-- COMP_STATUS. -/
def Dev.compStatus (d : Dev) : Nat := fld (d.reg 0x140024) 0 3

/-- The device drives the service wires. -/
def Dev.mastering (d : Dev) : Bool := flag (d.reg 0x140004) 14

/-- Whether the device drives the wires. -/
def Dev.setMastering (d : Dev) (b : Bool) : Dev := d.setReg 0x140004 (setFld (d.reg 0x140004) 14 1 (b2n b))

/-- A companion read ends with a status (R537). -/
def Dev.compEnd (d : Dev) (status : Nat) : Dev :=
  (({ d with svc := { d.svc with comp := none } } : Dev).setRegN 0x140024 status).setMastering false

/-- A write to COMP_CMD: refused while busy, or for companion 3; GO starts the read. -/
def Dev.compCmd (d : Dev) (path : Path) (v : Word) : Dev :=
  d.onWrite path 0x140020 (d.guard path 0x140020 (firstCause [(decide (d.compStatus = 1), 2), (decide (fld v 0 2 = 3), 1)])
    (if flag v 31 then ({ d with svc := { d.svc with comp := some v } } : Dev).setRegN 0x140024 1 else d))

/-- COMP_CMD (R537). -/
def execCompCmd (path : Path) (v : Word) (s : State) : Out := .next (s.onDev (fun d => d.compCmd path v))

/-- COMP_MASTER_START (R537): with SVC_SEL_N released and SVC_CLK low for 1 µs, the device starts a read that was asked for. -/
def execCompMasterStart (s : State) : Out :=
  .next (s.onDev (fun d => if d.svc.comp.isSome then d.setMastering true else d))

/-- COMP_TRANSFER_DONE (R537): the words land in COMP_DATA; a CRC mismatch ends the read with its own status. -/
def execCompTransferDone (words : List Word) (crcOk : Bool) (s : State) : Out :=
  .next (s.onDev (fun d =>
    match d.svc.comp with
    | none => d
    | some v =>
      if !d.mastering then d
      else
        let ws := words.take (fld v 18 4 + 1)
        let d1 := (ws.zip (List.range 16)).foldl (fun (a : Dev) x => a.setReg (0x140040 + 4 * x.2) x.1) d
        d1.compEnd (if crcOk then 2 else 4)))

/-- MASTER_COLLISION (R538, R547): the transfer is abandoned, MCOL sets and an event is raised. -/
def execMasterCollision (s : State) : Out :=
  let k := s.clk
  .next (s.onDev (fun d =>
    match d.svc.comp with
    | none => d
    | some v =>
      if !d.mastering then d
      else ((d.compEnd 3).orReg 0x140008 1).ioEvent k (event k 0xA0 0 (fld v 0 2) 0 0 0)))

/-! ### Indicators (R543 to R546) -/

/-- A sink as reset leaves it. -/
def sindReset : Nat → Sind := fun _ => ⟨0, 0, false, false, []⟩

/-- A sink. -/
def Dev.sind (d : Dev) (n : Nat) : Sind := Sparse.get sindReset d.sinds n

/-- Replace a sink. -/
def Dev.setSind (d : Dev) (n : Nat) (x : Sind) : Dev := { d with sinds := Sparse.put sindReset d.sinds n x }

/-- SIND_CFG_n. -/
def Dev.sindCfg (d : Dev) (n : Nat) : Word := d.reg (0x140400 + 4 * n)

/-- AUTO overrides the sink (R546). -/
def Dev.sindAuto (d : Dev) (n : Nat) : Bool :=
  flag (d.reg 0x140488) 0 &&
    (if n < 16 then decide (d.partSt n = 2) || decide (d.partSt n = 4)
     else n == 16 && (flag (d.reg 0x12000C) 13 || flag (d.reg 0x120008) 2))

/-- DUTY in force. -/
def Dev.sindDuty (d : Dev) (n : Nat) : Nat := if d.sindAuto n then 256 else fld (d.sindCfg n) 0 9
/-- MODE in force. -/
def Dev.sindMode (d : Dev) (n : Nat) : Nat := if d.sindAuto n then 1 else fld (d.sindCfg n) 16 2
/-- I_SET, which no override changes. -/
def Dev.sindSet (d : Dev) (n : Nat) : Nat := fld (d.sindCfg n) 12 4
/-- STRETCH. -/
def Dev.sindStretch (d : Dev) (n : Nat) : Bool := flag (d.sindCfg n) 18

/-- The status register of a sink and the place of its two bits. -/
def sindPlace (n : Nat) : Nat × Nat := (0x140480 + 4 * (n / 16), 2 * (n % 16))

/-- A sink's status (Table: Sink status). -/
def Dev.sindStatus (d : Dev) (n : Nat) : Nat := fld (d.reg (sindPlace n).1) (sindPlace n).2 2

/-- A sink's status becomes `v`; each change raises an event (R544, R547). -/
def Dev.sindTo (d : Dev) (k : Clk) (n v : Nat) : Dev :=
  let old := d.sindStatus n
  if old = v then d
  else (d.setReg (sindPlace n).1 (setFld (d.reg (sindPlace n).1) (sindPlace n).2 2 v)).ioEvent k (event k 0xA2 0 n v old 0)

/-- The status that the configuration alone decides: off, or not diagnosed. -/
def Dev.sindForced (d : Dev) (n : Nat) : Option Nat :=
  let y := d.sindDuty n
  if y = 0 then some 3
  else if d.sindSet n = 0 ∨ (y ≤ 5 ∧ d.sindStretch n = false) then some 2
  else none

/-- A status that the configuration decides holds at once. -/
def Dev.sindCheck (d : Dev) (k : Clk) (n : Nat) : Dev :=
  match d.sindForced n with
  | some v => (d.setSind n { d.sind n with hist := [], wide := false }).sindTo k n v
  | none => d

/-- The period is in an on-phase of its mode: always, the first 500 ms or the first 125 ms of each second (R543). -/
def onPhase (mode ms : Nat) : Bool := if mode = 1 then decide (ms < 500) else if mode = 2 then decide (ms < 125) else true

/-- SIND_PERIOD (R543, R545): a 1 ms period starts; the first pulse of the second in an on-phase is stretched at DUTY 1 to 5. -/
def execSindPeriod (n : Fin 18) (s : State) : Out :=
  let k := s.clk
  .next (s.onDev (fun d0 =>
    if !d0.boot.svcUp then d0
    else
      let d := d0.sindCheck k n.val
      let x := d.sind n.val
      let y := d.sindDuty n.val
      let on := onPhase (d.sindMode n.val) x.ms && decide (y ≠ 0) && decide (d.sindSet n.val ≠ 0)
      let used := x.used && decide (x.ms ≠ 0)
      let wide := on && decide (y ≤ 5) && d.sindStretch n.val && !used
      d.setSind n.val { x with ms := (x.ms + 1) % 1000, on := (if on then y else 0), wide := wide, used := used || wide }))

/-- SIND_DIAG_SAMPLE (R544): a pulse of at least 20 µs is sampled, and three samples that agree decide the status. -/
def execSindDiagSample (n : Fin 18) (found : Bool) (s : State) : Out :=
  let k := s.clk
  .next (s.onDev (fun d =>
    let x := d.sind n.val
    if !(decide (6 ≤ x.on) || x.wide) then d
    else
      let h := (found :: x.hist).take 3
      let d1 := d.setSind n.val { x with on := 0, wide := false, hist := h }
      if h = [found, found, found] then d1.sindTo k n.val (if found then 0 else 1) else d1))

end Sys2Proof.Machine
end

