-- ==== Sys2Proof/Machine/Notch.lean ====
section
/-! DEFINITION. What each notch and each free tick begins (R47, R96, R321, R325, R327, R328, R340, R376, R389, R432, R516). -/

namespace Sys2Proof.Machine

/-- POLL of a partition (R327). -/
def Dev.poll (d : Dev) (p : Nat) : Nat := fld (d.reg (0x40F00 + 0x1000 * p)) 0 10

/-- A submission ring at notch `n`: its fetch record if it shows less than was fetched, its doorbell record if that was torn or
polling falls due; a resetting partition's records are not polled (R321, R325, R327, R510). -/
def Dev.tickSub (n : Nat) (d : Dev) (r : Nat) : Dev :=
  if !d.srEn r then d
  else
    let x := d.sring r
    let d1 := d.setSring r { x with shownNow := false }
    let d2 := if x.fetched = x.shown then d1 else d1.fetchRecord r
    let p := r / 16
    if d.partSt p ≠ 3 ∧ x.err = false ∧ (x.torn = true ∨ (d.poll p ≠ 0 ∧ n % d.poll p = 0)) then
      d2.setSring r { d2.sring r with reading := true } else d2

/-- A device-produced ring at a notch: its release record if that was torn or the ring is full, and one more notch that its
oldest unsignalled entry has waited (R321, R327, R340). -/
def Dev.tickDev (d : Dev) (r : Nat) : Dev :=
  let x := d.dring r
  if !d.drEn r then d
  else d.setDring r { x with since := x.since.map (· + 1), reading := x.reading || (!x.err && (x.torn || d.drFull r)) }

/-- Every device-produced ring. -/
def allDevRings : List Nat := (List.range 321)

/-- What R328 lists, at notch `n` or at free tick `n`. -/
def Dev.tick (d : Dev) (n : Nat) : Dev :=
  let d1 := (List.range 256).foldl (Dev.tickSub n) d
  let d2 := allDevRings.foldl Dev.tickDev d1
  (d2.cmds.foldl Dev.cmdTick d2).bgProgress

/-- Window counts of clients whose accounting window begins with this beat are 0 again (R389). -/
def Dev.accountWindows (d : Dev) (num : Nat) : Dev :=
  let ps := (List.range 16).filter (fun p => decide (num % max 1 (fld (d.reg (ptn p + 0x308)) 0 24) = 0))
  { d with client := d.client.filter (fun e => !(e.1 % 8 == 3 && ps.contains (e.1 / 2048))) }

/-- A seal is due 1,000 beats after the last (R96). -/
def Dev.beatSeals (d : Dev) (k : Clk) : Dev :=
  (List.range 16).foldl (fun a p =>
    let n := (k.beat + 2 ^ 64 - (a.chain p).sealBeat) % 2 ^ 64
    if 1000 ≤ n ∧ n < 2 ^ 63 then a.sealTrigger k p 1 none else a) d

/-- ROSTER_INT (R516). -/
def Dev.rosterInt (d : Dev) : Nat := max 1 (fld (d.reg 0x16000C) 0 16)

/-- What happens at a boundary once the beat number stands: a wrap counts (R10), windows of accounting begin, seals fall due,
group updates and a lead handover take effect, and the lead starts a roster round (R389, R96, R432, R428, R516). -/
def State.boundary (s : State) (wrapped : Bool) : State :=
  let k := s.clk
  let s1 := s.onDev (fun d => ((if wrapped then d.bump 0x1001C else d).accountWindows k.beat).beatSeals k)
  let s2 := s1.groupActivate.swapResolve.swapAtBeat
  if s2.beat.role = .lead ∧ k.beat % s2.dev.rosterInt = 0 then s2.rosterRound else s2

/-- NOTCH_BEGIN (R47): the beat number at notch 0, the notch value, what falls due at the notch, then the commands that become
eligible. While notch 1023 is held for the lead's count, none begins (R52). -/
def execNotchBegin (t : Nat) (s : State) : Out :=
  let s0 := s.at t
  .next (match s0.beat.notchStep t with
    | none => s0
    | some (u, wrapped) =>
      let s1 := { s0 with beat := u }
      if s.beat.counted && decide (u.num = s.beat.num) && decide (u.notch = s.beat.notch) then s1
      else
        let s2 := if u.notch = 0 then s1.boundary wrapped else s1
        s2.onDev (fun d => (d.tick u.notch).refresh s2.clk s2.beat))

/-- FREE_TICK (R328, R558): 1 µs, 1,600 ticks, in place of a notch that is not counted; a telemetry snapshot every 100 ms. -/
def execFreeTick (t : Nat) (s : State) : Out :=
  let s0 := s.at t
  let k := s.clk
  .next (
    if s.beat.counting || !s.dev.ready then s0
    else s0.onDev (fun d =>
      let d1 := d.tick (t / 1600)
      if d1.svc.telN + 1 < 100000 then { d1 with svc := { d1.svc with telN := d1.svc.telN + 1 } }
      else ({ d1 with svc := { d1.svc with telN := 0 } } : Dev).snapshot k))

end Sys2Proof.Machine
end

