-- ==== Sys2Proof/Machine/Regs.lean ====
section
/-! DEFINITION. Reads and writes of the management space: every register, its locks and its refusals (R6 to R12, R534, R535, R564 to R580). -/

namespace Sys2Proof.Machine

/-! ### Reads (R6, R12) -/

/-- The key of the copy that a path sees of a register: GLB_WERR, its counter and overflow on the service port (R572), BUF_SEL,
BUF_RESULT and BUF_STAGE on each path (R349). -/
def copyKey (path : Path) (m : Nat) : Nat :=
  if m = 0x20 ∨ m = 0x24 ∨ m = 0x28 then pathKey path m
  else if 0x60000 ≤ m ∧ m < 0x80000 ∧ m % 0x2000 < 0x40 then pathKey path m
  else m

/-- Where the higher word of a counter is shadowed: CONE_n has one place for both of its addresses. -/
def shadowPlace (m : Nat) : Nat :=
  if 0x20000 ≤ m ∧ m < 0x30000 ∧ m % 0x1000 = 0x504 then 0x120204 + 8 * ((m - 0x20000) / 0x1000) else m

/-- The tally that TALLY_SEL selects. -/
def Dev.tallySel (d : Dev) (p : Nat) : Nat := fld (d.reg (ptn p + 0x100)) 0 12

/-- The counter wider than 32 bits whose low word lies at an offset. -/
def State.wide (s : State) (m : Nat) : Option Nat :=
  let d := s.dev
  let p := (m - 0x20000) / 0x1000
  let o := m % 0x1000
  if m = 0x8 then some Config.serial.toNat
  else if m = 0x10010 then some s.beat.num
  else if 0x20000 ≤ m ∧ m < 0x30000 then
    (if o = 0x104 then some (d.tallyOf p (d.tallySel p)) else if o = 0x438 then some (d.reg64 m)
     else if o = 0x500 then some (d.reg64 (0x120200 + 8 * p)) else none)
  else if 0x81000 ≤ m ∧ m < 0x81400 then
    (if m % 0x40 = 0x10 then some (d.chain ((m - 0x81000) / 0x40)).next
     else if m % 0x40 = 0x18 then some (d.chain ((m - 0x81000) / 0x40)).sealNext else none)
  else if 0xA0100 ≤ m ∧ m < 0xA0200 then (if m % 0x40 = 0x08 then some (d.reg64 m) else none)
  else if 0x120200 ≤ m ∧ m < 0x120290 then (if m % 8 = 0 then some (d.reg64 m) else none)
  else if 0x164000 ≤ m ∧ m < 0x164000 + 8 * 576 then (if m % 8 = 0 then some (d.reg64 m) else none)
  else none

/-- An offset holds a higher word of such a counter, or the notch latched with the beat number. -/
def State.upper (s : State) (m : Nat) : Bool := (decide (4 ≤ m) && (s.wide (m - 4)).isSome) || m == 0x10018

/-- SVC_PSTAT (R548). -/
def Dev.pstat (d : Dev) : Nat :=
  (d.regN 0x140004) % 2 ^ 13 + 2 ^ 13 * b2n (flag (d.reg 0x140008) 0) + 2 ^ 14 * b2n d.mastering + 2 ^ 15 * b2n (flag (d.reg 0x120008) 3) +
    2 ^ 16 * b2n (flag (d.reg 0x12000C) 13) + 2 ^ 17 * b2n (flag (d.reg 0x120008) 2)

/-- DR_STATUS and SEAL_STATUS. -/
def Dev.drStatus (d : Dev) (r : Nat) : Nat :=
  let x := d.dring r
  x.prod % 2 ^ 16 + 2 ^ 16 * b2n x.phase + 2 ^ 17 * b2n x.err

/-- The client that CLIENT_SEL selects. -/
def Dev.clientSel (d : Dev) (p : Nat) : Nat := fld (d.reg (ptn p + 0x340)) 0 8

/-- The device-produced ring of a slot (R350). -/
def slotRing (p slot : Nat) : Nat := if slot < 16 then 16 * p + slot else 256 + 16 * (slot - 16) + p

/-- Registers of a PTN page whose reads show state held elsewhere. -/
def Dev.ptnView (d : Dev) (p o : Nat) : Option Nat :=
  if o = 0 then some (p + 2 ^ 8 * d.pkgId + 2 ^ 16 * b2n d.vfs)
  else if 0x344 ≤ o ∧ o ≤ 0x354 then some (d.clientCnt p (d.clientSel p) ((o - 0x344) / 4)).toNat
  else if o = 0x42C then some (((d.srv p).seqs.filter (fun q => q.admitted)).length + 2 ^ 16 * (d.srv p).wait.length)
  else if o = 0x430 then some (d.srv p).free.length
  else none

/-- Registers of a QUE page whose reads show state held elsewhere. -/
def Dev.queView (d : Dev) (p o : Nat) : Option Nat :=
  let slot := o / 0x80
  if slot < 19 then
    (if o % 0x80 = 0x38 ∧ slot < 16 then some ((d.sring (16 * p + slot)).cons % 2 ^ 16 + 2 ^ 16 * b2n (d.sring (16 * p + slot)).err)
     else if o % 0x80 = 0x3C then some (d.drStatus (slotRing p slot)) else none)
  else if o = 0xF04 then some (b2n (d.live p)) else none

/-- BEAT registers that show the beat unit. -/
def BeatUnit.view (u : BeatUnit) (o : Nat) : Option Nat :=
  if o = 0x00 then some u.ctrl
  else if o = 0x04 then some u.status
  else if o = 0x08 then some u.p16
  else if o = 0x0C then some (min u.anom 15 + 2 ^ 8 * min u.miss 127)
  else if o = 0x20 then some (u.base.toNat % 2 ^ 32)
  else if o = 0x24 then some (u.base.toNat / 2 ^ 32)
  else none

/-- LYR_STATUS_i. -/
def Dev.lyrStatus (d : Dev) (i : Nat) : Nat :=
  match (d.lyr i).cid.bind d.cmd with
  | some c => if d.lyrBusy i then 1 + 2 * c.part else 0
  | none => 0

/-- Registers of the other blocks whose reads show state held elsewhere. -/
def State.view (s : State) (m : Nat) : Option Nat :=
  let d := s.dev
  if m = 0 then some (0x5116 + 2 ^ 16 * (if Config.isC then 2 else 1) + 2 ^ 20)
  else if 0x200 ≤ m ∧ m < 0x240 then (if m % 16 = 12 then some (b2n (s.winOpen ((m - 0x200) / 16))) else none)
  else if m < 0x10000 then none
  else if m < 0x20000 then s.beat.view (m - 0x10000)
  else if m < 0x30000 then d.ptnView ((m - 0x20000) / 0x1000) (m % 0x1000)
  else if m < 0x40000 then none
  else if m < 0x50000 then d.queView ((m - 0x40000) / 0x1000) (m % 0x1000)
  else if m = 0x5003C then some (d.drStatus 320)
  else if 0x60000 ≤ m ∧ m < 0x80000 then
    (if m % 0x2000 = 0x40 then some (d.bufs.filter (fun e => e.1 / 4096 == (m - 0x60000) / 0x2000 && e.2.valid)).length else none)
  else if 0x80010 ≤ m ∧ m < 0x80020 then some (luadexK / 2 ^ (32 * ((m - 0x80010) / 4)) % 2 ^ 32)
  else if 0x80100 ≤ m ∧ m < 0x80160 then some (Config.pubKey ((m - 0x80100) / 4)).toNat
  else if 0x81000 ≤ m ∧ m < 0x81400 then (if m % 0x40 = 0x2C then some (d.drStatus (304 + (m - 0x81000) / 0x40)) else none)
  else if m = 0xE1004 then some (d.grpLatest (fld (d.reg 0xE1000) 0 9)).gen
  else if m = 0xE1014 then some (Sparse.get (fun _ => 0) d.net.gmem (fld (d.reg 0xE1010) 0 8))
  else if m = 0x100000 then some (d.lyrStatus 0)
  else if m = 0x100004 then some (d.lyrStatus 1)
  else if m = 0x140004 then some d.pstat
  else none

/-- What a read of a register returns: the low word of a wide counter, its shadow, a view of the state, or the word held. -/
def State.wordAt (s : State) (path : Path) (m : Nat) : Word :=
  match s.wide m with
  | some v => BitVec.ofNat 32 v
  | none =>
    if s.upper m then s.dev.shadowOf path (shadowPlace m)
    else match s.view m with
      | some v => BitVec.ofNat 32 v
      | none => s.dev.reg (copyKey path m)

/-- A register that a read clears: GLB_WERR, PTN_WERR (R573). -/
def isWerr (m : Nat) : Bool := m == 0x20 || (decide (0x20000 ≤ m) && decide (m < 0x30000) && m % 0x1000 == 0x10)

/-- What a read does beside returning its word: a low word latches the higher ones (R12), GLB_WERR and PTN_WERR clear (R573). -/
def State.readEffect (s : State) (path : Path) (m : Nat) : State :=
  match s.wide m with
  | some v =>
    s.onDev (fun d =>
      let d1 := d.latch path (shadowPlace (m + 4)) (BitVec.ofNat 32 (v / 2 ^ 32))
      if m = 0x10010 then d1.latch path 0x10018 (BitVec.ofNat 32 s.beat.notch) else d1)
  | none => if isWerr m then s.onDev (fun d => d.setReg (copyKey path m) 0) else s

/-- A path reads one word at its own offset: 0 where it reaches no register, or one that does not respond (R535, R564, R565). -/
def State.regRead (s : State) (path : Path) (off : Nat) : Word × State :=
  match mgmtOff s.dev path off with
  | none => (0, s)
  | some m => if reaches s.dev path m && s.dev.responds path m then (s.wordAt path m, s.readEffect path m) else (0, s)

/-- A read of one word answers it. -/
def State.readWord (s : State) (path : Path) (off : Nat) : State :=
  let r := s.regRead path off
  r.2.onDev (fun d => d.answer [r.1])

/-! ### Writes, block by block (R572, R579) -/

/-- A write under the tables alone, after its path and its locks. -/
def Dev.plainWrite (d : Dev) (path : Path) (m : Nat) (causes : List (Bool × Nat)) (v : Word) : Dev :=
  d.onWrite path m (d.guard path m (firstCause causes) (d.tableWrite path m (copyKey path m) v))

/-- The windows of a duty stand within R557. -/
def Dev.bgFits (d : Dev) (k : Nat) : Bool :=
  decide (d.bgOffset k < d.bgPeriod k) && decide (d.bgStart k + d.bgLen k ≤ 1024 * d.bgPeriod k)

/-- A write to the GLB block. -/
def Dev.glbWrite (d : Dev) (k : Clk) (path : Path) (m : Nat) (v : Word) : Dev :=
  if m = 0x104 then d.bootCtrl k path v
  else if m = 0x110 then d.fwCtrl path v
  else if m = 0x114 then d.fwData path v
  else if 0x200 ≤ m ∧ m < 0x240 ∧ m % 16 ≠ 12 then
    let d1 := d.setReg m (v &&& BitVec.ofNat 32 (regRule m).mask)
    d.plainWrite path m [(!d1.bgFits ((m - 0x200) / 16), 1)] v
  else d.plainWrite path m [] v

/-- A write through a VF's path. -/
def Path.isVf (path : Path) : Bool := match path with
  | .vf _ => true
  | _ => false

/-- A write to a word of VF_DWIN_BASE or VF_DWIN_LEN (R569): the range that results is checked, the other words as they stand; a
VF may not write it. -/
def Dev.dwinWrite (d : Dev) (path : Path) (p w : Nat) (v : Word) : Dev :=
  let m := ptn p + 0x40 + 4 * w
  let x := (d.setReg m v).window p
  d.plainWrite path m
    [(Path.isVf path, 3), (decide (fld v 0 12 ≠ 0 ∧ w % 2 = 0) || (decide (x.2 ≠ 0) && !d.inOneRange x.1 x.2), 1)] v

/-- The bytes of one save slot (R393, R412). -/
def saveSlotBytes : Nat := 1675264

/-- The save area of a partition: base and length. -/
def Dev.saveArea (d : Dev) (p : Nat) : Nat × Nat := (d.reg64 (ptn p + 0x310), saveSlotBytes * fld (d.reg (ptn p + 0x318)) 0 7)

/-- A ring bound to the compute or the serving engine is live (R412). -/
def Dev.computeLive (d : Dev) (p : Nat) : Bool :=
  (List.range 16).any (fun i => d.srEn (16 * p + i) && (d.srEngine (16 * p + i) == 0 || d.srEngine (16 * p + i) == 3))

/-- A write to PRE_SAVE or PRE_SAVE_SLOTS (R412, R570): the whole area that results lies within one range of device memory, and
through a VF's path within its window. An area of no slot lies anywhere. -/
def Dev.saveWrite (d : Dev) (path : Path) (p m : Nat) (v : Word) : Dev :=
  let a := (d.setReg m (v &&& BitVec.ofNat 32 (regRule m).mask)).saveArea p
  let w := d.window p
  let inWin := a.2 == 0 || (decide (w.1 ≤ a.1) && decide (a.1 + a.2 ≤ w.1 + w.2))
  let inMap := a.2 == 0 || (!isHost a.1 && d.inOneRange a.1 a.2)
  d.plainWrite path m [(Path.isVf path && !inWin, 3), (d.computeLive p, 2), (!inLims (regRule m).lims v || !inMap, 1)] v

/-- A write to the PTN page of a partition at page offset `o`. -/
def Dev.ptnWrite (d : Dev) (path : Path) (p o m : Nat) (v : Word) : Dev :=
  if 0x40 ≤ o ∧ o < 0x50 then d.dwinWrite path p ((o - 0x40) / 4) v
  else if o = 0x50 ∨ o = 0x54 then d.plainWrite path m [(Path.isVf path, 3)] v
  else if o = 0x104 then d.onWrite path m (d.guard path m (firstCause [(d.live p, 2)]) (d.setReg (pathKey path m) v))
  else if o = 0x108 then d.tallyHi path p v
  else if o = 0x310 ∨ o = 0x314 ∨ o = 0x318 then d.saveWrite path p m v
  else if 0x344 ≤ o ∧ o ≤ 0x350 then d.onWrite path m (if v = 0 then d.setClient p (d.clientSel p) ((o - 0x344) / 4) 0 else d)
  else if o = 0x354 then d.onWrite path m (d.setClient p (d.clientSel p) 4 (d.clientCnt p (d.clientSel p) 4 &&& ~~~v))
  else if o = 0x400 then d.srvCtrlWrite path p v
  else if 0x404 ≤ o ∧ o ≤ 0x428 then d.plainWrite path m [(d.srvEn p, 2)] v
  else d.plainWrite path m [] v

/-- A write to a device-produced ring's own fields of a slot: locked while its EN is set or an EN write waits (R352). -/
def Dev.drFieldWrite (d : Dev) (path : Path) (r o m : Nat) (v : Word) : Dev :=
  if o = 0x28 then d.onWrite path m (d.drCfgWrite path r v)
  else if o = 0x20 ∨ o = 0x24 ∨ o = 0x30 ∨ o = 0x34 then d.plainWrite path m [(d.drPending r || d.drEn r, 2)] v
  else d.plainWrite path m [(d.drPending r, 2)] v

/-- A write to the QUE page of a partition at page offset `o` (R350 to R352). -/
def Dev.queWrite (d : Dev) (path : Path) (p o m : Nat) (v : Word) : Dev :=
  let slot := o / 0x80
  let f := o % 0x80
  if 19 ≤ slot then d.plainWrite path m [] v
  else if slot < 16 ∧ f = 0x08 then d.onWrite path m (d.sqCfgWrite path (16 * p + slot) v)
  else if slot < 16 ∧ f < 0x20 then d.plainWrite path m [(d.slotPending p slot || d.srEn (16 * p + slot), 2)] v
  else d.drFieldWrite path (slotRing p slot) f m v

/-- A write to BUF_CMD: code 0 does nothing (R353). -/
def Dev.bufCmdWrite (d : Dev) (path : Path) (p : Nat) (v : Word) : Dev :=
  match fld v 0 2 with
  | 1 => d.bufWrite path p
  | 2 => d.bufInvalidate path p
  | 3 => d.bufRead path p
  | _ => d.bufCmd path p d

/-- A write to RGN_CMD: codes 0 and 3 are refused (R307). -/
def Dev.rgnCmd (d : Dev) (path : Path) (r m : Nat) (v : Word) : Dev :=
  match fld v 0 2 with
  | 1 => d.rgnSeal path r v
  | 2 => d.rgnUnseal path r
  | _ => d.onWrite path m (d.refuse path m 1)

/-- A write to the CHK block (R108, R109, R307, R308). -/
def Dev.chkWrite (d : Dev) (path : Path) (m : Nat) (v : Word) : Dev :=
  if 0x81000 ≤ m ∧ m < 0x81400 then
    let p := (m - 0x81000) / 0x40
    let o := m % 0x40
    if o = 0x0C then d.onWrite path m (d.drCfgWrite path (304 + p) v)
    else if o = 0x28 then d.plainWrite path m [(d.drPending (304 + p), 2)] v
    else if o < 0x0C ∨ o = 0x20 ∨ o = 0x24 then d.plainWrite path m [(d.drPending (304 + p) || d.live p, 2)] v
    else d.plainWrite path m [] v
  else if 0x82000 ≤ m ∧ m < 0x83000 then
    let r := (m - 0x82000) / 0x40
    let o := m % 0x40
    if o = 0x20 then d.rgnCmd path r m v
    else if o < 0x20 then d.plainWrite path m [(decide (d.rgnSt r ≠ 0), 2)] v
    else d.plainWrite path m [] v
  else d.plainWrite path m [] v

/-- ORD_SETS_d after a change of a landing of the die: 3,072 sets less 32 a MiB (R248). -/
def Dev.ordSets (d : Dev) (die : Nat) : Dev :=
  let sum := (List.range 4).foldl (fun a i => a + fld (d.reg (0xC0010 + 4 * (4 * die + i))) 0 5) 0
  d.setRegN (0xC0060 + 4 * die) (3072 - 32 * sum)

/-- A write to the CCH block but NEAR_GIB (R248, R274). -/
def Dev.cchWrite (d : Dev) (path : Path) (m : Nat) (v : Word) : Dev :=
  if 0xC0010 ≤ m ∧ m < 0xC0050 then
    let die := (m - 0xC0010) / 16
    (d.plainWrite path m [((List.range 4).any (fun i => d.live (4 * die + i)), 2)] v).ordSets die
  else d.plainWrite path m [] v

/-- A shape that breaks R24: a wrap flag on an axis of size 1 or 2. -/
def badShape (v : Word) : Bool := (List.range 3).any (fun a => flag v (8 + a) && decide (fld v (2 * a) 2 < 2))

/-- A write to the HKL block but the commands of the stand and the ports' control (R447). -/
def Dev.hklWrite (d : Dev) (lead : Bool) (path : Path) (m : Nat) (v : Word) : Dev :=
  if m = 0xE0000 then d.plainWrite path m [(d.boot.links, 2)] v
  else if m = 0xE0008 then d.plainWrite path m [(badShape v, 1), (!lead, 4)] v
  else if m = 0xE1014 then
    d.onWrite path m { d with net := { d.net with gmem := Sparse.put (fun _ => 0) d.net.gmem (fld (d.reg 0xE1010) 0 8) (fld v 0 10) } }
  else if 0xE4000 ≤ m ∧ m < 0xE4400 then d.plainWrite path m [(d.srEn ((m - 0xE4000) / 4), 2)] v
  else d.plainWrite path m [] v

/-- A write to PKG_CAP or PART_CAP_n of a field of `w` bits (R472). -/
def Dev.capWrite (d : Dev) (path : Path) (m w least : Nat) (zero : Bool) (v : Word) : Dev :=
  let x := fld v 0 w
  let ok := (zero && x == 0) || (decide (least ≤ x) && decide (x ≤ maxCap))
  d.onWrite path m (d.guard path m (firstCause [(!ok, 1)]) (d.setRegN m x))

/-- A write to the PWR block but PWR_CMD (R466, R471, R472, R479, R494): the latched fault clears through the service space alone. -/
def Dev.pwrWrite (d : Dev) (k : Clk) (path : Path) (m : Nat) (v : Word) : Dev :=
  let o := m - 0x120000
  if o = 0x04 then (List.range 4).foldl (fun a i => a.dieRefresh i) (d.plainWrite path m [] v)
  else if o = 0x0C then
    d.onWrite path m (if path = .svc then d.setReg m (d.reg m &&& ~~~(v &&& 0x0FFF2000)) else d)
  else if o = 0x20 then d.capWrite path m 12 200 false v
  else if 0x40 ≤ o ∧ o < 0x80 then d.capWrite path m 11 10 true v
  else if 0x100 ≤ o ∧ o < 0x120 then d.coefWrite k path ((o - 0x100) / 4) v
  else if 0x120 ≤ o ∧ o < 0x13C then d.coefWrite k path (8 + (o - 0x120) / 4) v
  else d.plainWrite path m [] v

/-- A write to the SVC block (R537, R542, R544, R546, R548). -/
def Dev.svcWrite (d : Dev) (k : Clk) (path : Path) (m : Nat) (v : Word) : Dev :=
  let o := m - 0x140000
  if o = 0x20 then d.compCmd path v
  else if o = 0x108 then d.pmbCmd path v
  else if 0x400 ≤ o ∧ o < 0x448 then (d.plainWrite path m [] v).sindCheck k ((o - 0x400) / 4)
  else if o = 0x488 then (List.range 18).foldl (fun a n => a.sindCheck k n) (d.plainWrite path m [] v)
  else d.plainWrite path m [] v

/-- A write to the FLT block but its resets (R499, R500, R523, R578). -/
def Dev.fltWrite (d : Dev) (k : Clk) (lead : Bool) (path : Path) (m : Nat) (v : Word) : Dev :=
  let o := m - 0x160000
  if 0x1000 ≤ o ∧ o < 0x1000 + 8 * 576 then
    (if o % 8 = 0 then d.coreMapWrite k path ((o - 0x1000) / 8) v else d.onWrite path m (d.stage path (m - 4) v))
  else if 0x800 ≤ o ∧ o < 0xA00 then
    (if o % 8 = 0 then d.pkgStateWrite lead path ((o - 0x800) / 8) v else d.onWrite path m (d.stage path (m - 4) v))
  else if 0x300 ≤ o ∧ o < 0x380 ∧ o % 8 = 4 then d.onWrite path m (d.stage path (m - 4) v)
  else if 0xA00 ≤ o ∧ o < 0xB00 then
    (if lead then d.plainWrite path m [] v else d.onWrite path m ((d.refuse path m 4).fstResult 4))
  else d.plainWrite path m [] v

/-- A write to a register that changes nothing outside Dev. -/
def Dev.writeAt (d : Dev) (k : Clk) (lead : Bool) (path : Path) (m : Nat) (v : Word) : Dev :=
  if m < 0x10000 then d.glbWrite k path m v
  else if m < 0x20000 then d.plainWrite path m [] v
  else if m < 0x30000 then d.ptnWrite path ((m - 0x20000) / 0x1000) (m % 0x1000) m v
  else if m < 0x50000 then d.queWrite path ((m - 0x40000) / 0x1000) (m % 0x1000) m v
  else if m < 0x51000 then (if m % 0x1000 < 0x80 then d.drFieldWrite path 320 (m % 0x1000) m v else d.plainWrite path m [] v)
  else if m < 0x80000 then
    (if m % 0x2000 = 4 then d.bufCmdWrite path ((m - 0x60000) / 0x2000) v else d.plainWrite path m [] v)
  else if m < 0xA0000 then d.chkWrite path m v
  else if m < 0xC0000 then d.plainWrite path m [] v
  else if m < 0xE0000 then d.cchWrite path m v
  else if m < 0x100000 then d.hklWrite lead path m v
  else if m < 0x120000 then d.plainWrite path m [] v
  else if m < 0x140000 then d.pwrWrite k path m v
  else if m < 0x160000 then d.svcWrite k path m v
  else d.fltWrite k lead path m v

/-- A write to HKL_LEAD_CFG (R28, R579): before training, it or the strap makes the package lead candidate. -/
def State.leadCfg (s : State) (path : Path) (v : Word) : State :=
  let m := 0xE0004
  s.onWrite path m (
    if s.dev.boot.links then s.onDev (fun d => d.refuse path m 2)
    else (s.onDev (fun d => d.setReg m (v &&& 1))).setRole (if flag v 0 || s.dev.strapLead then .lead else .alone))

/-- A write to PART_RESET (R510, R523): GO resets the partition named. -/
def State.partResetWrite (s : State) (path : Path) (v : Word) : State :=
  s.onWrite path 0x160010 (if flag v 8 then s.partReset (fld v 0 4) 1 else s)

/-- A write to the register at a management offset. -/
def State.writeAt (s : State) (path : Path) (m : Nat) (v : Word) : State :=
  if (regRule m).kind = .unmapped then s
  else if m = 0x10000 then s.beatCtrlVia path v s.dev.now
  else if m = 0x10020 ∨ m = 0x10024 then (if reaches s.dev path m then s.beatBaseWrite path (decide (m = 0x10024)) v else s)
  else if m = 0xC0000 then s.nearWrite path v
  else if m = 0xE0004 then s.leadCfg path v
  else if 0xE0100 ≤ m ∧ m < 0xE01C0 ∧ m % 0x20 = 0 then s.portWrite path ((m - 0xE0100) / 0x20) v
  else if m = 0xE0010 then s.leadSwap path v
  else if m = 0xE1018 then s.onWrite path m (s.groupCmd path v)
  else if m = 0x120000 then s.pwrCmd path v s.dev.now
  else if m = 0x160010 then s.partResetWrite path v
  else if m = 0x160014 then s.devResetWrite path v
  else s.onDev (fun d => d.writeAt s.clk (decide (s.beat.role = .lead)) path m v)

/-- A path writes one word at its own offset: a wake page, a register, or nothing (R326, R565). -/
def State.regWrite (s : State) (path : Path) (off : Nat) (v : Word) : State :=
  match wakePage path off with
  | some fn => s.onDev (fun d => d.wake fn)
  | none => match mgmtOff s.dev path off with
    | some m => s.writeAt path m v
    | none => s

/-! ### Meanings -/

/-- REGISTER_WRITE (R572). -/
def execRegisterWrite (path : Path) (off : Nat) (v : Word) (s : State) : Out := .next (s.regWrite path off v)

/-- STAT_COUNTER_CLEAR (R9, R576). -/
def execStatCounterClear (path : Path) (off : Nat) (v : Word) (s : State) : Out := .next (s.regWrite path off v)

/-- COUNTER_LOW_READ (R12). -/
def execCounterLowRead (path : Path) (off : Nat) (s : State) : Out := .next (s.readWord path off)

/-- WERR_READ (R573). -/
def execWerrRead (path : Path) (off : Nat) (s : State) : Out := .next (s.readWord path off)

/-- VF_DWIN_WRITE (R569). -/
def execVfDwinWrite (path : Path) (p : Fin 16) (w : Fin 4) (v : Word) (s : State) : Out :=
  .next (s.onDev (fun d => d.dwinWrite path p.val w.val v))

end Sys2Proof.Machine
end

