-- ==== Sys2Proof/Machine/SvcPort.lean ====
section
/-! DEFINITION. The frames of the service port (R524 to R536). -/

namespace Sys2Proof.Machine

/-- The page register. -/
def Dev.svcPage (d : Dev) : Nat := fld (d.reg 0x140004) 0 10

/-- The error bits of the last frame: CRC error, framing error. -/
def Dev.frameBits (d : Dev) (crc framing : Bool) : Dev :=
  d.setReg 0x140004 (setFld (d.reg 0x140004) 10 2 (b2n crc + 2 * b2n framing))

/-- REFUSED of the last write frame. -/
def Dev.setRefused (d : Dev) (b : Bool) : Dev := d.setReg 0x140004 (setFld (d.reg 0x140004) 12 1 (b2n b))

/-- A discarded frame (R530). -/
def Dev.frameLost (d : Dev) (crc framing : Bool) : Dev := (d.frameBits crc framing).bump 0x140010

/-- A frame that is applied. -/
def Dev.frameTaken (d : Dev) : Dev := (d.frameBits false false).bump 0x14000C

/-- A frame of `nbits` bits after its command byte, with at most `most` words: none for a framing error, otherwise its words and
whether its CRC-8 matches (R528, R529). -/
def frameWords (need : Bool) (most : Nat) (cmd : Byte) (data : Bytes) (nbits : Nat) : Option (List Word × Bool) :=
  let k := nbits / 32
  let crc := nbits % 32 == 8
  if (nbits % 32 = 0 ∨ nbits % 32 = 8) ∧ 1 ≤ k ∧ k ≤ most ∧ data.length * 8 = nbits ∧ (need = true → crc = true) then
    let body := data.take (4 * k)
    let ws := (List.range k).map (fun i => BitVec.ofNat 32 (leNat (sub body (4 * i) 4).reverse))
    some (ws, !crc || crc8 (cmd :: body) == fieldAt data (4 * k) 1)
  else none

/-- The operation of a command byte, and its word address (R526). -/
def frameOp (cmd : Byte) : Nat := cmd.toNat / 64
/-- The word address of a command byte. -/
def frameAddr (cmd : Byte) : Nat := cmd.toNat % 64

/-- One word of a write frame is written; SVC_PSTAT.REFUSED sets where it is refused (R530). GLB_WERR of the port tells, and keeps what it
held where nothing is refused. -/
def State.frameWrite (page : Nat) (s : State) (x : Nat × Word) : State :=
  let key := pathKey .svc 0x20
  let old := s.dev.reg key
  let s1 := (s.onDev (fun d => d.setReg key 0)).regWrite .svc (64 * page + x.1 % 64) x.2
  if flag (s1.dev.reg key) 31 then s1.onDev (fun d => d.setRefused true) else s1.onDev (fun d => d.setReg key old)

/-- SVC_WRITE_FRAME (R526 to R530): checked whole, then its words in order at addresses that wrap within the page. -/
def execSvcWriteFrame (cmd : Byte) (data : Bytes) (nbits : Nat) (s : State) : Out :=
  .next (
    if !s.dev.boot.svcUp || frameOp cmd != 0 then s
    else match frameWords (flag (s.dev.reg 0x140000) 0) 64 cmd data nbits with
      | none => s.onDev (fun d => (d.frameLost false true).setRefused false)
      | some (_, false) => s.onDev (fun d => (d.frameLost true false).setRefused false)
      | some (ws, true) =>
        let s1 := s.onDev (fun d => d.frameTaken.setRefused false)
        ((List.range ws.length).zip ws).foldl (fun a x => State.frameWrite s.dev.svcPage a (frameAddr cmd + x.1, x.2)) s1)

/-- SVC_SET_PAGE (R526, R528, R530). -/
def execSvcSetPage (cmd : Byte) (data : Bytes) (nbits : Nat) (s : State) : Out :=
  .next (s.onDev (fun d =>
    if !d.boot.svcUp || frameOp cmd != 3 then d
    else if frameAddr cmd ≠ 0 then d.frameLost false true
    else match frameWords (flag (d.reg 0x140000) 0) 1 cmd data nbits with
      | some ([w], ok) =>
        if !ok then d.frameLost true false
        else if 2 ^ 10 ≤ w.toNat then d.frameLost false true
        else d.frameTaken.setReg 0x140004 (setFld (d.frameTaken.reg 0x140004) 0 10 w.toNat)
      | _ => d.frameLost false true))

/-- A word as its four bytes on the wire (R525). -/
def wireBytes (w : Word) : Bytes := be 4 w.toNat

/-- What the device drives: each word, and with RD_CRC set the CRC-8 of the command byte and every word so far (R531). -/
def driven (crc : Bool) (cmd : Byte) : List Word → List Word → Bytes
  | _, [] => []
  | seen, w :: r =>
    let sofar := seen ++ [w]
    wireBytes w ++ (if crc then le 1 (crc8 (cmd :: sofar.flatMap wireBytes)) else []) ++ driven crc cmd sofar r

/-- The words of a read frame, each one 32-bit read of the port's path (R527, R531). -/
def State.frameRead (page : Nat) : Nat → Nat → State → List Word × State
  | 0, _, s => ([], s)
  | n + 1, a, s =>
    let r := s.regRead .svc (64 * page + a % 64)
    let t := State.frameRead page n (a + 1) r.2
    (r.1 :: t.1, t.2)

/-- The device has driven some words. -/
def Dev.drive (d : Dev) (cmd : Byte) (ws : List Word) : Dev :=
  { d with svc := { d.svc with out := driven (flag (d.reg 0x140000) 1) cmd [] ws }, resp := ws }

/-- SVC_READ_FRAME (R526, R527, R531): the master ends it after `units` units. -/
def execSvcReadFrame (cmd : Byte) (units : Nat) (s : State) : Out :=
  .next (
    if !s.dev.boot.svcUp || frameOp cmd != 1 then s
    else
      let r := State.frameRead s.dev.svcPage units (frameAddr cmd) s
      r.2.onDev (fun d => d.drive cmd r.1))

/-- SVC_READ_STATUS (R526, R531): one unit, SVC_PSTAT; a word address that is not 0 is a framing error, and nothing is driven. -/
def execSvcReadStatus (cmd : Byte) (s : State) : Out :=
  .next (s.onDev (fun d =>
    if !d.boot.svcUp || frameOp cmd != 2 then d
    else if frameAddr cmd ≠ 0 then (d.frameLost false true).drive cmd []
    else d.drive cmd [BitVec.ofNat 32 d.pstat]))

/-- SVC_FRAME_TIMEOUT (R532). -/
def execSvcFrameTimeout (s : State) : Out :=
  .next (s.onDev (fun d => if d.boot.svcUp then d.frameLost false true else d))

end Sys2Proof.Machine
end

