-- ==== Sys2Proof/Machine/Dispatch.lean ====
section
/-! DEFINITION. One arm per command: each arm calls that command's meaning. -/

namespace Sys2Proof.Machine

def exec (i : Instr) (s : State) : Host.Outcome State Fault Refusal :=
  match i with
  | .registerWrite path off v => Sys2Proof.Machine.execRegisterWrite path off v s
  | .statCounterClear path off v => Sys2Proof.Machine.execStatCounterClear path off v s
  | .counterLowRead path off => Sys2Proof.Machine.execCounterLowRead path off s
  | .werrRead path off => Sys2Proof.Machine.execWerrRead path off s
  | .allocatorGrant a => Sys2Proof.Machine.execAllocatorGrant a s
  | .allocatorWaitTimeout a req => Sys2Proof.Machine.execAllocatorWaitTimeout a req s
  | .internalResetRelease r1 r2 r3 t => Sys2Proof.Machine.execInternalResetRelease r1 r2 r3 t s
  | .strapDisagreeTimeout last t => Sys2Proof.Machine.execStrapDisagreeTimeout last t s
  | .hklIdentityExchange port farId farPort lanes farLead => Sys2Proof.Machine.execHklIdentityExchange port farId farPort lanes farLead s
  | .standAdmit id => Sys2Proof.Machine.execStandAdmit id s
  | .noLeadTimeout => Sys2Proof.Machine.execNoLeadTimeout s
  | .beatEdge t => Sys2Proof.Machine.execBeatEdge t s
  | .beatBoundaryPredicted t => Sys2Proof.Machine.execBeatBoundaryPredicted t s
  | .beatWindowClose t => Sys2Proof.Machine.execBeatWindowClose t s
  | .beatSilentTimeout t => Sys2Proof.Machine.execBeatSilentTimeout t s
  | .beatNoLockTimeout t => Sys2Proof.Machine.execBeatNoLockTimeout t s
  | .notchBegin t => Sys2Proof.Machine.execNotchBegin t s
  | .beatBoundaryFire t => Sys2Proof.Machine.execBeatBoundaryFire t s
  | .beatSymbol port sym t => Sys2Proof.Machine.execBeatSymbol port sym t s
  | .beatSync port num d => Sys2Proof.Machine.execBeatSync port num d s
  | .beatOutPulseEnd t => Sys2Proof.Machine.execBeatOutPulseEnd t s
  | .beatEnClear path v => Sys2Proof.Machine.execBeatEnClear path v s
  | .beatEnSet path v t => Sys2Proof.Machine.execBeatEnSet path v t s
  | .beatSrcChange path v => Sys2Proof.Machine.execBeatSrcChange path v s
  | .beatBaseWrite path hi v => Sys2Proof.Machine.execBeatBaseWrite path hi v s
  | .checkLaneCompare core upsets => Sys2Proof.Machine.execCheckLaneCompare core upsets s
  | .shadowCompareDone spare same => Sys2Proof.Machine.execShadowCompareDone spare same s
  | .intakePassDone cid host => Sys2Proof.Machine.execIntakePassDone cid host s
  | .digestPassDone cid host => Sys2Proof.Machine.execDigestPassDone cid host s
  | .receiptWrite p => Sys2Proof.Machine.execReceiptWrite p s
  | .sealSignDone p t => Sys2Proof.Machine.execSealSignDone p t s
  | .sealRecordWrite p => Sys2Proof.Machine.execSealRecordWrite p s
  | .sealStallTimeout p t => Sys2Proof.Machine.execSealStallTimeout p t s
  | .completionWrite p k => Sys2Proof.Machine.execCompletionWrite p k s
  | .interruptDelayExpire ring => Sys2Proof.Machine.execInterruptDelayExpire ring s
  | .eventWrite ring => Sys2Proof.Machine.execEventWrite ring s
  | .sealRingEnable path p v => Sys2Proof.Machine.execSealRingEnable path p v s
  | .sealRingDisable path p v => Sys2Proof.Machine.execSealRingDisable path p v s
  | .nop g f => Sys2Proof.Machine.execNop g f s
  | .bra g f => Sys2Proof.Machine.execBra g f s
  | .exit g f => Sys2Proof.Machine.execExit g f s
  | .bar g f => Sys2Proof.Machine.execBar g f s
  | .barrierRelease core pos => Sys2Proof.Machine.execBarrierRelease core pos s
  | .yield g f => Sys2Proof.Machine.execYield g f s
  | .beatrd g f => Sys2Proof.Machine.execBeatrd g f s
  | .beatwait g f => Sys2Proof.Machine.execBeatwait g f s
  | .chkmark g f => Sys2Proof.Machine.execChkmark g f s
  | .iadd g f => Sys2Proof.Machine.execIadd g f s
  | .isub g f => Sys2Proof.Machine.execIsub g f s
  | .imul g f => Sys2Proof.Machine.execImul g f s
  | .imulhi g f => Sys2Proof.Machine.execImulhi g f s
  | .imad g f => Sys2Proof.Machine.execImad g f s
  | .iaddsat g f => Sys2Proof.Machine.execIaddsat g f s
  | .isubsat g f => Sys2Proof.Machine.execIsubsat g f s
  | .imin g f => Sys2Proof.Machine.execImin g f s
  | .imax g f => Sys2Proof.Machine.execImax g f s
  | .and g f => Sys2Proof.Machine.execAnd g f s
  | .or g f => Sys2Proof.Machine.execOr g f s
  | .xor g f => Sys2Proof.Machine.execXor g f s
  | .shl g f => Sys2Proof.Machine.execShl g f s
  | .shr g f => Sys2Proof.Machine.execShr g f s
  | .isetp g f => Sys2Proof.Machine.execIsetp g f s
  | .ibit g f => Sys2Proof.Machine.execIbit g f s
  | .iaddI g f => Sys2Proof.Machine.execIaddI g f s
  | .isubI g f => Sys2Proof.Machine.execIsubI g f s
  | .imulI g f => Sys2Proof.Machine.execImulI g f s
  | .imulhiI g f => Sys2Proof.Machine.execImulhiI g f s
  | .imadI g f => Sys2Proof.Machine.execImadI g f s
  | .iaddsatI g f => Sys2Proof.Machine.execIaddsatI g f s
  | .isubsatI g f => Sys2Proof.Machine.execIsubsatI g f s
  | .iminI g f => Sys2Proof.Machine.execIminI g f s
  | .imaxI g f => Sys2Proof.Machine.execImaxI g f s
  | .andI g f => Sys2Proof.Machine.execAndI g f s
  | .orI g f => Sys2Proof.Machine.execOrI g f s
  | .xorI g f => Sys2Proof.Machine.execXorI g f s
  | .shlI g f => Sys2Proof.Machine.execShlI g f s
  | .shrI g f => Sys2Proof.Machine.execShrI g f s
  | .isetpI g f => Sys2Proof.Machine.execIsetpI g f s
  | .fadd g f => Sys2Proof.Machine.execFadd g f s
  | .fsub g f => Sys2Proof.Machine.execFsub g f s
  | .fmul g f => Sys2Proof.Machine.execFmul g f s
  | .ffma g f => Sys2Proof.Machine.execFfma g f s
  | .fmin g f => Sys2Proof.Machine.execFmin g f s
  | .fmax g f => Sys2Proof.Machine.execFmax g f s
  | .fsetp g f => Sys2Proof.Machine.execFsetp g f s
  | .faddI g f => Sys2Proof.Machine.execFaddI g f s
  | .fsubI g f => Sys2Proof.Machine.execFsubI g f s
  | .fmulI g f => Sys2Proof.Machine.execFmulI g f s
  | .ffmaI g f => Sys2Proof.Machine.execFfmaI g f s
  | .fminI g f => Sys2Proof.Machine.execFminI g f s
  | .fmaxI g f => Sys2Proof.Machine.execFmaxI g f s
  | .fsetpI g f => Sys2Proof.Machine.execFsetpI g f s
  | .hadd2 g f => Sys2Proof.Machine.execHadd2 g f s
  | .hsub2 g f => Sys2Proof.Machine.execHsub2 g f s
  | .hmul2 g f => Sys2Proof.Machine.execHmul2 g f s
  | .hfma2 g f => Sys2Proof.Machine.execHfma2 g f s
  | .hmin2 g f => Sys2Proof.Machine.execHmin2 g f s
  | .hmax2 g f => Sys2Proof.Machine.execHmax2 g f s
  | .hsetp2 g f => Sys2Proof.Machine.execHsetp2 g f s
  | .rcp g f => Sys2Proof.Machine.execRcp g f s
  | .rsq g f => Sys2Proof.Machine.execRsq g f s
  | .sqrt g f => Sys2Proof.Machine.execSqrt g f s
  | .ex2 g f => Sys2Proof.Machine.execEx2 g f s
  | .lg2 g f => Sys2Proof.Machine.execLg2 g f s
  | .sin g f => Sys2Proof.Machine.execSin g f s
  | .cos g f => Sys2Proof.Machine.execCos g f s
  | .tanh g f => Sys2Proof.Machine.execTanh g f s
  | .cvt g f => Sys2Proof.Machine.execCvt g f s
  | .cvtblk g f => Sys2Proof.Machine.execCvtblk g f s
  | .mov g f => Sys2Proof.Machine.execMov g f s
  | .movi g f => Sys2Proof.Machine.execMovi g f s
  | .sel g f => Sys2Proof.Machine.execSel g f s
  | .shfl g f => Sys2Proof.Machine.execShfl g f s
  | .vote g f => Sys2Proof.Machine.execVote g f s
  | .plop g f => Sys2Proof.Machine.execPlop g f s
  | .lane g f => Sys2Proof.Machine.execLane g f s
  | .t2u g f => Sys2Proof.Machine.execT2u g f s
  | .uadd g f => Sys2Proof.Machine.execUadd g f s
  | .usub g f => Sys2Proof.Machine.execUsub g f s
  | .umul g f => Sys2Proof.Machine.execUmul g f s
  | .uand g f => Sys2Proof.Machine.execUand g f s
  | .uor g f => Sys2Proof.Machine.execUor g f s
  | .uxor g f => Sys2Proof.Machine.execUxor g f s
  | .ushl g f => Sys2Proof.Machine.execUshl g f s
  | .ushr g f => Sys2Proof.Machine.execUshr g f s
  | .umovi g f => Sys2Proof.Machine.execUmovi g f s
  | .ldg g f => Sys2Proof.Machine.execLdg g f s
  | .stg g f => Sys2Proof.Machine.execStg g f s
  | .ldl g f => Sys2Proof.Machine.execLdl g f s
  | .stl g f => Sys2Proof.Machine.execStl g f s
  | .prfg g f => Sys2Proof.Machine.execPrfg g f s
  | .atomg g f => Sys2Proof.Machine.execAtomg g f s
  | .atoml g f => Sys2Proof.Machine.execAtoml g f s
  | .casg g f => Sys2Proof.Machine.execCasg g f s
  | .casl g f => Sys2Proof.Machine.execCasl g f s
  | .fence g f => Sys2Proof.Machine.execFence g f s
  | .fenceComplete g => Sys2Proof.Machine.execFenceComplete g s
  | .loadDataReturn g host => Sys2Proof.Machine.execLoadDataReturn g host s
  | .mma g f => Sys2Proof.Machine.execMma g f s
  | .mrd g f => Sys2Proof.Machine.execMrd g f s
  | .mwait g f => Sys2Proof.Machine.execMwait g f s
  | .mclr g f => Sys2Proof.Machine.execMclr g f s
  | .matrixOpStart core => Sys2Proof.Machine.execMatrixOpStart core s
  | .mmaComplete core => Sys2Proof.Machine.execMmaComplete core s
  | .mrdComplete core => Sys2Proof.Machine.execMrdComplete core s
  | .mclrComplete core => Sys2Proof.Machine.execMclrComplete core s
  | .coreCycle core => Sys2Proof.Machine.execCoreCycle core s
  | .blockDispatch p cid => Sys2Proof.Machine.execBlockDispatch p cid s
  | .meshFlitReceive die a b crcOk cids => Sys2Proof.Machine.execMeshFlitReceive die a b crcOk cids s
  | .routeReconfigure die a b failA failB lost => Sys2Proof.Machine.execRouteReconfigure die a b failA failB lost s
  | .stressTick => Sys2Proof.Machine.execStressTick s
  | .wearEvaluate => Sys2Proof.Machine.execWearEvaluate s
  | .wearSwap p => Sys2Proof.Machine.execWearSwap p s
  | .rds addr p errs => Sys2Proof.Machine.execRds addr p errs s
  | .rdu addr p errs => Sys2Proof.Machine.execRdu addr p errs s
  | .upg addr p errs => Sys2Proof.Machine.execUpg addr p errs s
  | .evc addr p => Sys2Proof.Machine.execEvc addr p s
  | .wb addr p => Sys2Proof.Machine.execWb addr p s
  | .pkr addr who errs => Sys2Proof.Machine.execPkr addr who errs s
  | .invw addr who mask data errs => Sys2Proof.Machine.execInvw addr who mask data errs s
  | .atm addr g lane errs => Sys2Proof.Machine.execAtm addr g lane errs s
  | .snoop addr p => Sys2Proof.Machine.execSnoop addr p s
  | .snoopReply addr p => Sys2Proof.Machine.execSnoopReply addr p s
  | .homeTimeout addr p => Sys2Proof.Machine.execHomeTimeout addr p s
  | .writeLand port stream addr mask data => Sys2Proof.Machine.execWriteLand port stream addr mask data s
  | .finalWriteArrive port stream cid count addr mask data t => Sys2Proof.Machine.execFinalWriteArrive port stream cid count addr mask data t s
  | .orderingTimeout port stream => Sys2Proof.Machine.execOrderingTimeout port stream s
  | .nearGibWrite path v => Sys2Proof.Machine.execNearGibWrite path v s
  | .bulkSlotIssue die granule write errs p => Sys2Proof.Machine.execBulkSlotIssue die granule write errs p s
  | .narrowAccess die codeword write errs p => Sys2Proof.Machine.execNarrowAccess die codeword write errs p s
  | .rowRemapDone die ch bank row => Sys2Proof.Machine.execRowRemapDone die ch bank row s
  | .dramThermalSample temps t => Sys2Proof.Machine.execDramThermalSample temps t s
  | .dramThrottleStep die t => Sys2Proof.Machine.execDramThrottleStep die t s
  | .rgnSeal path r v => Sys2Proof.Machine.execRgnSeal path r v s
  | .rgnUnseal path r v => Sys2Proof.Machine.execRgnUnseal path r v s
  | .rgnSealingDone r unreadable => Sys2Proof.Machine.execRgnSealingDone r unreadable s
  | .repairReadDone r ok data => Sys2Proof.Machine.execRepairReadDone r ok data s
  | .repairReadTimeout r => Sys2Proof.Machine.execRepairReadTimeout r s
  | .cruiseRead die errs => Sys2Proof.Machine.execCruiseRead die errs s
  | .sealedCruisePage errs tableErrs => Sys2Proof.Machine.execSealedCruisePage errs tableErrs s
  | .cruisePeriodEnd sealed die => Sys2Proof.Machine.execCruisePeriodEnd sealed die s
  | .unsupportedRequest => Sys2Proof.Machine.execUnsupportedRequest s
  | .barAccessMisaligned path off isRead => Sys2Proof.Machine.execBarAccessMisaligned path off isRead s
  | .vfFlr k => Sys2Proof.Machine.execVfFlr k s
  | .pfFlr => Sys2Proof.Machine.execPfFlr s
  | .pcieHotReset => Sys2Proof.Machine.execPcieHotReset s
  | .pcieLinkDown => Sys2Proof.Machine.execPcieLinkDown s
  | .numvfsWrite v => Sys2Proof.Machine.execNumvfsWrite v s
  | .wakeWrite fn => Sys2Proof.Machine.execWakeWrite fn s
  | .ringScan fn => Sys2Proof.Machine.execRingScan fn s
  | .freeTick t => Sys2Proof.Machine.execFreeTick t s
  | .doorbellReadDone p k ok rec => Sys2Proof.Machine.execDoorbellReadDone p k ok rec s
  | .releaseReadDone ring ok rec => Sys2Proof.Machine.execReleaseReadDone ring ok rec s
  | .recordReadTimeout ring => Sys2Proof.Machine.execRecordReadTimeout ring s
  | .descriptorFetchDone p k ok descs host => Sys2Proof.Machine.execDescriptorFetchDone p k ok descs host s
  | .descriptorFetchTimeout p k => Sys2Proof.Machine.execDescriptorFetchTimeout p k s
  | .sqEnable path p k v => Sys2Proof.Machine.execSqEnable path p k v s
  | .sqDisable path p k v => Sys2Proof.Machine.execSqDisable path p k v s
  | .drEnable path ring v => Sys2Proof.Machine.execDrEnable path ring v s
  | .drDisable path ring v => Sys2Proof.Machine.execDrDisable path ring v s
  | .ringEnableReadDone ring ok rec => Sys2Proof.Machine.execRingEnableReadDone ring ok rec s
  | .ringEnableReadTimeout ring => Sys2Proof.Machine.execRingEnableReadTimeout ring s
  | .bufWrite path p => Sys2Proof.Machine.execBufWrite path p s
  | .bufInvalidate path p => Sys2Proof.Machine.execBufInvalidate path p s
  | .bufRead path p => Sys2Proof.Machine.execBufRead path p s
  | .nopCommand cid => Sys2Proof.Machine.execNopCommand cid s
  | .runList cid host => Sys2Proof.Machine.execRunList cid host s
  | .listEntryLaunch cid host => Sys2Proof.Machine.execListEntryLaunch cid host s
  | .copy cid => Sys2Proof.Machine.execCopy cid s
  | .fill cid => Sys2Proof.Machine.execFill cid s
  | .kernel cid => Sys2Proof.Machine.execKernel cid s
  | .collective cid host => Sys2Proof.Machine.execCollective cid host s
  | .layer cid host => Sys2Proof.Machine.execLayer cid host s
  | .serveReq cid => Sys2Proof.Machine.execServeReq cid s
  | .signal cid => Sys2Proof.Machine.execSignal cid s
  | .wait cid => Sys2Proof.Machine.execWait cid s
  | .seal cid => Sys2Proof.Machine.execSeal cid s
  | .fenceSys cid => Sys2Proof.Machine.execFenceSys cid s
  | .cancel cid => Sys2Proof.Machine.execCancel cid s
  | .tallyHiWrite path p v => Sys2Proof.Machine.execTallyHiWrite path p v s
  | .schedulerSelect p e cycle t => Sys2Proof.Machine.execSchedulerSelect p e cycle t s
  | .preemptSave cid => Sys2Proof.Machine.execPreemptSave cid s
  | .saveDone cid => Sys2Proof.Machine.execSaveDone cid s
  | .restoreDone cid same => Sys2Proof.Machine.execRestoreDone cid same s
  | .preemptBudgetExpire cid => Sys2Proof.Machine.execPreemptBudgetExpire cid s
  | .fellCoresFree cid => Sys2Proof.Machine.execFellCoresFree cid s
  | .fellDrainDone cid => Sys2Proof.Machine.execFellDrainDone cid s
  | .srvEnable path p v => Sys2Proof.Machine.execSrvEnable path p v s
  | .serveStepBoundary p host => Sys2Proof.Machine.execServeStepBoundary p host s
  | .serveStepLaunch p => Sys2Proof.Machine.execServeStepLaunch p s
  | .kvWaitTimeout p slot => Sys2Proof.Machine.execKvWaitTimeout p slot s
  | .portEnable path port v => Sys2Proof.Machine.execPortEnable path port v s
  | .portRetrain path port v => Sys2Proof.Machine.execPortRetrain path port v s
  | .linkTrainingTimeout port => Sys2Proof.Machine.execLinkTrainingTimeout port s
  | .hklPortDown port t => Sys2Proof.Machine.execHklPortDown port t s
  | .hklFlitReceive port flit => Sys2Proof.Machine.execHklFlitReceive port flit s
  | .flitReplayTimeout port => Sys2Proof.Machine.execFlitReplayTimeout port s
  | .writeMessage port m t => Sys2Proof.Machine.execWriteMessage port m t s
  | .pullMessage port m => Sys2Proof.Machine.execPullMessage port m s
  | .contributionMessage port m => Sys2Proof.Machine.execContributionMessage port m s
  | .rosterMessage port m => Sys2Proof.Machine.execRosterMessage port m s
  | .swapRequest port m => Sys2Proof.Machine.execSwapRequest port m s
  | .swapState port m => Sys2Proof.Machine.execSwapState port m s
  | .groupUpdate port m => Sys2Proof.Machine.execGroupUpdate port m s
  | .discardNotice port m t => Sys2Proof.Machine.execDiscardNotice port m t s
  | .passNotice port m => Sys2Proof.Machine.execPassNotice port m s
  | .commitNotice port m => Sys2Proof.Machine.execCommitNotice port m s
  | .fellNotice port m => Sys2Proof.Machine.execFellNotice port m s
  | .mismatchNotice port m => Sys2Proof.Machine.execMismatchNotice port m s
  | .probe port sym t depart => Sys2Proof.Machine.execProbe port sym t depart s
  | .echo port sym t => Sys2Proof.Machine.execEcho port sym t s
  | .probeTimer t => Sys2Proof.Machine.execProbeTimer t s
  | .collectiveTimeout cid => Sys2Proof.Machine.execCollectiveTimeout cid s
  | .discardExpire tag src => Sys2Proof.Machine.execDiscardExpire tag src s
  | .leadSwap path v => Sys2Proof.Machine.execLeadSwap path v s
  | .swapTimeout => Sys2Proof.Machine.execSwapTimeout s
  | .groupWrite path => Sys2Proof.Machine.execGroupWrite path s
  | .groupRead path => Sys2Proof.Machine.execGroupRead path s
  | .layerPassDone cid => Sys2Proof.Machine.execLayerPassDone cid s
  | .serviceResetRelease t => Sys2Proof.Machine.execServiceResetRelease t s
  | .pgGood rail => Sys2Proof.Machine.execPgGood rail s
  | .pgLost rail t => Sys2Proof.Machine.execPgLost rail t s
  | .railLateTimeout => Sys2Proof.Machine.execRailLateTimeout s
  | .clockSwitch die => Sys2Proof.Machine.execClockSwitch die s
  | .ps4Entry die => Sys2Proof.Machine.execPs4Entry die s
  | .controlPeriod => Sys2Proof.Machine.execControlPeriod s
  | .coefficientWrite path idx v => Sys2Proof.Machine.execCoefficientWrite path idx v s
  | .pmbusRoundStart => Sys2Proof.Machine.execPmbusRoundStart s
  | .pmbusTransactionDone r => Sys2Proof.Machine.execPmbusTransactionDone r s
  | .quiescentFit => Sys2Proof.Machine.execQuiescentFit s
  | .calBFit => Sys2Proof.Machine.execCalBFit s
  | .calRegression => Sys2Proof.Machine.execCalRegression s
  | .calStageTimeout => Sys2Proof.Machine.execCalStageTimeout s
  | .droopDetect die t => Sys2Proof.Machine.execDroopDetect die t s
  | .droopRelease die t => Sys2Proof.Machine.execDroopRelease die t s
  | .droopFloorStep die t => Sys2Proof.Machine.execDroopFloorStep die t s
  | .vrAlertAssert g t => Sys2Proof.Machine.execVrAlertAssert g t s
  | .vrAlertRelease g t => Sys2Proof.Machine.execVrAlertRelease g t s
  | .vrFloorStep die t => Sys2Proof.Machine.execVrFloorStep die t s
  | .vrAlertStuck g => Sys2Proof.Machine.execVrAlertStuck g s
  | .junctionSample temps t => Sys2Proof.Machine.execJunctionSample temps t s
  | .junctionFloorStep die t => Sys2Proof.Machine.execJunctionFloorStep die t s
  | .powerdown path v => Sys2Proof.Machine.execPowerdown path v s
  | .pdBudgetExpire => Sys2Proof.Machine.execPdBudgetExpire s
  | .powerdownDrainDone => Sys2Proof.Machine.execPowerdownDrainDone s
  | .pdDrainTimeout => Sys2Proof.Machine.execPdDrainTimeout s
  | .wake path v t => Sys2Proof.Machine.execWake path v t s
  | .coreMapStateWrite path idx v => Sys2Proof.Machine.execCoreMapStateWrite path idx v s
  | .fstGenerationStage path e v => Sys2Proof.Machine.execFstGenerationStage path e v s
  | .pkgStateWrite path idx v => Sys2Proof.Machine.execPkgStateWrite path idx v s
  | .selfTestDone idx pass => Sys2Proof.Machine.execSelfTestDone idx pass s
  | .suspectDecay idx => Sys2Proof.Machine.execSuspectDecay idx s
  | .partReset p trigger => Sys2Proof.Machine.execPartReset p trigger s
  | .partResetDrainTimeout p => Sys2Proof.Machine.execPartResetDrainTimeout p s
  | .partResetDone p => Sys2Proof.Machine.execPartResetDone p s
  | .devReset path v => Sys2Proof.Machine.execDevReset path v s
  | .fstEntryError e corrected => Sys2Proof.Machine.execFstEntryError e corrected s
  | .firmwareStoreSave => Sys2Proof.Machine.execFirmwareStoreSave s
  | .svcWriteFrame cmd data nbits => Sys2Proof.Machine.execSvcWriteFrame cmd data nbits s
  | .svcReadFrame cmd units => Sys2Proof.Machine.execSvcReadFrame cmd units s
  | .svcReadStatus cmd => Sys2Proof.Machine.execSvcReadStatus cmd s
  | .svcSetPage cmd data nbits => Sys2Proof.Machine.execSvcSetPage cmd data nbits s
  | .svcFrameTimeout => Sys2Proof.Machine.execSvcFrameTimeout s
  | .compCmd path v => Sys2Proof.Machine.execCompCmd path v s
  | .compMasterStart => Sys2Proof.Machine.execCompMasterStart s
  | .compTransferDone words crcOk => Sys2Proof.Machine.execCompTransferDone words crcOk s
  | .masterCollision => Sys2Proof.Machine.execMasterCollision s
  | .readVin path v => Sys2Proof.Machine.execReadVin path v s
  | .readVout path v => Sys2Proof.Machine.execReadVout path v s
  | .readIout path v => Sys2Proof.Machine.execReadIout path v s
  | .readTemperature1 path v => Sys2Proof.Machine.execReadTemperature1 path v s
  | .statusWord path v => Sys2Proof.Machine.execStatusWord path v s
  | .clearFaults path v => Sys2Proof.Machine.execClearFaults path v s
  | .sindPeriod n => Sys2Proof.Machine.execSindPeriod n s
  | .sindDiagSample n found => Sys2Proof.Machine.execSindDiagSample n found s
  | .firmwareCheckDone sigA sigB => Sys2Proof.Machine.execFirmwareCheckDone sigA sigB s
  | .clocksLocked => Sys2Proof.Machine.execClocksLocked s
  | .dramTrainingDone failed => Sys2Proof.Machine.execDramTrainingDone failed s
  | .memInitDone => Sys2Proof.Machine.execMemInitDone s
  | .selfTestComplete cores routers iodOk t => Sys2Proof.Machine.execSelfTestComplete cores routers iodOk t s
  | .bringupStageTimeout total => Sys2Proof.Machine.execBringupStageTimeout total s
  | .fwOpen path v => Sys2Proof.Machine.execFwOpen path v s
  | .fwData path v => Sys2Proof.Machine.execFwData path v s
  | .fwCommit path v => Sys2Proof.Machine.execFwCommit path v s
  | .linkGo path v => Sys2Proof.Machine.execLinkGo path v s
  | .bgWindowOpen k => Sys2Proof.Machine.execBgWindowOpen k s
  | .bgWindowClose k => Sys2Proof.Machine.execBgWindowClose k s
  | .calPassStart => Sys2Proof.Machine.execCalPassStart s
  | .channelRetrainDone die ch ok => Sys2Proof.Machine.execChannelRetrainDone die ch ok s
  | .sensorTrimDone set diff => Sys2Proof.Machine.execSensorTrimDone set diff s
  | .vfDwinWrite path p w v => Sys2Proof.Machine.execVfDwinWrite path p w v s
  | .perstAssert => Sys2Proof.Machine.execPerstAssert s
  | .perstRelease => Sys2Proof.Machine.execPerstRelease s
  | .refclkLoss => Sys2Proof.Machine.execRefclkLoss s
  | .extest => Sys2Proof.Machine.execExtest s
  | .samplePreload => Sys2Proof.Machine.execSamplePreload s
  | .idcode => Sys2Proof.Machine.execIdcode s
  | .clamp => Sys2Proof.Machine.execClamp s
  | .highz => Sys2Proof.Machine.execHighz s
  | .extestPulse => Sys2Proof.Machine.execExtestPulse s
  | .extestTrain => Sys2Proof.Machine.execExtestTrain s
  | .bypass code => Sys2Proof.Machine.execBypass code s
  | .tapReset => Sys2Proof.Machine.execTapReset s
  | .completionTimeout w => Sys2Proof.Machine.execCompletionTimeout w s
  | .hostLinkRateChange rate width => Sys2Proof.Machine.execHostLinkRateChange rate width s
  | .aerUncorrectableLogged status => Sys2Proof.Machine.execAerUncorrectableLogged status s
  | .pgGlitch rail => Sys2Proof.Machine.execPgGlitch rail s
  | .copyTransferDone cid host => Sys2Proof.Machine.execCopyTransferDone cid host s
  | .swapStateDigest d => Sys2Proof.Machine.execSwapStateDigest d s

end Sys2Proof.Machine
end

