-- ==== Sys2Proof/Safety.lean ====
section
/-! DEFINITION. What a safe step is, and the terms that statements use: what an instruction needs in order to act, and the state
without the parts a family of commands may change. -/

namespace Sys2Proof.Machine

/-- The outcome is a next state. -/
def Safe (o : Host.Outcome State Fault Refusal) : Prop := ∃ s, o = .next s

/-- The block can take the command at the front of its queue. -/
def State.canStep (s : State) : Prop := Safe (step s)

/-- The canonical form of device memory: addresses strictly rising, no byte listed that an unlisted address reads as. -/
abbrev Memory.wf (m : Sparse Byte) : Bool := Sparse.wf memReset m

/-- The state without the cores, the commands in flight and the activity counts: what a thread instruction may change. -/
def State.sansThreads (s : State) : State :=
  { s with dev := { s.dev with cores := [], cmds := [], kiln := { s.dev.kiln with cnt := [] } } }

/-- The group at `g` is `x`, nothing holds it, its program counter lies in its code, and an instruction with checks `chk`
decodes (R152, R175, R188, R207). -/
def State.acts (s : State) (g : At) (chk : Chk) (x : Thr) : Prop :=
  s.thr g = some x ∧ x.grp.blocked = false ∧ x.grp.hazard chk.uses = false ∧ x.cmd.ph.fellable = true ∧
    x.grp.pc < x.cmd.run.codeLen ∧ chk.fault x.cmd.run.regs x.cmd.run.accN = none

/-- Every other position names the group and the block that it named. -/
def State.othersKept (s t : State) (g : At) : Prop :=
  ∀ h, h ≠ g → (t.thr h).map (fun z => (z.grp, z.blk)) = (s.thr h).map (fun z => (z.grp, z.blk))

/-- How many stochastic-rounding operations a lane has made (R124). -/
def Grp.srAt (x : Grp) (l : Nat) : Nat := Sparse.get (fun _ => 0) x.srN l

/-- The same after `k` more of them in the lanes of `m`, where the mode is SR. -/
def Grp.srPlus (x : Grp) (rm : Rnd) (m : BitVec 32) (k : Nat) : Nat → Nat :=
  fun l => if rm = .sr ∧ bitAt m.toNat l = true then (x.srAt l + k) % 2 ^ 24 else x.srAt l

/-- Group `y` is group `x` after an instruction that went on to the next one, with these thread registers, predicates and
uniform registers: nothing else of it changes but its place in the code. -/
def Grp.after (x y : Grp) (t : Nat → Nat → Word) (p : Nat → Nat → Bool) (u : Nat → Word)
    (sr : Nat → Nat := x.srAt) : Prop :=
  y = { x with t := y.t, p := y.p, u := y.u, srN := y.srN, pc := y.pc, mask := y.mask, stack := y.stack, held := false } ∧
    (x.stack = [] → y.pc = x.pc + 8 ∧ y.mask = x.mask ∧ y.stack = []) ∧
    (∀ r < 256, ∀ l < 32, y.rdT r l = t r l) ∧ (∀ n, ∀ l < 32, bitAt (y.rdP n).toNat l = p n l) ∧ (∀ n, y.rdU n = u n) ∧ ∀ l < 32, y.srAt l = sr l

/-- Thread registers where `dst` is written with `v` in the lanes of `m`; t255 discards the write (R172). -/
def Grp.withT (x : Grp) (m : BitVec 32) (dst : Nat) (v : Nat → Word) : Nat → Nat → Word :=
  fun r l => if r = dst ∧ dst ≠ 255 ∧ bitAt m.toNat l = true then v l else x.rdT r l

/-- A predicate's bit in a lane. -/
def Grp.bitP (x : Grp) (n l : Nat) : Bool := bitAt (x.rdP n).toNat l

/-- Predicates where `n` is written with `v` in the lanes of `m`; the other lanes keep their bits (R174). -/
def Grp.withP (x : Grp) (m : BitVec 32) (n : Nat) (v : Nat → Bool) : Nat → Nat → Bool :=
  fun k l => if k = n ∧ bitAt m.toNat l = true then v l else x.bitP k l

/-- Uniform registers where `n` is written. -/
def Grp.withU (x : Grp) (n : Nat) (v : Word) : Nat → Word := fun k => if k = n then v else x.rdU k

/-- The lanes that take part in an instruction of a group (R174). -/
def Thr.taking (x : Thr) (gn : Bool) (gp : BitVec 3) : BitVec 32 := x.grp.mask &&& x.grp.guard gn gp

/-- The outcome is a next state whose group at `g` has changed as `after` says, in the same block, every other group and
everything that is no thread state unchanged. -/
def threadNext (o : Host.Outcome State Fault Refusal) (s : State) (g : At) (x : Thr) (t : Nat → Nat → Word) (p : Nat → Nat → Bool)
    (u : Nat → Word) (sr : Nat → Nat := x.grp.srAt) : Prop :=
  ∃ s' y, o = .next s' ∧ s'.thr g = some y ∧ x.grp.after y.grp t p u sr ∧ y.blk = x.blk ∧ s.othersKept s' g ∧
    s'.sansThreads = s.sansThreads

/-- A byte of a block's local memory. -/
def Blk.byte (b : Blk) (o : Nat) : Byte := Sparse.get (localReset b.seed) b.lmem o

/-- The bytes `[a, a + n)` of a memory. -/
def bytesAt (mem : Nat → Byte) (a n : Nat) : Bytes := (List.range n).map (fun i => mem (a + i))

/-- A memory with a byte string written at an address. -/
def withBytes (mem : Nat → Byte) (a : Nat) (bs : Bytes) : Nat → Byte :=
  fun o => if a ≤ o ∧ o < a + bs.length then bs.getD (o - a) 0 else mem o

end Sys2Proof.Machine

namespace Sys2Proof

open Machine

/-- The taking-part lanes with their addresses, ascending. -/
def MForm.lanes (f : MForm) (glob : Bool) (x : Thr) : List (Nat × Nat) :=
  (lanesOf (x.taking f.gn f.gp)).map (fun l => (l, effAddr glob f x.grp l))

/-- No taking-part lane faults (R145, R189, R190, R247). -/
def MForm.allowed (f : MForm) (glob write hostOk : Bool) (x : Thr) : Prop :=
  ∀ e ∈ f.lanes glob x, accessFault x glob write hostOk e.2 (mbytes f) = none

/-- Thread registers where DST and the registers after it take the words of a value in the taking-part lanes (R173, R189). -/
def MForm.loaded (f : MForm) (x : Thr) (v : Nat → Nat) : Nat → Nat → Word :=
  fun r l => if bitAt (x.taking f.gn f.gp).toNat l = true ∧ f.dst.toNat ≠ 255 ∧ r ≠ 255 ∧ f.dst.toNat ≤ r ∧ r < f.dst.toNat + sizeWords f.size
    then BitVec.ofNat 32 (v l / 2 ^ (32 * (r - f.dst.toNat))) else x.grp.rdT r l

end Sys2Proof

namespace Sys2Proof.Machine

/-- The outcome is a next state in which the group at `g` and the local memory of its block changed as said, every other group's
registers and everything that is no thread state unchanged. -/
def localNext (o : Host.Outcome State Fault Refusal) (s : State) (g : At) (x : Thr) (t : Nat → Nat → Word) (b : Nat → Byte) : Prop :=
  ∃ s' y, o = .next s' ∧ s'.thr g = some y ∧ x.grp.after y.grp t x.grp.bitP x.grp.rdU ∧
    y.blk = { x.blk with lmem := y.blk.lmem } ∧ (∀ a, y.blk.byte a = b a) ∧
    (∀ h, h ≠ g → (s'.thr h).map (·.grp) = (s.thr h).map (·.grp)) ∧ s'.sansThreads = s.sansThreads

/-- The outcome is a next state whose group at `g` is `y` in the same block, every other group and everything that is no thread
state unchanged. -/
def groupNext (o : Host.Outcome State Fault Refusal) (s : State) (g : At) (x : Thr) (y : Grp) : Prop :=
  ∃ s' z, o = .next s' ∧ s'.thr g = some z ∧ z.grp = y ∧ z.blk = x.blk ∧ s.othersKept s' g ∧ s'.sansThreads = s.sansThreads

/-- Lane `l` is the lowest of a mask. -/
def isLowest (m : BitVec 32) (l : Nat) : Prop := l < 32 ∧ bitAt m.toNat l = true ∧ ∀ k < l, bitAt m.toNat k = false

/-- Two states differ in the registers alone. -/
def State.sansRegs (s : State) : State := { s with dev := { s.dev with regs := [] } }

/-- The outcome is a next state in which the registers read as said and nothing else has changed. -/
def regNext (o : Host.Outcome State Fault Refusal) (s : State) (r : Nat → Word) : Prop :=
  ∃ s', o = .next s' ∧ (∀ off, s'.dev.reg off = r off) ∧ s'.sansRegs = s.sansRegs

/-- The registers with one of them written. -/
def Dev.withReg (d : Dev) (off : Nat) (w : Word) : Nat → Word := fun o => if o = off then w else d.reg o

end Sys2Proof.Machine
end

