-- ==== Sys2Proof/Certificates/Slice0/Obligations.lean ====
section
/-! DEFINITION. The statements for the provers, family by family. -/

open Sys2Proof Sys2Proof.Machine

/-! ### Terms of several families -/

/-- The event queue of a ring has one more event, where none waits in its unit and the queue has room (R343). -/
def gotEvent (d d' : Dev) (r : Nat) (e : Bytes) : Prop :=
  (d.evQ r).src = [] → (d.evQ r).q.length < 64 → (d'.evQ r).q = (d.evQ r).q ++ [e] ∧ (d'.evQ r).src = []

/-- The command of a group has ended with a kernel fault of all its active lanes, told on its partition's ring (R167, R380). -/
def kernelFaults (o : Host.Outcome State Fault Refusal) (s : State) (x : Thr) (code : Nat) : Prop :=
  ∃ s' y, o = .next s' ∧ s'.dev.cmd x.cmd.cid = some y ∧ y.ph = .felling ∧ y.fellEnd = .complete 5 code ∧ y.tag = x.cmd.tag ∧ s'.mem = s.mem ∧ s'.beat = s.beat ∧
    s'.pending = s.pending ∧
    gotEvent s.dev s'.dev x.part (kernelFaultEvent s.clk code (s.dev.mapNum x.part x.tile) x.grp.gi x.part x.cmd.tag x.grp.mask.toNat x.grp.pc)

/-! ### Thread instructions over integers (R177, R178) -/

/-- An arithmetic instruction of form R: its constructor, its decode checks, its result from a, b, c. -/
structure IntRow where
  instr : At → RForm → Instr
  chk : RForm → Chk
  val : RForm → Word → Word → Word → Word

/-- The instructions of form R over integers that write a thread register, with the results of Table: Integer instructions. -/
def intRows : List IntRow :=
  let two (mods : Nat) (f : RForm) := rChk f (decide (f.fmt = 9)) (decide (f.rm = 0)) mods (some 1) (some 1) none (.reg 1) false
  [⟨.iadd, two 0, fun _ a b _ => a + b⟩, ⟨.isub, two 0, fun _ a b _ => a - b⟩, ⟨.imul, two 0, fun _ a b _ => a * b⟩,
   ⟨.imulhi, two 0x200, fun f a b _ =>
      if f.u then BitVec.ofNat 32 (a.toNat * b.toNat / 2 ^ 32) else BitVec.ofInt 32 ((a.toInt * b.toInt) / 2 ^ 32)⟩,
   ⟨.imad, fun f => rChk f (decide (f.fmt = 9)) (decide (f.rm = 0)) 0 (some 1) (some 1) (some 1) (.reg 1) false,
      fun _ a b c => a * b + c⟩,
   ⟨.iaddsat, two 0, fun _ a b _ =>
      if 2 ^ 31 ≤ a.toInt + b.toInt then 0x7FFFFFFF else if a.toInt + b.toInt < -(2 ^ 31) then 0x80000000 else a + b⟩,
   ⟨.isubsat, two 0, fun _ a b _ =>
      if 2 ^ 31 ≤ a.toInt - b.toInt then 0x7FFFFFFF else if a.toInt - b.toInt < -(2 ^ 31) then 0x80000000 else a - b⟩,
   ⟨.imin, two 0x200, fun f a b _ => if f.u then (if a.toNat ≤ b.toNat then a else b) else if a.toInt ≤ b.toInt then a else b⟩,
   ⟨.imax, two 0x200, fun f a b _ => if f.u then (if b.toNat ≤ a.toNat then a else b) else if b.toInt ≤ a.toInt then a else b⟩,
   ⟨.and, two 0, fun _ a b _ => a &&& b⟩, ⟨.or, two 0, fun _ a b _ => a ||| b⟩, ⟨.xor, two 0, fun _ a b _ => a ^^^ b⟩,
   ⟨.shl, two 0, fun _ a b _ => a <<< b.toNat⟩,
   ⟨.shr, two 0x200, fun f a b _ => if f.u then a >>> b.toNat else a.sshiftRight b.toNat⟩,
   ⟨.ibit, fun f => rChk f (decide (f.fmt = 9)) (decide (f.rm = 0)) 0x030 (some 1) none none (.reg 1) (decide (f.m 4 2 = 3)),
      fun f a _ _ =>
        if f.m 4 2 = 0 then BitVec.ofNat 32 ((List.range 32).countP (fun i => a.getLsbD i))
        else if f.m 4 2 = 1 then BitVec.ofNat 32 ((List.range 33).countP (fun i => 1 ≤ i ∧ a.toNat < 2 ^ (32 - i)))
        else a.reverse⟩]

/-- R177: an integer instruction of form R writes its result to DST in the taking-part lanes, from the operands as they stood. -/
def IntegerInstructionsWriteTheirResults : Prop :=
  ∀ o ∈ intRows, ∀ (s : State) (g : At) (f : RForm) (x : Thr), s.acts g (o.chk f) x →
    threadNext (exec (o.instr g f) s) s g x
      (x.grp.withT (x.taking f.gn f.gp) f.dst.toNat (fun l => o.val f (f.a x.grp l) (f.b x.grp l) (f.c x.grp l))) x.grp.bitP x.grp.rdU

/-- The same of form I: its constructor, whether X[0] is U and otherwise reserved, its result from a, IMM, and DST as it stood. -/
structure IntRowI where
  instr : At → IForm → Instr
  hasU : Bool
  val : Bool → Word → Word → Word → Word

/-- The instructions of form I over integers that write a thread register. -/
def intRowsI : List IntRowI :=
  [⟨.iaddI, false, fun _ a i _ => a + i⟩, ⟨.isubI, false, fun _ a i _ => a - i⟩, ⟨.imulI, false, fun _ a i _ => a * i⟩,
   ⟨.imulhiI, true, fun u a i _ =>
      if u then BitVec.ofNat 32 (a.toNat * i.toNat / 2 ^ 32) else BitVec.ofInt 32 ((a.toInt * i.toInt) / 2 ^ 32)⟩,
   ⟨.imadI, false, fun _ a i d => a * i + d⟩,
   ⟨.iaddsatI, false, fun _ a i _ =>
      if 2 ^ 31 ≤ a.toInt + i.toInt then 0x7FFFFFFF else if a.toInt + i.toInt < -(2 ^ 31) then 0x80000000 else a + i⟩,
   ⟨.isubsatI, false, fun _ a i _ =>
      if 2 ^ 31 ≤ a.toInt - i.toInt then 0x7FFFFFFF else if a.toInt - i.toInt < -(2 ^ 31) then 0x80000000 else a - i⟩,
   ⟨.iminI, true, fun u a i _ => if u then (if a.toNat ≤ i.toNat then a else i) else if a.toInt ≤ i.toInt then a else i⟩,
   ⟨.imaxI, true, fun u a i _ => if u then (if i.toNat ≤ a.toNat then a else i) else if i.toInt ≤ a.toInt then a else i⟩,
   ⟨.andI, false, fun _ a i _ => a &&& i⟩, ⟨.orI, false, fun _ a i _ => a ||| i⟩, ⟨.xorI, false, fun _ a i _ => a ^^^ i⟩,
   ⟨.shlI, false, fun _ a i _ => a <<< i.toNat⟩, ⟨.shrI, true, fun u a i _ => if u then a >>> i.toNat else a.sshiftRight i.toNat⟩]

/-- R171, R177: an integer instruction of form I does so with IMM for b. -/
def IntegerImmediateInstructionsWriteTheirResults : Prop :=
  ∀ o ∈ intRowsI, ∀ (s : State) (g : At) (f : IForm) (x : Thr),
    s.acts g (iChk f (some 1) (if o.hasU then decide (f.x.toNat < 2) else decide (f.x = 0)) (.reg 1)) x →
    threadNext (exec (o.instr g f) s) s g x
      (x.grp.withT (x.taking f.gn f.gp) f.dst.toNat (fun l => o.val f.u (f.a x.grp l) f.imm (x.grp.rdT f.dst.toNat l))) x.grp.bitP x.grp.rdU

/-- Integer instructions of form R and form I write their results in the taking-part lanes and change nothing else: the statements of IntegerInstructionsWriteTheirResults, IntegerImmediateInstructionsWriteTheirResults together. -/
def Obligations.IntegerInstructionsOfBothFormsWriteTheirResults : Prop :=
  IntegerInstructionsWriteTheirResults ∧ IntegerImmediateInstructionsWriteTheirResults

/-- A comparison of two integers by a condition code (R178). -/
def intCC (u : Bool) (cc : Nat) (a b : Word) : Bool :=
  let lt := if u then decide (a.toNat < b.toNat) else decide (a.toInt < b.toInt)
  match cc with
  | 0 => a == b
  | 1 => a != b
  | 2 => lt
  | 3 => lt || a == b
  | 4 => !(lt || a == b)
  | _ => !lt

/-- R177, R178: ISETP and ISETP.I write the comparison to pD in the taking-part lanes. -/
def IntegerComparisonsWriteTheirPredicate : Prop :=
  (∀ (s : State) (g : At) (f : RForm) (x : Thr),
    s.acts g (rChk f (decide (f.fmt = 9)) (decide (f.rm = 0)) 0x3C0 (some 1) (some 1) none .pred (decide (6 ≤ f.m 6 3))) x →
    threadNext (exec (.isetp g f) s) s g x x.grp.rdT
      (x.grp.withP (x.taking f.gn f.gp) f.dst.toNat (fun l => intCC f.u (f.m 6 3) (f.a x.grp l) (f.b x.grp l))) x.grp.rdU) ∧
  ∀ (s : State) (g : At) (f : IForm) (x : Thr), s.acts g (iChk f (some 1) (decide (f.x.toNat < 6)) .pred) x →
    threadNext (exec (.isetpI g f) s) s g x x.grp.rdT
      (x.grp.withP (x.taking f.gn f.gp) f.dst.toNat (fun l => intCC false f.x.toNat (f.a x.grp l) f.imm)) x.grp.rdU

/-- A data-movement instruction of form R that writes a thread register: its modifier bits, its sources, its value in a lane. -/
structure MoveRow where
  instr : At → RForm → Instr
  mods : Nat
  a : Bool
  b : Bool
  val : RForm → Thr → BitVec 32 → Nat → Word

/-- The data-movement instructions of form R (R182). -/
def moveRows : List MoveRow :=
  [⟨.mov, 0, true, false, fun f x _ l => f.a x.grp l⟩,
   ⟨.sel, 7, true, true, fun f x _ l => if x.grp.bitP (f.m 0 3) l then f.a x.grp l else f.b x.grp l⟩,
   ⟨.lane, 0, false, false, fun _ _ _ l => BitVec.ofNat 32 l⟩,
   ⟨.shfl, 3, true, true, fun f x _ l =>
      let b := (f.b x.grp l).toNat
      if f.m 0 2 = 0 then f.a x.grp (if b < 32 then b else l)
      else if f.m 0 2 = 1 then f.a x.grp (if b ≤ l then l - b else l)
      else if f.m 0 2 = 2 then f.a x.grp (if l + b < 32 then l + b else l)
      else f.a x.grp (if l ^^^ b < 32 then l ^^^ b else l)⟩,
   ⟨.vote, 7, false, false, fun f x m _ => m &&& x.grp.rdP (f.m 0 3)⟩]

/-- R182: MOV, SEL, LANE, SHFL, VOTE and MOVI write their value to DST in the taking-part lanes. -/
def DataMovementWritesItsValue : Prop :=
  (∀ o ∈ moveRows, ∀ (s : State) (g : At) (f : RForm) (x : Thr),
    s.acts g (rChk f (decide (f.fmt = 0)) (decide (f.rm = 0)) o.mods (if o.a then some 1 else none) (if o.b then some 1 else none) none
      (.reg 1) false) x →
    threadNext (exec (o.instr g f) s) s g x
      (x.grp.withT (x.taking f.gn f.gp) f.dst.toNat (o.val f x (x.taking f.gn f.gp))) x.grp.bitP x.grp.rdU) ∧
  ∀ (s : State) (g : At) (f : IForm) (x : Thr), s.acts g (iChk f none (decide (f.x = 0)) (.reg 1)) x →
    threadNext (exec (.movi g f) s) s g x (x.grp.withT (x.taking f.gn f.gp) f.dst.toNat (fun _ => f.imm)) x.grp.bitP x.grp.rdU

/-- R182: PLOP writes pA op pB to pD in the taking-part lanes, and T2U writes a of the lowest taking-part lane to uD, nothing
where no lane takes part (R175). -/
def PredicateLogicAndLaneToUniform : Prop :=
  (∀ (s : State) (g : At) (f : RForm) (x : Thr),
    s.acts g (rChk { f with sa := 0, sb := 0 } (decide (f.fmt = 0)) (decide (f.rm = 0)) 3 none none none .pred
      (decide (8 ≤ f.sa.toNat) || decide (8 ≤ f.sb.toNat))) x →
    threadNext (exec (.plop g f) s) s g x x.grp.rdT
      (x.grp.withP (x.taking f.gn f.gp) f.dst.toNat (fun l =>
        let a := x.grp.bitP f.sa.toNat l
        let b := x.grp.bitP f.sb.toNat l
        if f.m 0 2 = 0 then a && b else if f.m 0 2 = 1 then a || b else if f.m 0 2 = 2 then a ^^ b else a && !b)) x.grp.rdU) ∧
  ∀ (s : State) (g : At) (f : RForm) (x : Thr),
    s.acts g (rChk f (decide (f.fmt = 0)) (decide (f.rm = 0)) 0 (some 1) none none .uni false) x →
    (x.taking f.gn f.gp = 0 → threadNext (exec (.t2u g f) s) s g x x.grp.rdT x.grp.bitP x.grp.rdU) ∧
    ∀ l < 32, bitAt (x.taking f.gn f.gp).toNat l = true → (∀ k < l, bitAt (x.taking f.gn f.gp).toNat k = false) →
      threadNext (exec (.t2u g f) s) s g x x.grp.rdT x.grp.bitP (x.grp.withU f.dst.toNat (f.a x.grp l))

/-- Integer comparisons, predicate logic, votes and lane-to-uniform moves write their destinations and change nothing else: the statements of IntegerComparisonsWriteTheirPredicate, PredicateLogicAndLaneToUniform together. -/
def Obligations.PredicatesFollowComparisonsAndLogic : Prop :=
  IntegerComparisonsWriteTheirPredicate ∧ PredicateLogicAndLaneToUniform

/-- A uniform instruction and its result. -/
structure UniRow where
  instr : At → RForm → Instr
  val : Word → Word → Word

/-- The uniform instructions of form R (R183). -/
def uniRows : List UniRow :=
  [⟨.uadd, fun a b => a + b⟩, ⟨.usub, fun a b => a - b⟩, ⟨.umul, fun a b => a * b⟩, ⟨.uand, fun a b => a &&& b⟩,
   ⟨.uor, fun a b => a ||| b⟩, ⟨.uxor, fun a b => a ^^^ b⟩, ⟨.ushl, fun a b => a <<< b.toNat⟩, ⟨.ushr, fun a b => a >>> b.toNat⟩]

/-- R175, R183: a uniform instruction writes uD once per group where some lane takes part, and nothing where none does. -/
def UniformInstructionsWriteTheirResults : Prop :=
  (∀ o ∈ uniRows, ∀ (s : State) (g : At) (f : RForm) (x : Thr),
    s.acts g (rChk { f with sa := 0, sb := 0 } (decide (f.fmt = 9)) (decide (f.rm = 0)) 0 none none none .uni
      (decide (64 ≤ f.sa.toNat) || decide (64 ≤ f.sb.toNat))) x →
    threadNext (exec (o.instr g f) s) s g x x.grp.rdT x.grp.bitP
      (if x.taking f.gn f.gp = 0 then x.grp.rdU
       else x.grp.withU f.dst.toNat (o.val (x.grp.rdU f.sa.toNat) (x.grp.rdU f.sb.toNat)))) ∧
  ∀ (s : State) (g : At) (f : IForm) (x : Thr), s.acts g (iChk f none (decide (f.x = 0)) .uni) x →
    threadNext (exec (.umovi g f) s) s g x x.grp.rdT x.grp.bitP
      (if x.taking f.gn f.gp = 0 then x.grp.rdU else x.grp.withU f.dst.toNat f.imm)

/-- Data movement and uniform instructions write their values and change nothing else: the statements of DataMovementWritesItsValue, UniformInstructionsWriteTheirResults together. -/
def Obligations.MovesAndUniformInstructionsWriteTheirValues : Prop :=
  DataMovementWritesItsValue ∧ UniformInstructionsWriteTheirResults

/-! ### Thread instructions over floating-point numbers (R179 to R185) -/

/-- The result of one S32 or packed element: the exact value rounded once under RM, `r` the random value of SR. -/
def rounded (fmt : Nat) (rm : Rnd) (r : Nat) (v : Fv) : Nat := encodeTo fmt rm r v

/-- A floating-point instruction of form R that rounds: its constructor, whether it takes c, and its exact result. -/
structure FpRow where
  instr : At → RForm → Instr
  fma : Bool
  exact : Rnd → Fv → Fv → Fv → Fv

/-- The S32 instructions of form R that round. -/
def fpRows : List FpRow :=
  [⟨.fadd, false, fun rm a b _ => Fv.add rm a b⟩, ⟨.fsub, false, fun rm a b _ => Fv.add rm a b.neg⟩,
   ⟨.fmul, false, fun _ a b _ => Fv.mul a b⟩, ⟨.ffma, true, fun rm a b c => Fv.add rm (Fv.mul a b) c⟩]

/-- The packed ones. -/
def packedRows : List FpRow :=
  [⟨.hadd2, false, fun rm a b _ => Fv.add rm a b⟩, ⟨.hsub2, false, fun rm a b _ => Fv.add rm a b.neg⟩,
   ⟨.hmul2, false, fun _ a b _ => Fv.mul a b⟩, ⟨.hfma2, true, fun rm a b c => Fv.add rm (Fv.mul a b) c⟩]

/-- An input with its modifiers: the absolute value first, the negation second; `ab` and `ng` are the modifier bits (R179). -/
def modified (f : RForm) (ng ab : Nat) (v : Fv) : Fv :=
  let w := if f.m ab 1 = 1 then v.abs else v
  if f.m ng 1 = 1 then w.neg else w

/-- The exact result for element `j` of lane `l`, with 32-bit elements (fmt 8) or 16-bit ones. -/
def FpRow.value (o : FpRow) (f : RForm) (x : Thr) (rm : Rnd) (l j : Nat) : Fv :=
  let e (w : Word) : Fv := valueOf f.fmt.toNat (w.toNat / 2 ^ (fmtBits f.fmt.toNat * j) % 2 ^ fmtBits f.fmt.toNat)
  o.exact rm (modified f 9 8 (e (f.a x.grp l))) (modified f 7 6 (e (f.b x.grp l))) (modified f 5 4 (e (f.c x.grp l)))

/-- R179: FADD, FSUB, FMUL and FFMA write the exact result rounded once to S32 under RM. -/
def FloatingPointArithmeticRoundsOnce : Prop :=
  ∀ o ∈ fpRows, ∀ (s : State) (g : At) (f : RForm) (x : Thr) (rm : Rnd), rndOf f.rm.toNat = some rm →
    s.acts g (rChk f (decide (f.fmt = 8)) (decide (f.rm.toNat < 5)) (if o.fma then 0x3F0 else 0x3C0) (some 1) (some 1)
      (if o.fma then some 1 else none) (.reg 1) false) x →
    threadNext (exec (o.instr g f) s) s g x
      (x.grp.withT (x.taking f.gn f.gp) f.dst.toNat (fun l => BitVec.ofNat 32 (rounded 8 rm (x.rnd rm l 0) (o.value f x rm l 0))))
      x.grp.bitP x.grp.rdU (x.grp.srPlus rm (x.taking f.gn f.gp) 1)

/-- R180: HADD2, HSUB2, HMUL2 and HFMA2 do so for two elements of B16 or H16, element 0 in bits [15:0]. -/
def PackedArithmeticRoundsEachElement : Prop :=
  ∀ o ∈ packedRows, ∀ (s : State) (g : At) (f : RForm) (x : Thr) (rm : Rnd), rndOf f.rm.toNat = some rm →
    s.acts g (rChk f (decide (f.fmt = 6) || decide (f.fmt = 7)) (decide (f.rm.toNat < 5)) (if o.fma then 0x3F0 else 0x3C0) (some 1) (some 1)
      (if o.fma then some 1 else none) (.reg 1) false) x →
    threadNext (exec (o.instr g f) s) s g x
      (x.grp.withT (x.taking f.gn f.gp) f.dst.toNat (fun l =>
        BitVec.ofNat 16 (rounded f.fmt.toNat rm (x.rnd rm l 1) (o.value f x rm l 1)) ++
          BitVec.ofNat 16 (rounded f.fmt.toNat rm (x.rnd rm l 0) (o.value f x rm l 0))))
      x.grp.bitP x.grp.rdU (x.grp.srPlus rm (x.taking f.gn f.gp) 2)

/-- A floating-point instruction of form I that rounds, from a, IMM and DST. -/
structure FpRowI where
  instr : At → IForm → Instr
  exact : Rnd → Fv → Fv → Fv → Fv

/-- Those. -/
def fpRowsI : List FpRowI :=
  [⟨.faddI, fun rm a i _ => Fv.add rm a i⟩, ⟨.fsubI, fun rm a i _ => Fv.add rm a i.neg⟩,
   ⟨.fmulI, fun _ a i _ => Fv.mul a i⟩, ⟨.ffmaI, fun rm a i d => Fv.add rm (Fv.mul a i) d⟩]

/-- R171, R179: the form I instructions round under X; FMIN.I and FMAX.I round nothing and take X 0. -/
def FloatingPointImmediatesWriteTheirResults : Prop :=
  (∀ o ∈ fpRowsI, ∀ (s : State) (g : At) (f : IForm) (x : Thr) (rm : Rnd), rndOf f.x.toNat = some rm →
    s.acts g (iChk f (some 1) (decide (f.x.toNat < 5)) (.reg 1)) x →
    threadNext (exec (o.instr g f) s) s g x
      (x.grp.withT (x.taking f.gn f.gp) f.dst.toNat (fun l => BitVec.ofNat 32 (rounded 8 rm (x.rnd rm l 0)
        (o.exact rm (valueOf 8 (f.a x.grp l).toNat) (valueOf 8 f.imm.toNat) (valueOf 8 (x.grp.rdT f.dst.toNat l).toNat)))))
      x.grp.bitP x.grp.rdU (x.grp.srPlus rm (x.taking f.gn f.gp) 1)) ∧
  ∀ mx : Bool, ∀ (s : State) (g : At) (f : IForm) (x : Thr), s.acts g (iChk f (some 1) (decide (f.x = 0)) (.reg 1)) x →
    threadNext (exec (if mx then .fmaxI g f else .fminI g f) s) s g x
      (x.grp.withT (x.taking f.gn f.gp) f.dst.toNat (fun l => BitVec.ofNat 32 (rounded 8 .rne 0
        (Fv.minMax mx (valueOf 8 (f.a x.grp l).toNat) (valueOf 8 f.imm.toNat))))) x.grp.bitP x.grp.rdU

/-- Floating-point arithmetic of form R and form I computes exactly and rounds once: the statements of FloatingPointArithmeticRoundsOnce, FloatingPointImmediatesWriteTheirResults together. -/
def Obligations.FloatingPointArithmeticOfBothFormsRoundsOnce : Prop :=
  FloatingPointArithmeticRoundsOnce ∧ FloatingPointImmediatesWriteTheirResults

/-- R179, R180: the minimum or maximum of two elements, each element of DST its own. -/
def FloatingPointMinimaAndMaxima : Prop :=
  (∀ mx : Bool, ∀ (s : State) (g : At) (f : RForm) (x : Thr),
    s.acts g (rChk f (decide (f.fmt = 8)) (decide (f.rm = 0)) 0x3C0 (some 1) (some 1) none (.reg 1) false) x →
    threadNext (exec (if mx then .fmax g f else .fmin g f) s) s g x
      (x.grp.withT (x.taking f.gn f.gp) f.dst.toNat (fun l => BitVec.ofNat 32 (rounded 8 .rne 0 (Fv.minMax mx
        (modified f 9 8 (valueOf 8 (f.a x.grp l).toNat)) (modified f 7 6 (valueOf 8 (f.b x.grp l).toNat)))))) x.grp.bitP x.grp.rdU) ∧
  ∀ mx : Bool, ∀ (s : State) (g : At) (f : RForm) (x : Thr),
    s.acts g (rChk f (decide (f.fmt = 6) || decide (f.fmt = 7)) (decide (f.rm = 0)) 0x3C0 (some 1) (some 1) none (.reg 1) false) x →
    threadNext (exec (if mx then .hmax2 g f else .hmin2 g f) s) s g x
      (x.grp.withT (x.taking f.gn f.gp) f.dst.toNat (fun l =>
        let h (j : Nat) : Nat := rounded f.fmt.toNat .rne 0 (Fv.minMax mx
          (modified f 9 8 (valueOf f.fmt.toNat ((f.a x.grp l).toNat / 2 ^ (16 * j) % 2 ^ 16)))
          (modified f 7 6 (valueOf f.fmt.toNat ((f.b x.grp l).toNat / 2 ^ (16 * j) % 2 ^ 16))))
        BitVec.ofNat 16 (h 1) ++ BitVec.ofNat 16 (h 0))) x.grp.bitP x.grp.rdU

/-- A floating-point comparison: a NaN operand makes all but ne false, and −0 equals +0 (R178). -/
def fpCC (cc : Nat) (a b : Fv) : Bool :=
  if a.isNan || b.isNan then cc == 1
  else
    let c := Fv.cmp a b
    match cc with
    | 0 => c == 0
    | 1 => c != 0
    | 2 => decide (c < 0)
    | 3 => decide (c ≤ 0)
    | 4 => decide (0 < c)
    | _ => decide (0 ≤ c)

/-- R178 to R180: FSETP, FSETP.I and HSETP2 write their comparisons, HSETP2 element 0's to pD and element 1's to pD+1. -/
def FloatingPointComparisonsWriteTheirPredicates : Prop :=
  (∀ (s : State) (g : At) (f : RForm) (x : Thr),
    s.acts g (rChk f (decide (f.fmt = 8)) (decide (f.rm = 0)) 0x3C7 (some 1) (some 1) none .pred (decide (6 ≤ f.m 0 3))) x →
    threadNext (exec (.fsetp g f) s) s g x x.grp.rdT
      (x.grp.withP (x.taking f.gn f.gp) f.dst.toNat (fun l => fpCC (f.m 0 3)
        (modified f 9 8 (valueOf 8 (f.a x.grp l).toNat)) (modified f 7 6 (valueOf 8 (f.b x.grp l).toNat)))) x.grp.rdU) ∧
  (∀ (s : State) (g : At) (f : IForm) (x : Thr), s.acts g (iChk f (some 1) (decide (f.x.toNat < 6)) .pred) x →
    threadNext (exec (.fsetpI g f) s) s g x x.grp.rdT
      (x.grp.withP (x.taking f.gn f.gp) f.dst.toNat (fun l => fpCC f.x.toNat (valueOf 8 (f.a x.grp l).toNat) (valueOf 8 f.imm.toNat)))
      x.grp.rdU) ∧
  ∀ (s : State) (g : At) (f : RForm) (x : Thr),
    s.acts g (rChk f (decide (f.fmt = 6) || decide (f.fmt = 7)) (decide (f.rm = 0)) 0x3C7 (some 1) (some 1) none .pred
      (decide (6 ≤ f.m 0 3) || decide (6 < f.dst.toNat))) x →
    threadNext (exec (.hsetp2 g f) s) s g x x.grp.rdT
      (fun n l =>
        let c (j : Nat) : Bool := fpCC (f.m 0 3)
          (modified f 9 8 (valueOf f.fmt.toNat ((f.a x.grp l).toNat / 2 ^ (16 * j) % 2 ^ 16)))
          (modified f 7 6 (valueOf f.fmt.toNat ((f.b x.grp l).toNat / 2 ^ (16 * j) % 2 ^ 16)))
        if bitAt (x.taking f.gn f.gp).toNat l = true then
          (if n = f.dst.toNat then c 0 else if n = f.dst.toNat + 1 then c 1 else x.grp.bitP n l)
        else x.grp.bitP n l) x.grp.rdU

/-- Floating-point minima, maxima and comparisons follow the rules for NaN and signed zero: the statements of FloatingPointMinimaAndMaxima, FloatingPointComparisonsWriteTheirPredicates together. -/
def Obligations.FloatingPointSelectionsAndComparisons : Prop :=
  FloatingPointMinimaAndMaxima ∧ FloatingPointComparisonsWriteTheirPredicates

/-- The special functions by code. -/
def specialRows : List ((At → RForm → Instr) × Nat) :=
  [(.rcp, 0), (.rsq, 1), (.sqrt, 2), (.ex2, 3), (.lg2, 4), (.sin, 5), (.cos, 6), (.tanh, 7)]

/-- R181: a special function writes in each taking-part lane a fixed function `v` of a that has the special cases of Table:
Special-function accuracy and otherwise lies within its error bound of the reference value or is that value rounded. -/
def SpecialFunctionsWriteFixedFunctions : Prop :=
  ∃ v : Nat → Word → Word,
    (∀ o ∈ specialRows, ∀ (s : State) (g : At) (f : RForm) (x : Thr),
      s.acts g (rChk f (decide (f.fmt = 8)) (decide (f.rm = 0)) 0 (some 1) none none (.reg 1) false) x →
      threadNext (exec (o.1 g f) s) s g x
        (x.grp.withT (x.taking f.gn f.gp) f.dst.toNat (fun l => v o.2 (f.a x.grp l))) x.grp.bitP x.grp.rdU) ∧
    v 0 0 = 0x7F800000 ∧ v 0 0x80000000 = 0xFF800000 ∧ v 0 0x7F800000 = 0 ∧ v 0 0xFF800000 = 0x80000000 ∧
    v 1 0 = 0x7F800000 ∧ v 1 0x80000000 = 0x7F800000 ∧ v 1 0xBF800000 = 0x7FC00000 ∧ v 1 0x7F800000 = 0 ∧
    v 2 0xBF800000 = 0x7FC00000 ∧ v 2 0x80000000 = 0x80000000 ∧ v 3 0xFF800000 = 0 ∧
    v 4 0 = 0xFF800000 ∧ v 4 0x80000000 = 0xFF800000 ∧ v 4 0xBF800000 = 0x7FC00000 ∧
    v 5 0x7F800000 = 0x7FC00000 ∧ v 5 0xFF800000 = 0x7FC00000 ∧ v 6 0x7F800000 = 0x7FC00000 ∧ v 6 0xFF800000 = 0x7FC00000 ∧
    v 7 0x7F800000 = 0x3F800000 ∧ v 7 0xFF800000 = 0xBF800000 ∧
    (∀ neg m e, valueOf 8 0x40400000 = .fin neg m e →
      nearBy (valueOf 8 (v 0 0x40400000).toNat) (refRcp neg m e) 1 (ulpExp (refRcp neg m e)) = true ∨
        v 0 0x40400000 = BitVec.ofNat 32 (rounded 8 .rne 0 (refRcp neg m e)))

/-- R184, R185: CVT converts one element into its place of DST, whose other bits keep their value; CVTBLK unpack writes
each lane's element of the block converted, and CVTBLK pack writes the packed words to lanes 0 to W − 1 and the scale code to lane W. -/
def ConversionsWriteTheirElements : Prop :=
  (∀ (s : State) (g : At) (f : RForm) (x : Thr) (rm : Rnd), rndOf f.rm.toNat = some rm →
    s.acts g (rChk f (cvtFmt f.fmt.toNat) (decide (f.rm.toNat < 5)) 0x3FF (some 1) none none (.reg 1)
      (!cvtFmt (f.m 6 4) || decide (32 < fmtBits f.fmt.toNat * (f.m 3 3 + 1)) || decide (32 < fmtBits (f.m 6 4) * (f.m 0 3 + 1)))) x →
    threadNext (exec (.cvt g f) s) s g x
      (x.grp.withT (x.taking f.gn f.gp) f.dst.toNat (fun l =>
        let w := fmtBits (f.m 6 4)
        let old := (x.grp.rdT f.dst.toNat l).toNat
        let lo := w * f.m 0 3
        BitVec.ofNat 32 (old % 2 ^ lo + 2 ^ lo * (rounded (f.m 6 4) rm (x.rnd rm l 0)
          (valueOf f.fmt.toNat ((f.a x.grp l).toNat / 2 ^ (fmtBits f.fmt.toNat * f.m 3 3) % 2 ^ fmtBits f.fmt.toNat)) % 2 ^ w) +
          2 ^ (lo + w) * (old / 2 ^ (lo + w))))) x.grp.bitP x.grp.rdU (x.grp.srPlus rm (x.taking f.gn f.gp) 1)) ∧
  ∀ (s : State) (g : At) (f : RForm) (x : Thr) (rm : Rnd), rndOf f.rm.toNat = some rm →
    s.acts g (rChk f (decide (f.fmt = 1) || decide (f.fmt = 2)) (decide (f.rm.toNat < 5)) 0x3E0 (some 1) none none (.reg 1)
      (decide (f.m 6 4 < 6) || decide (8 < f.m 6 4))) x →
    (f.m 5 1 = 0 → threadNext (exec (.cvtblk g f) s) s g x
      (x.grp.withT (x.taking f.gn f.gp &&& BitVec.ofNat 32 (if f.fmt = 1 then 0x1F else 0x7F)) f.dst.toNat (fun l =>
        let w := fmtBits f.fmt.toNat
        let words := if f.fmt = 1 then 4 else 6
        let m := x.taking f.gn f.gp
        let b := packBlock (decide (f.fmt = 1)) rm ((List.range 32).map (fun l => x.rnd rm l 0)) ((List.range 32).map (fun l =>
          if bitAt m.toNat l then valueOf (f.m 6 4) ((f.a x.grp l).toNat % 2 ^ fmtBits (f.m 6 4)) else .fin false 0 0))
        if l = words then BitVec.ofNat 32 b.1
        else BitVec.ofNat 32 (((List.range 32).map (fun k => b.2.getD k 0 % 2 ^ w * 2 ^ (w * k))).sum / 2 ^ (32 * l))))
      x.grp.bitP x.grp.rdU (x.grp.srPlus rm (x.taking f.gn f.gp) 1)) ∧
    (f.m 5 1 = 1 → threadNext (exec (.cvtblk g f) s) s g x
      (x.grp.withT (x.taking f.gn f.gp) f.dst.toNat (fun l =>
        let w := fmtBits f.fmt.toNat
        let words := if f.fmt = 1 then 4 else 6
        let stream := ((List.range words).map (fun k => (f.a x.grp k).toNat * 2 ^ (32 * k))).sum
        BitVec.ofNat 32 (rounded (f.m 6 4) rm (x.rnd rm l 0)
          (blockValue (decide (f.fmt = 1)) ((f.a x.grp words).toNat % 256) (stream / 2 ^ (w * l) % 2 ^ w))))) x.grp.bitP x.grp.rdU
      (x.grp.srPlus rm (x.taking f.gn f.gp) 1))

/-- Packed 16-bit arithmetic, conversions and special functions write their elements and change nothing else: the statements of PackedArithmeticRoundsEachElement, ConversionsWriteTheirElements, SpecialFunctionsWriteFixedFunctions together. -/
def Obligations.PackedArithmeticConversionsAndSpecialFunctions : Prop :=
  PackedArithmeticRoundsEachElement ∧ ConversionsWriteTheirElements ∧ SpecialFunctionsWriteFixedFunctions

/-! ### Loads, stores, atomics and fences (R189 to R196, R262) -/

/-- Local memory after the atomics of some lanes, in their order: each reads, computes and writes its bytes (R194). -/
def afterAtoms (f : MForm) (cas : Bool) (x : Thr) : List (Nat × Nat) → (Nat → Byte) → Nat → Byte
  | [], b => b
  | e :: r, b =>
    let v := atomArgs f cas x.grp e.1
    afterAtoms f cas x r (withBytes b e.2
      (le (mbytes f) (atomResult (if cas then 16 else f.aop.toNat) (8 * mbytes f) (leNat (bytesAt b e.2 (mbytes f))) v.1 v.2)))

/-- R189, R193, R194: LDL writes the little-endian value of its bytes; STL and the local atomics change local memory lane by
lane in ascending order, an atomic returning what the lanes below it left. -/
def LocalMemoryInstructionsActLaneByLane : Prop :=
  (∀ (s : State) (g : At) (f : MForm) (x : Thr),
    s.acts g (mChk f false (decide (f.order.toNat ≤ 1)) (decide (f.aop = 0)) true [] true (some (sizeWords f.size))) x →
    f.allowed false false true x →
    localNext (exec (.ldl g f) s) s g x (f.loaded x (fun l => leNat (bytesAt x.blk.byte (effAddr false f x.grp l) (mbytes f)))) x.blk.byte) ∧
  (∀ (s : State) (g : At) (f : MForm) (x : Thr),
    s.acts g (mChk f false (decide (f.order = 0) || decide (f.order = 2)) (decide (f.aop = 0)) true
      [⟨f.sb.toNat, sizeWords f.size, false⟩] false none) x →
    f.allowed false true true x →
    localNext (exec (.stl g f) s) s g x x.grp.rdT
      ((f.lanes false x).foldl (fun b e => withBytes b e.2 (storeBytes f x.grp e.1)) x.blk.byte)) ∧
  ∀ (cas : Bool) (s : State) (g : At) (f : MForm) (x : Thr), s.acts g (atomChk f false cas) x → f.allowed false true true x →
    localNext (exec (if cas then .casl g f else .atoml g f) s) s g x
      (f.loaded x (fun l => leNat (bytesAt (afterAtoms f cas x ((f.lanes false x).filter (fun e => e.1 < l)) x.blk.byte)
        (effAddr false f x.grp l) (mbytes f))))
      (afterAtoms f cas x (f.lanes false x) x.blk.byte)

/-- A group with one more load or atomic outstanding. -/
def Sys2Proof.Machine.Thr.withLoad (x : Thr) (l : Load) : Thr := { x with grp := { x.grp with loads := x.grp.loads ++ [l] } }

/-- R152, R189 to R195: LDG takes its bytes from L1 where every lane hits and stays outstanding otherwise; ATOMG and CASG stay
outstanding with each lane's operand until their homes have performed them; none writes memory. -/
def GlobalLoadsAndAtomicsStayOutstanding : Prop :=
  (∀ (s : State) (g : At) (f : MForm) (x : Thr),
    s.acts g (mChk f true (decide (f.order.toNat ≤ 1)) (decide (f.aop = 0)) true [] true (some (sizeWords f.size))) x →
    f.allowed true false true x → x.taking f.gn f.gp ≠ 0 →
    ((f.scope.toNat < 2 ∧ ∀ e ∈ f.lanes true x, isHost e.2 = false ∧ (x.core.l1Line x.grp.acq e.2).isSome = true) →
      threadNext (exec (.ldg g f) s) s g x
        (f.loaded x (fun l => match x.core.l1Line x.grp.acq (effAddr true f x.grp l) with
          | some k => leNat (sub k.data (effAddr true f x.grp l % 128) (mbytes f))
          | none => 0)) x.grp.bitP x.grp.rdU) ∧
    (¬(f.scope.toNat < 2 ∧ ∀ e ∈ f.lanes true x, isHost e.2 = false ∧ (x.core.l1Line x.grp.acq e.2).isSome = true) →
      threadNext (exec (.ldg g f) s) s g
        (x.withLoad ⟨f.dst.toNat, mbytes f, f.lanes true x, none, [], decide (f.scope.toNat < 2) && decide (f.hint ≠ 3),
          f.order.toNat % 2 == 1 && decide (2 ≤ f.scope.toNat), s.dev.nextSeq x.no x.grp.slot, false⟩) x.grp.rdT x.grp.bitP x.grp.rdU)) ∧
  ∀ (cas : Bool) (s : State) (g : At) (f : MForm) (x : Thr), s.acts g (atomChk f true cas) x → f.allowed true true false x →
    x.taking f.gn f.gp ≠ 0 →
    threadNext (exec (if cas then .casg g f else .atomg g f) s) s g
      (x.withLoad ⟨f.dst.toNat, mbytes f, f.lanes true x, some (if cas then 16 else f.aop.toNat),
        (f.lanes true x).map (fun e => ⟨e.1, (atomArgs f cas x.grp e.1).1, (atomArgs f cas x.grp e.1).2, none⟩), false,
        f.order.toNat % 2 == 1 && decide (2 ≤ f.scope.toNat), s.dev.nextSeq x.no x.grp.slot,
        decide (2 ≤ f.order.toNat) && decide (2 ≤ f.scope.toNat)⟩) x.grp.rdT x.grp.bitP x.grp.rdU ∧
    ((cas = true ∨ f.aop = 8 ∨ f.aop = 9) → ∀ s', exec (if cas then .casg g f else .atomg g f) s = .next s' →
      ∃ c, s'.dev.cmd x.cmd.cid = some c ∧ c.chk.ord = true)

/-- The stores of the lanes of an STG, with the place `seq` in the order of the group's accesses. -/
def Sys2Proof.MForm.stores (f : MForm) (seq : Nat) (x : Thr) : List Pend :=
  ((f.lanes true x).filter (fun e => !isHost e.2)).map (fun e =>
    ⟨x.no, x.grp.slot, x.part, x.cmd.cid, e.2, storeBytes f x.grp e.1, decide (2 ≤ f.order.toNat) && decide (2 ≤ f.scope.toNat), seq⟩)

/-- R191 to R193, R247: STG hands its stores to the partition L2 in lane order, where those that may be are performed at once, and posts
those to host memory; PRFG writes no register and leaves its lines in L1. -/
def GlobalStoresAndPrefetchesWriteNoRegister : Prop :=
  (∀ (s : State) (g : At) (f : MForm) (x : Thr),
    s.acts g (mChk f true (decide (f.order = 0) || decide (f.order = 2)) (decide (f.aop = 0)) true
      [⟨f.sb.toNat, sizeWords f.size, false⟩] false none) x → f.allowed true true true x →
    (x.taking f.gn f.gp = 0 → threadNext (exec (.stg g f) s) s g x x.grp.rdT x.grp.bitP x.grp.rdU) ∧
    (x.taking f.gn f.gp ≠ 0 → ∃ s1 y, exec (.stg g f) s = .next (s1.sweep.onDev (fun d => d.charge x.part 8 1)) ∧ s1.thr g = some y ∧
      x.grp.after y.grp x.grp.rdT x.grp.bitP x.grp.rdU ∧ s.othersKept s1 g ∧ s1.mem = s.mem ∧ s1.dev.stores = s.dev.stores ++ f.stores (s.dev.nextSeq x.no x.grp.slot) x ∧
      s1.dev.toHost = s.dev.toHost ++ ((f.lanes true x).filter (fun e => isHost e.2)).flatMap (fun e =>
        hostRequests (s.dev.fnOf x.part) s.dev.mps (mbytes f) e.2 (storeBytes f x.grp e.1)) ∧
      ({ s1 with dev := { s1.dev with stores := [], toHost := [] } } : State).sansThreads =
        ({ s with dev := { s.dev with stores := [], toHost := [] } } : State).sansThreads)) ∧
  ∀ (s : State) (g : At) (f : MForm) (x : Thr),
    s.acts g (mChk f true (decide (f.order = 0)) (decide (f.aop = 0)) true [] true none) x → f.allowed true false false x →
    threadNext (exec (.prfg g f) s) s g x x.grp.rdT x.grp.bitP x.grp.rdU

/-- Local memory instructions act lane by lane; global stores and prefetches write no register: the statements of LocalMemoryInstructionsActLaneByLane, GlobalStoresAndPrefetchesWriteNoRegister together. -/
def Obligations.LocalAccessesGlobalStoresAndPrefetches : Prop :=
  LocalMemoryInstructionsActLaneByLane ∧ GlobalStoresAndPrefetchesWriteNoRegister

/-- R196, R262: FENCE holds its group until FENCE_COMPLETE finds its condition met, which for a release of device or system scope is
that no store or atomic of the group waits to be performed, and for an acquire that no load of it is outstanding. -/
def FencesHoldUntilTheirConditionIsMet : Prop :=
  (∀ (s : State) (g : At) (f : RForm) (x : Thr),
    s.acts g (rChk f (decide (f.fmt = 0)) (decide (f.rm = 0)) 0xF none none none .none (decide (f.m 2 2 = 0))) x →
    threadNext (exec (.fence g f) s) s g
      (if x.taking f.gn f.gp = 0 then x else { x with grp := { x.grp with fence := some (f.m 0 2, f.m 2 2) } })
      x.grp.rdT x.grp.bitP x.grp.rdU) ∧
  ∀ (s : State) (g : At) (x : Thr) (scope order : Nat), s.thr g = some x → x.grp.fence = some (scope, order) →
    let met := (2 ≤ order % 4 → 2 ≤ scope → (∀ p ∈ s.dev.stores, ¬(p.no = x.no ∧ p.slot = x.grp.slot)) ∧
      ∀ l ∈ x.grp.loads, ∀ a ∈ l.atoms, a.old ≠ none) ∧ (order % 2 = 1 → x.grp.loads = [])
    (met → ∃ s' y, exec (.fenceComplete g) s = .next s' ∧ s'.thr g = some y ∧
      y.grp = { x.grp with fence := none, acq := if order % 2 = 1 ∧ 2 ≤ scope then x.core.fills else x.grp.acq } ∧ s.othersKept s' g ∧
      s'.sansThreads = s.sansThreads ∧ s'.dev.cmds = s.dev.cmds) ∧
    (¬met → exec (.fenceComplete g) s = .next s)

/-- R193, R260: LOAD_DATA_RETURN ends the oldest load of its group: each of its lanes takes the words of its bytes, from the host's
data or from memory under the waiting stores of its core but those its group issued later; stores that it held back may then be performed
(the model's reading, log entry 73); no atomic returns before all its lanes are performed. -/
def OldestLoadReturnsItsData : Prop :=
  ∀ (s : State) (g : At) (host : HostData) (x : Thr) (l : Load) (rest : List Load), s.thr g = some x → x.grp.loads = l :: rest →
    (l.aop ≠ none → (∃ a ∈ l.atoms, a.old = none) → exec (.loadDataReturn g host) s = .next s) ∧
    (l.aop = none → (∀ e ∈ l.lanes, e.2 / 128 ∉ s.dev.poison) → (∀ e ∈ l.lanes, e.1 < 32) →
      ∃ (s' : State) (y : Thr), exec (.loadDataReturn g host) s = .next s'.sweep ∧ s'.thr g = some y ∧ y.grp.loads = rest ∧ y.grp.pc = x.grp.pc ∧
        (∀ e ∈ l.lanes, l.lanes.filter (fun k => k.1 = e.1) = [e] → l.dst ≠ 255 → ∀ i < max 1 (l.size / 4), l.dst + i < 255 →
          y.grp.rdT (l.dst + i) e.1 = BitVec.ofNat 32
            (leNat (if isHost e.2 then hostBytes host e.2 l.size else s.loadBytes x.no x.grp.slot l.seq e.2 l.size) / 2 ^ (32 * i))) ∧
        (∀ r < 256, ∀ k < 32, (r < l.dst ∨ l.dst + max 1 (l.size / 4) ≤ r ∨ ∀ e ∈ l.lanes, e.1 ≠ k) → y.grp.rdT r k = x.grp.rdT r k) ∧
        s.othersKept s' g ∧ s'.sansThreads = s.sansThreads)

/-- Global loads and atomics stay outstanding until their data returns to their registers: the statements of GlobalLoadsAndAtomicsStayOutstanding, OldestLoadReturnsItsData together. -/
def Obligations.GlobalLoadsAndAtomicsReturnTheirData : Prop :=
  GlobalLoadsAndAtomicsStayOutstanding ∧ OldestLoadReturnsItsData

/-! ### Control instructions, blocks and cores (R142 to R166, R186, R187, R197 to R205) -/

/-- R186, R203: NOP goes on to the next instruction, and BEATRD writes the beat number, low word first, and the notch to DST
and the two registers after it. -/
def NopAndBeatReadGoOn : Prop :=
  (∀ (s : State) (g : At) (f : RForm) (x : Thr),
    s.acts g (rChk f (decide (f.fmt = 0)) (decide (f.rm = 0)) 0 none none none .none false) x →
    threadNext (exec (.nop g f) s) s g x x.grp.rdT x.grp.bitP x.grp.rdU) ∧
  ∀ (s : State) (g : At) (f : RForm) (x : Thr),
    let chk := rChk f (decide (f.fmt = 0)) (decide (f.rm = 0)) 0 none none none (.reg 1) (decide (f.dst.toNat % 2 ≠ 0) || decide (252 < f.dst.toNat))
    s.acts g { chk with uses := chk.uses ++ [⟨f.dst.toNat + 1, 1, false⟩, ⟨f.dst.toNat + 2, 1, false⟩] } x →
    threadNext (exec (.beatrd g f) s) s g x (fun r l =>
      if bitAt (x.taking f.gn f.gp).toNat l = true ∧ f.dst.toNat ≤ r ∧ r ≤ f.dst.toNat + 2 then
        (if r = f.dst.toNat then BitVec.ofNat 32 s.beat.num
         else if r = f.dst.toNat + 1 then BitVec.ofNat 32 (s.beat.num / 2 ^ 32) else BitVec.ofNat 32 s.beat.notch)
      else x.grp.rdT r l) x.grp.bitP x.grp.rdU

/-- R156, R158, R186: BRA moves the whole path, falls through, or splits it: the stack takes the reconvergence address with the
lanes of both paths and the path that was not taken. -/
def BranchesMoveOrSplitTheirPath : Prop :=
  ∀ (s : State) (g : At) (f : BForm) (x : Thr),
    s.acts g ⟨badGuard f.gn f.gp || decide (f.dst ≠ 0) || decide (f.res ≠ 0), [], none⟩ x →
    let m := x.taking f.gn f.gp
    let target := (((x.grp.pc : Int) + 8 * f.tdist.toInt) % 2 ^ 32).toNat
    let meets := (x.grp.pc + 8 * f.rdist.toNat) % 2 ^ 32
    (m = x.grp.mask → groupNext (exec (.bra g f) s) s g x (Grp.settle 66 { x.grp with pc := target, held := false })) ∧
    (m ≠ x.grp.mask → m = 0 → threadNext (exec (.bra g f) s) s g x x.grp.rdT x.grp.bitP x.grp.rdU) ∧
    (m ≠ x.grp.mask → m ≠ 0 → f.rdist = 0 → kernelFaults (exec (.bra g f) s) s x 0x10) ∧
    (m ≠ x.grp.mask → m ≠ 0 → f.rdist ≠ 0 → 32 ≤ x.grp.stack.length → kernelFaults (exec (.bra g f) s) s x 0x04) ∧
    (m ≠ x.grp.mask → m ≠ 0 → f.rdist ≠ 0 → x.grp.stack.length < 32 →
      groupNext (exec (.bra g f) s) s g x (Grp.settle 66
        { x.grp with pc := target, mask := m, held := false,
                     stack := ⟨meets, x.grp.mask, x.grp.pc + 8, x.grp.mask &&& ~~~m⟩ :: x.grp.stack }))

/-- R157, R159: an instruction that goes on counts 8 bytes and reconverges; reconvergence ends with the group on a path that has lanes and has not reached its reconvergence address, and
makes no lane run that had exited. -/
def ReconvergenceLeavesAPathToRun : Prop :=
  (∀ x : Grp, x.advance = Grp.settle 66 { x with pc := x.pc + 8, held := false }) ∧
  ∀ x : Grp, x.stack.length ≤ 32 → (∀ e ∈ x.stack, e.altMask &&& x.exited = 0) → x.mask &&& x.exited = 0 →
    let y := Grp.settle 66 x
    (y.stack = [] ∨ ∃ e r, y.stack = e :: r ∧ y.mask ≠ 0 ∧ y.pc ≠ e.reconv) ∧ y.mask &&& y.exited = 0 ∧ y.exited = x.exited ∧
      y = { x with pc := y.pc, mask := y.mask, stack := y.stack }

/-- A branch moves or splits its path or faults, and reconvergence leaves a path to run: the statements of BranchesMoveOrSplitTheirPath, ReconvergenceLeavesAPathToRun together. -/
def Obligations.BranchesSplitTheirPathAndReconverge : Prop :=
  BranchesMoveOrSplitTheirPath ∧ ReconvergenceLeavesAPathToRun

/-- R159, R166, R187: EXIT ends the taking-part lanes; with its last lanes the group leaves its core, once its matrix operations and
atomics are complete, and the block retires with its last group. -/
def ExitEndsLanesGroupsAndBlocks : Prop :=
  ∀ (s : State) (g : At) (f : RForm) (x : Thr),
    s.acts g (rChk f (decide (f.fmt = 0)) (decide (f.rm = 0)) 0 none none none .none false) x →
    let m := x.taking f.gn f.gp
    let waits := (∃ o ∈ x.core.run ++ x.core.mq, o.slot = x.grp.slot) ∨ ∃ l ∈ x.grp.loads, l.aop ≠ none
    (x.grp.exited ||| m ≠ 0xFFFFFFFF → groupNext (exec (.exit g f) s) s g x
      (Grp.settle 66 { x.grp with exited := x.grp.exited ||| m, mask := x.grp.mask &&& ~~~m, pc := x.grp.pc + 8, held := false })) ∧
    (x.grp.exited ||| m = 0xFFFFFFFF → waits → groupNext (exec (.exit g f) s) s g x { x.grp with held := true }) ∧
    (x.grp.exited ||| m = 0xFFFFFFFF → ¬waits → ∃ s' : State, exec (.exit g f) s = .next s'.sweep ∧ s'.thr g = none ∧
      s'.dev.core x.no = { x.core with groups := x.core.groups.filter (fun y => y.slot ≠ x.grp.slot), blocks := (s'.dev.core x.no).blocks } ∧
      (∀ n, n ≠ x.no → s'.dev.core n = s.dev.core n) ∧ s'.sansThreads = s.sansThreads ∧
      ((∃ y ∈ x.core.groups, y.slot ≠ x.grp.slot ∧ y.k = x.grp.k) → s'.dev.cmds = s.dev.cmds ∧
        (s'.dev.core x.no).blocks =
          (if ∀ y ∈ x.core.groups, y.slot ≠ x.grp.slot → y.k = x.grp.k → y.atBar = true
            then x.core.blocks.map (fun b => if b.k = x.grp.k then { b with release := true } else b) else x.core.blocks)) ∧
      ((∀ y ∈ x.core.groups, y.slot ≠ x.grp.slot → y.k ≠ x.grp.k) →
        (s'.dev.core x.no).blocks = x.core.blocks.filter (fun b => b.k ≠ x.grp.k) ∧
        ∃ c, s'.dev.cmd x.cmd.cid = some c ∧ c.run.retired = x.cmd.run.retired + 1 ∧ c.pos = x.cmd.pos + 1))

/-- R161, R162, R197: BAR holds its group at the barrier, which is due for release once every group of the block has arrived;
BARRIER_RELEASE lets them all go on. -/
def BarriersHoldAndReleaseTheirBlock : Prop :=
  (∀ (s : State) (g : At) (f : RForm) (x : Thr),
    s.acts g (rChk f (decide (f.fmt = 0)) (decide (f.rm = 0)) 0 none none none .none false) x →
    ~~~x.grp.exited &&& ~~~(x.taking f.gn f.gp) = 0 →
    ∃ s' y, exec (.bar g f) s = .next s' ∧ s'.thr g = some y ∧ y.grp = { x.grp.advance with atBar := true } ∧
      (y.blk.release = true ↔ x.blk.release = true ∨ ∀ z ∈ x.core.groups, z.k = x.grp.k → z.slot = x.grp.slot ∨ z.atBar = true) ∧
      y.blk = { x.blk with release := y.blk.release } ∧ s'.sansThreads = s.sansThreads ∧
      ∀ h, h ≠ g → (s'.thr h).map (·.grp) = (s.thr h).map (·.grp)) ∧
  ∀ (s : State) (core : CoreId) (pos : Fin 16) (b : Blk), let no := 36 * core.part.val + core.tile.val
    (s.dev.core no).blocks.find? (fun z => z.k == pos.val) = some b →
    (b.release = true → ∃ s', exec (.barrierRelease core pos) s = .next s' ∧
      s'.dev.core no = { s.dev.core no with
        groups := (s.dev.core no).groups.map (fun y => if y.k = pos.val then { y with atBar := false } else y),
        blocks := (s.dev.core no).blocks.map (fun z => if z.k = pos.val then { b with release := false } else z) } ∧
      (∀ n, n ≠ no → s'.dev.core n = s.dev.core n) ∧ s'.sansThreads = s.sansThreads ∧ s'.dev.cmds = s.dev.cmds) ∧
    (b.release = false → exec (.barrierRelease core pos) s = .next s)

/-- EXIT ends lanes, groups and blocks; a barrier holds a block until every group has arrived: the statements of ExitEndsLanesGroupsAndBlocks, BarriersHoldAndReleaseTheirBlock together. -/
def Obligations.ExitsAndBarriersEndAndReleaseBlocks : Prop :=
  ExitEndsLanesGroupsAndBlocks ∧ BarriersHoldAndReleaseTheirBlock

/-- R202, R204, R205: YIELD, BEATWAIT and CHKMARK go on, or hold their group until it may park, until its beat and notch are
reached, or until every comparison of its block has resolved. -/
def YieldWaitAndMarkHoldTheirGroup : Prop :=
  (∀ (s : State) (g : At) (f : RForm) (x : Thr),
    s.acts g (rChk f (decide (f.fmt = 0)) (decide (f.rm = 0)) 0 none none none .none false) x →
    let parks := x.cmd.ph = .parking ∧ x.taking f.gn f.gp = ~~~x.grp.exited
    let busy := x.grp.loads ≠ [] ∨ ∃ o ∈ x.core.run ++ x.core.mq, o.slot = x.grp.slot
    (¬parks → threadNext (exec (.yield g f) s) s g x x.grp.rdT x.grp.bitP x.grp.rdU) ∧
    (parks → busy → groupNext (exec (.yield g f) s) s g x { x.grp with held := true }) ∧
    (parks → ¬busy → groupNext (exec (.yield g f) s) s g x { x.grp.advance with parked := true })) ∧
  (∀ (s : State) (g : At) (f : RForm) (x : Thr),
    s.acts g (rChk f (decide (f.fmt = 0)) (decide (f.rm = 0)) 0 (some 2) (some 1) none .none false) x →
    (x.taking f.gn f.gp = 0 → threadNext (exec (.beatwait g f) s) s g x x.grp.rdT x.grp.bitP x.grp.rdU) ∧
    ∀ l, isLowest (x.taking f.gn f.gp) l → (f.b x.grp l).toNat < 1024 →
      let beat := x.grp.rd64 f.ua f.sa.toNat l
      let notch := (f.b x.grp l).toNat
      let there := beat < s.beat.num ∨ (s.beat.num = beat ∧ notch ≤ s.beat.notch)
      (s.beat.reached beat notch = true → threadNext (exec (.beatwait g f) s) s g x x.grp.rdT x.grp.bitP x.grp.rdU) ∧
      (s.beat.reached beat notch = false → groupNext (exec (.beatwait g f) s) s g x { x.grp.advance with beatWait := some (beat, notch) }) ∧
      (beat ≠ 0 → s.beat.ever = true → s.beat.st ≠ .off → s.beat.num < beat + 2 ^ 63 → beat < s.beat.num + 2 ^ 63 →
        (s.beat.reached beat notch = true ↔ there))) ∧
  ∀ (s : State) (g : At) (f : RForm) (x : Thr),
    s.acts g (rChk f (decide (f.fmt = 0)) (decide (f.rm = 0)) 1 none none none (if f.m 0 1 = 1 then .none else .reg 1) false) x →
    (f.m 0 1 = 0 → threadNext (exec (.chkmark g f) s) s g x
      (x.grp.withT (x.taking f.gn f.gp) f.dst.toNat (fun _ => BitVec.ofNat 32
        (min x.core.corrected 65535 + (if x.core.noCheck then 65536 else 0) + (if x.blk.bounded then 131072 else 0)))) x.grp.bitP x.grp.rdU) ∧
    (f.m 0 1 = 1 → (x.taking f.gn f.gp = 0 ∨ s.dev.blockResolved x.part x.tile x.blk.k = true) →
      threadNext (exec (.chkmark g f) s) s g x x.grp.rdT x.grp.bitP x.grp.rdU) ∧
    (f.m 0 1 = 1 → x.taking f.gn f.gp ≠ 0 → s.dev.blockResolved x.part x.tile x.blk.k = false →
      groupNext (exec (.chkmark g f) s) s g x { x.grp with held := true })

/-- NOP and BEATRD go on; fences, YIELD, BEATWAIT and CHKMARK hold their group until their condition is met: the statements of NopAndBeatReadGoOn, FencesHoldUntilTheirConditionIsMet, YieldWaitAndMarkHoldTheirGroup together. -/
def Obligations.InstructionsThatHoldTheirGroup : Prop :=
  NopAndBeatReadGoOn ∧ FencesHoldUntilTheirConditionIsMet ∧ YieldWaitAndMarkHoldTheirGroup

/-! ### The matrix unit (R198 to R201, R212 to R224) and the running of groups (R142, R149, R153, R165, R169) -/

/-- A matrix instruction and the operation it issues: its decode checks, whether the operands of a lane are refused with a fault, and
what the operation is for lane `l`. -/
structure MatRow where
  instr : At → XForm → Instr
  chk : XForm → Chk
  ok : XForm → Thr → Nat → Prop
  op : XForm → Thr → Nat → MatOp → Prop
  /-- Stochastic-rounding operations that the lane uses up (R217). -/
  sr : XForm → Nat

/-- The class of the accumulator that an MMA finds, once the operations before it have completed (R218). -/
def mmaMeets (f : XForm) (x : Thr) (k : TileCls) : Prop :=
  xm f 9 1 = 1 ∨ x.core.classAfter (x.blk.k * x.cmd.run.accN + xm f 10 2) = .cleared ∨
    x.core.classAfter (x.blk.k * x.cmd.run.accN + xm f 10 2) = k

/-- MMA, MRD and MCLR (R198, R199, R208 to R218). -/
def matRows : List MatRow :=
  let reg (x : Thr) (r : BitVec 8) (l : Nat) : Nat := (x.grp.rdT r.toNat l).toNat
  [⟨.mma, fun f => xChk f (decide (10 ≤ xm f 16 4) || decide (10 ≤ xm f 12 4) || decide (xm f 0 8 ≠ 0) ||
        (decide (xm f 8 1 = 1) == decide (f.sc = 255))) ([f.sa, f.sb] ++ (if xm f 8 1 = 1 then [f.sc] else [])) true true,
      fun f x l => ∃ k, pairClass (xm f 16 4) (xm f 12 4) = some k ∧ (xm f 8 1 = 1 → k ≠ .bin32) ∧ mmaMeets f x k ∧
        let kd := depthOf (xm f 16 4) (xm f 12 4) (decide (xm f 8 1 = 1))
        reg x f.sa l % 128 = 0 ∧ reg x f.sa l + tileBytes (xm f 16 4) kd (decide (xm f 8 1 = 1)) ≤ x.cmd.run.lmem ∧
        reg x f.sb l % 128 = 0 ∧ reg x f.sb l + tileBytes (xm f 12 4) kd false ≤ x.cmd.run.lmem ∧
        (xm f 8 1 = 1 → reg x f.sc l % 128 = 0 ∧ reg x f.sc l + 128 * kd / 8 ≤ x.cmd.run.lmem),
      fun f x l o => o.kind = .mma ∧ o.sparse = decide (xm f 8 1 = 1) ∧ o.fa = xm f 16 4 ∧ o.fb = xm f 12 4 ∧ o.offA = reg x f.sa l ∧
        o.offB = reg x f.sb l ∧ (xm f 8 1 = 1 → o.offM = reg x f.sc l), fun _ => 0⟩,
   ⟨.mrd, fun f => xChk f (decide (10 ≤ xm f 16 4) || decide (5 ≤ xm f 13 3) || decide (xm f 12 1 ≠ 0) || decide (xm f 0 9 ≠ 0) ||
        decide (f.sb ≠ 0) || decide (f.sc ≠ 0)) [f.sa] true true,
      fun f x l => xm f 16 4 ≠ 1 ∧ xm f 16 4 ≠ 2 ∧ reg x f.sa l % 128 = 0 ∧ reg x f.sa l + 16384 * fmtBits (xm f 16 4) / 8 ≤ x.cmd.run.lmem,
      fun f x l o => o.kind = .mrd ∧ o.fa = xm f 16 4 ∧ o.rm = xm f 13 3 ∧ o.offA = reg x f.sa l ∧ o.n0 = x.grp.srAt l,
      fun f => if xm f 13 3 = 4 then 16384 else 0⟩,
   ⟨.mclr, fun f => xChk f (decide (xm f 12 8 ≠ 0) || decide (xm f 0 10 ≠ 0) || decide (f.sa ≠ 0) || decide (f.sb ≠ 0) || decide (f.sc ≠ 0)) []
        true true, fun _ _ _ => True, fun _ _ _ o => o.kind = .mclr, fun _ => 0⟩]

/-- R198, R199: MMA, MRD and MCLR queue one operation for the lowest taking-part lane, whose token they write to DST; with 16
operations queued their group waits. Tokens skip 0. -/
def Obligations.MatrixInstructionsQueueOneOperation : Prop :=
  ∀ o ∈ matRows, ∀ (s : State) (g : At) (f : XForm) (x : Thr), s.acts g (o.chk f) x →
    let m := x.taking f.gn f.gp
    (m = 0 → threadNext (exec (o.instr g f) s) s g x x.grp.rdT x.grp.bitP x.grp.rdU) ∧
    (m ≠ 0 → 16 ≤ x.core.mq.length → groupNext (exec (o.instr g f) s) s g x { x.grp with held := true }) ∧
    ∀ l, isLowest m l → x.core.mq.length < 16 → o.ok f x l →
      ∃ s' y op, exec (o.instr g f) s = .next s' ∧ s'.thr g = some y ∧
        x.grp.after y.grp (x.grp.withT m f.dst.toNat (fun _ => x.core.tok)) x.grp.bitP x.grp.rdU
          (fun k => if k = l ∧ o.sr f ≠ 0 then (x.grp.srAt l + o.sr f) % 2 ^ 24 else x.grp.srAt k) ∧
        y.core = { x.core with groups := y.core.groups, mq := x.core.mq ++ [op],
                               tok := if x.core.tok = 0xFFFFFFFF then 1 else x.core.tok + 1 } ∧
        o.op f x l op ∧ op.token = x.core.tok ∧ op.slot = x.grp.slot ∧ op.k = x.blk.k ∧ op.lane = l ∧
        op.acc = x.blk.k * x.cmd.run.accN + xm f 10 2 ∧ op.clr = decide (xm f 9 1 = 1) ∧ op.dirty = false ∧
        y.blk = x.blk ∧ s.othersKept s' g ∧ s'.sansThreads = s.sansThreads ∧ s'.dev.cmds = s.dev.cmds

/-- R200: MWAIT goes on where its token is 0 or has been reached by the last token completed, compared modulo 2³², and holds its group otherwise. -/
def Obligations.MatrixWaitHoldsUntilItsToken : Prop :=
  ∀ (s : State) (g : At) (f : XForm) (x : Thr),
    s.acts g (xChk f (decide (f.mods ≠ 0) || decide (f.sb ≠ 0) || decide (f.sc ≠ 0)) [f.sa] false false) x →
    (x.taking f.gn f.gp = 0 → threadNext (exec (.mwait g f) s) s g x x.grp.rdT x.grp.bitP x.grp.rdU) ∧
    ∀ l, isLowest (x.taking f.gn f.gp) l →
      let t := x.grp.rdT f.sa.toNat l
      (t = 0 ∨ (x.core.lastTok - t).toNat < 2 ^ 31 → threadNext (exec (.mwait g f) s) s g x x.grp.rdT x.grp.bitP x.grp.rdU) ∧
      (t ≠ 0 → 2 ^ 31 ≤ (x.core.lastTok - t).toNat →
        groupNext (exec (.mwait g f) s) s g x { x.grp.advance with matWait := some t })

/-- The core with its oldest operation complete: it is the last token, and the groups that waited on it go on (R199, R200). -/
def Sys2Proof.Machine.Core.completed (c : Core) (o : MatOp) : Core :=
  { c with run := c.run.drop 1, lastTok := o.token,
           groups := c.groups.map (fun g => match g.matWait with
             | some t => if t = 0 ∨ (o.token - t).toNat < 2 ^ 31 then { g with matWait := none } else g
             | none => g) }

/-- The outcome is a next state in which one core is `c`, the commands are `cmds` and nothing else has changed but activity counts
and the count of free values taken. -/
def coreNext (o : Host.Outcome State Fault Refusal) (s : State) (no : Nat) (c : Core) (cmds : List Cmd) : Prop :=
  ∃ s', o = .next s' ∧ s'.dev.core no = c ∧ (∀ n, n ≠ no → s'.dev.core n = s.dev.core n) ∧ s'.dev.cmds = cmds ∧
    ({ s' with dev := { s'.dev with fresh := 0 } } : State).sansThreads = ({ s with dev := { s.dev with fresh := 0 } } : State).sansThreads

/-- R199, R213, R216, R217, R223: the oldest queued operation starts unless an operation in progress has its accumulator; an MMA
completes with its tile written and, with a working check unit, a comparison due; MRD with its bytes in local memory; MCLR, and CLR
of MRD, with the tile cleared. -/
def MatrixOperationsStartAndCompleteInOrder : Prop :=
  ∀ (s : State) (core : CoreId) (o : MatOp), let no := 36 * core.part.val + core.tile.val
    let c := s.dev.core no
    (∀ rest cid, c.mq = o :: rest → c.cid = some cid → o.kind ≠ .mma →
      ((∃ r ∈ c.run, r.acc = o.acc) → exec (.matrixOpStart core) s = .next s) ∧
      ((∀ r ∈ c.run, r.acc ≠ o.acc) → coreNext (exec (.matrixOpStart core) s) s no { c with mq := rest, run := c.run ++ [o] } s.dev.cmds)) ∧
    (∀ rest cid, c.mq = o :: rest → c.cid = some cid → o.kind = .mma → o.sparse = false → flag (s.dev.reg 0x80000) 3 = false →
      coreNext (exec (.matrixOpStart core) s) s no
        { c with mq := rest, run := c.run ++ [o], mmas := if (s.dev.cmd cid).isSome then c.mmas + 1 else c.mmas } s.dev.cmds) ∧
    (∀ rest cid, c.run = o :: rest → c.cid = some cid → o.kind = .mma →
      let t := mmaTile c o s.dev.fresh
      coreNext (exec (.mmaComplete core) s) s no
        { c.completed o with tiles := c.tiles.set o.acc t, cmps := if c.noCheck then c.cmps else c.cmps ++ [⟨o.k, o.acc, t⟩] }
        (s.dev.cmds.map (fun x => if x.cid = cid then
          { x with chk := { x.chk with bnd := x.chk.bnd || t.bounded, absent := if c.noCheck then x.chk.absent ||| 1 else x.chk.absent,
                                       cover := if c.noCheck then x.chk.cover else x.chk.cover ||| 1 } } else x))) ∧
    (∀ rest, c.run = o :: rest → o.kind = .mclr →
      coreNext (exec (.mclrComplete core) s) s no { c.completed o with tiles := c.tiles.set o.acc tileCleared } s.dev.cmds) ∧
    ∀ rest cmd b, c.run = o :: rest → o.kind = .mrd → c.cid.bind s.dev.cmd = some cmd → c.blocks.find? (fun z => z.k == o.k) = some b →
      ∃ s' b', exec (.mrdComplete core) s = .next s' ∧ (s'.dev.core no).blocks.find? (fun z => z.k == o.k) = some b' ∧
        (∀ a, b'.byte a = withBytes b.byte o.offA (mrdOut cmd (c.tiles.getD o.acc tileCleared) o) a) ∧
        (s'.dev.core no).lastTok = o.token ∧ (s'.dev.core no).groups = (c.completed o).groups ∧ (s'.dev.core no).run.length = rest.length ∧
        (s'.dev.core no).tiles = (if o.clr then c.tiles.set o.acc tileCleared else c.tiles) ∧
        s'.sansThreads = s.sansThreads ∧ s'.dev.cmds = s.dev.cmds

/-- R128, R131, R135: an MMA of unscaled formats adds to each element of its tile, with no rounding between them, every product as a
whole number of units of 2⁻³²: while the sum stays below 2⁹⁵ units nothing is lost, so that the order of the products does not matter. -/
def WideAccumulationIsExact : Prop :=
  ∀ (t : Tile) (ra rb : Array (List (Fv × Nat))) (kd k : Nat), k < 16384 → natAt t.fl k = 0 →
    let ps := (products false ra rb (k / 128) (k % 128)).map (·.2)
    let unit (v : Fv) : Int := match v with
      | .fin neg m e => inUnits neg m e (-32)
      | _ => 0
    (∀ p ∈ ps, p.isFin = true) → (intAt t.a k).natAbs + (ps.map (fun p => (unit p).natAbs)).sum < 2 ^ 95 →
    intAt (mmaWide t .unscaled ra rb kd).a k = intAt t.a k + (ps.map unit).sum ∧ natAt (mmaWide t .unscaled ra rb kd).fl k = 0 ∧
      (mmaWide t .unscaled ra rb kd).q = some (-32)

/-- Matrix operations start and complete in order; a wide accumulation is exact: the statements of MatrixOperationsStartAndCompleteInOrder, WideAccumulationIsExact together. -/
def Obligations.MatrixOperationsCompleteInOrderAndAccumulateExactly : Prop :=
  MatrixOperationsStartAndCompleteInOrder ∧ WideAccumulationIsExact

/-- The rows of the opcode map with the command that each instruction word runs (Table: Opcode map). -/
def opcodeMap : List (Nat × (At → Nat → Instr)) :=
  let r (k : At → RForm → Instr) : At → Nat → Instr := fun g w => k g (rForm w)
  let i (k : At → IForm → Instr) : At → Nat → Instr := fun g w => k g (iForm w)
  let m (k : At → MForm → Instr) : At → Nat → Instr := fun g w => k g (mForm w)
  let x (k : At → XForm → Instr) : At → Nat → Instr := fun g w => k g (xForm w)
  [(0x00, r .nop), (0x01, fun g w => .bra g (bForm w)), (0x02, r .exit), (0x03, r .bar), (0x04, r .yield), (0x05, r .beatrd),
   (0x06, r .beatwait), (0x07, r .chkmark)] ++
  [(0x10, r .iadd), (0x11, r .isub), (0x12, r .imul), (0x13, r .imulhi), (0x14, r .imad), (0x15, r .iaddsat), (0x16, r .isubsat),
   (0x17, r .imin), (0x18, r .imax), (0x19, r .and), (0x1A, r .or), (0x1B, r .xor), (0x1C, r .shl), (0x1D, r .shr), (0x1E, r .isetp),
   (0x1F, r .ibit)] ++
  [(0x20, i .iaddI), (0x21, i .isubI), (0x22, i .imulI), (0x23, i .imulhiI), (0x24, i .imadI), (0x25, i .iaddsatI), (0x26, i .isubsatI),
   (0x27, i .iminI), (0x28, i .imaxI), (0x29, i .andI), (0x2A, i .orI), (0x2B, i .xorI), (0x2C, i .shlI), (0x2D, i .shrI), (0x2E, i .isetpI)] ++
  [(0x30, r .fadd), (0x31, r .fsub), (0x32, r .fmul), (0x33, r .ffma), (0x34, r .fmin), (0x35, r .fmax), (0x36, r .fsetp),
   (0x38, i .faddI), (0x39, i .fsubI), (0x3A, i .fmulI), (0x3B, i .ffmaI), (0x3C, i .fminI), (0x3D, i .fmaxI), (0x3E, i .fsetpI),
   (0x40, r .hadd2), (0x41, r .hsub2), (0x42, r .hmul2), (0x43, r .hfma2), (0x44, r .hmin2), (0x45, r .hmax2), (0x46, r .hsetp2)] ++
  [(0x50, r .rcp), (0x51, r .rsq), (0x52, r .sqrt), (0x53, r .ex2), (0x54, r .lg2), (0x55, r .sin), (0x56, r .cos), (0x57, r .tanh),
   (0x58, r .cvt), (0x59, r .cvtblk), (0x60, r .mov), (0x61, i .movi), (0x62, r .sel), (0x63, r .shfl), (0x64, r .vote), (0x65, r .plop),
   (0x66, r .lane), (0x67, r .t2u)] ++
  [(0x70, r .uadd), (0x71, r .usub), (0x72, r .umul), (0x73, r .uand), (0x74, r .uor), (0x75, r .uxor), (0x76, r .ushl), (0x77, r .ushr),
   (0x78, i .umovi), (0x80, m .ldg), (0x81, m .stg), (0x82, m .ldl), (0x83, m .stl), (0x84, m .prfg), (0x90, m .atomg), (0x91, m .atoml),
   (0x92, m .casg), (0x93, m .casl), (0xA0, r .fence), (0xB0, x .mma), (0xB1, x .mrd), (0xB2, x .mwait), (0xB3, x .mclr)]

/-- R169, R170, R176: an instruction word runs the command of its opcode with the fields of its form; any other opcode is an illegal
instruction, which fells the command. -/
def InstructionWordsRunTheirOpcode : Prop :=
  (∀ o ∈ opcodeMap, ∀ (g : At) (w : Nat) (s : State), wbits w 56 8 = o.1 → runWord g w s = exec (o.2 g w) s) ∧
  ∀ (g : At) (w : Nat) (s : State) (x : Thr), (∀ o ∈ opcodeMap, wbits w 56 8 ≠ o.1) → s.thr g = some x → x.grp.blocked = false →
    x.cmd.ph.fellable = true → x.grp.pc < x.cmd.run.codeLen →
    ∃ s' c, runWord g w s = .next s' ∧ s'.dev.cmd x.cmd.cid = some c ∧ c.ph = .felling ∧ c.fellEnd = .complete 5 0x10

/-- R142, R149, R153, R165, R474: CORE_CYCLE counts down a split change, or, in the d of 16 cycles that its partition's duty d gives it (which
they are is free: log entry 74), lets a ready active group issue the word at its program counter; BLOCK_DISPATCH gives the next block to the core with the most free capacity, with groups at the kernel's entry. -/
def CyclesIssueAndBlocksDispatch : Prop :=
  (∀ (s : State) (core : CoreId), let no := 36 * core.part.val + core.tile.val
    let c := s.dev.core no
    (c.cid = none → exec (.coreCycle core) s = .next s) ∧
    (∀ cid, c.cid = some cid → c.stall ≠ 0 →
      coreNext (exec (.coreCycle core) s) s no { c with stall := c.stall - 1, phase := (c.phase + 1) % 16 } s.dev.cmds) ∧
    (∀ d, 1 ≤ d → d ≤ 16 → s.dev.reg (0x120080 + 4 * core.part.val) = BitVec.ofNat 32 d →
      ((List.range 16).filter (fun i => s.dev.issues no { c with phase := (c.phase + i) % 16 })).length = d) ∧
    ∀ cid x, c.cid = some cid → c.stall = 0 → c.groups = [x] → x.active = true → x.wait = 0 → x.issue < 4 → s.ready core cid x = .go →
      let s1 := s.onDev (fun d => d.setCore no { c with phase := (c.phase + 1) % 16 })
      (s.dev.issues no c = false → exec (.coreCycle core) s = .next s1) ∧
      (s.dev.issues no c = true → exec (.coreCycle core) s = .next (outState s1 (runWord ⟨core.part, core.tile, Fin.ofNat 64 x.slot⟩ (s.wordOf cid x) s1)))) ∧
  ∀ (s : State) (p : Fin 16) (cid l : Nat) (c : Cmd), s.dev.cmd cid = some c → c.part = p.val → c.op = 4 → c.ph = .running →
    c.run.next < c.run.total → s.dev.dispatchTo c (s.wearTile p.val) = some l →
    (l ∈ s.dev.activeTiles p.val ∧ c.cores.contains l = true ∧ s.wearTile p.val ≠ some l ∧ 0 < s.dev.capacity c l ∧
      ∀ k ∈ s.dev.activeTiles p.val, c.cores.contains k = true → s.wearTile p.val ≠ some k → s.dev.capacity c k ≤ s.dev.capacity c l) ∧
    ∃ s' b gs, exec (.blockDispatch p cid) s = .next s' ∧
      (s'.dev.core (36 * p.val + l)).cid = some cid ∧ (s'.dev.core (36 * p.val + l)).cfg = c.run.cfg ∧
      (s'.dev.core (36 * p.val + l)).blocks = (s.dev.core (36 * p.val + l)).blocks ++ [b] ∧ b.lin = c.run.next ∧ b.release = false ∧
      (s'.dev.core (36 * p.val + l)).groups = (s.dev.core (36 * p.val + l)).groups ++ gs ∧ gs.length = c.run.groups ∧
      (∀ y ∈ gs, y.k = b.k ∧ y.pc = c.run.entry ∧ y.mask = 0xFFFFFFFF ∧ y.stack = [] ∧ y.loads = [] ∧ y.t = [] ∧ y.p = []) ∧
      (∀ n, n ≠ 36 * p.val + l → s'.dev.core n = s.dev.core n) ∧
      s'.dev.cmd cid = some { c with run := { c.run with next := c.run.next + 1 }, chk := { c.chk with cores := c.chk.cores ||| 2 ^ l } } ∧
      s'.mem = s.mem ∧ s'.beat = s.beat ∧ s'.pending = s.pending

/-- An instruction word runs its opcode; core cycles issue groups and the distributor dispatches blocks: the statements of InstructionWordsRunTheirOpcode, CyclesIssueAndBlocksDispatch together. -/
def Obligations.WordsDecodeAndCyclesIssueAndDispatch : Prop :=
  InstructionWordsRunTheirOpcode ∧ CyclesIssueAndBlocksDispatch

/-! ### Commands: intake, execution, commit (R82 to R85, R329, R335, R345, R359 to R379) -/

/-- A command and its opcode, and what it is once it has started (R359 to R362, R369). -/
structure StartRow where
  instr : Nat → HostData → Instr
  op : Nat
  run : Cmd → Cmd

/-- The opcodes that only begin to run (R361, R362, R369). -/
def startRows : List StartRow :=
  [⟨fun n h => .runList n h, 1, fun c => { c with ph := .running, entryLive := false }⟩, ⟨fun n _ => .copy n, 2, fun c => { c with ph := .running }⟩,
   ⟨fun n _ => .fill n, 3, fun c => { c with ph := .running, srcDig := 0 }⟩,
   ⟨fun n _ => .kernel n, 4, fun c => { c with ph := .running, chk := { c.chk with ord := c.run.ord } }⟩]

/-- R85, R359, R361, R362, R369: INTAKE_PASS_DONE gives a granted command the digests of its inputs; RUN_LIST, COPY, FILL and KERNEL
then start, or go on to their commit where their length is zero; and a transfer leaves its bytes at its destination. -/
def CommandsDigestStartAndTransfer : Prop :=
  (∀ (s : State) (cid : Nat) (host : HostData) (c : Cmd), s.dev.cmd cid = some c → c.ph = .granted → c.chk.zero = false →
    (∀ l ∈ s.dev.poison, ∀ r ∈ c.ins, (s.dev.sealedDigest r).isNone = true → ¬(0 < r.len ∧ r.addr < 128 * l + 128 ∧ 128 * l < r.addr + r.len)) →
    ∃ s', exec (.intakePassDone cid host) s = .next s' ∧
      s'.dev.cmds = s.dev.cmds.map (fun x => if x.cid = cid then
        { c with ph := .loaded, inDig := boundDigests (s.dev.rangeDigest s.mem host) c.ins,
                 srcDig := (match c.ins with
                   | r :: _ => s.dev.rangeDigest s.mem host r
                   | [] => 0) } else x) ∧
      ({ s' with dev := { s'.dev with cmds := s.dev.cmds, kiln := { s'.dev.kiln with cnt := s.dev.kiln.cnt } } } : State) = s) ∧
  (∀ o ∈ startRows, ∀ (s : State) (cid : Nat) (host : HostData) (c : Cmd), s.dev.cmd cid = some c →
    (c.op = o.op → (c.ph = .loaded ∨ (c.ph = .granted ∧ (c.chk.zero = true ∨ c.ins = []))) →
      ∃ s', exec (o.instr cid host) s = .next s' ∧ ({ s' with dev := { s'.dev with cmds := s.dev.cmds } } : State) = s ∧
        s'.dev.cmds = s.dev.cmds.map (fun x => if x.cid = cid then (if c.chk.zero then { c with ph := .digest } else o.run c) else x)) ∧
    (c.op ≠ o.op → exec (o.instr cid host) s = .next s)) ∧
  ∀ (s : State) (cid : Nat) (host : HostData) (c : Cmd) (out : Range) (rest : List Range), s.dev.cmd cid = some c → c.ph = .running →
    (c.op = 2 ∨ c.op = 3) → c.outs = out :: rest → s.dev.poison = [] → (c.op = 2 → ∃ r, c.ins = [r] ∧ r.len = out.len) →
    let bs := if c.op = 2 then readAny s.mem host ((c.ins.headD ⟨0, 0, 0, 0, 0⟩).addr) out.len else fillBytes (fieldAt c.desc 36 4) out.len
    ∃ s' x, exec (.copyTransferDone cid host) s = .next s' ∧ s'.dev.cmd cid = some x ∧ x.ph = .digest ∧ x.pos = out.len ∧
      (c.op = 3 → x.srcDig = digest bs) ∧ s'.beat = s.beat ∧ s'.pending = s.pending ∧ s'.dev.regs = s.dev.regs ∧
      (isHost out.addr = true → s'.mem = s.mem ∧
        s'.dev.toHost = s.dev.toHost ++ hostRequests (s.dev.fnOf c.part) s.dev.mps bs.length out.addr bs) ∧
      (isHost out.addr = false → (∀ a, s.dev.sealedLine a = none) → s'.dev.toHost = s.dev.toHost ∧
        ∀ a, readByte s'.mem a = withBytes (readByte s.mem) out.addr bs a)

/-- A descriptor as it enters the device (R329, R335). -/
def Sys2Proof.Machine.State.looks (s : State) (d : Dev) (host : HostData) (r : Nat) : Look := ⟨d, s.mem, host, r / 16, r⟩

/-- R329, R335, R345, R368: a fetch read that fails or times out halts its ring; one that returns moves the ring on, and each descriptor
waits, or completes with status 0x0A and the first failure of its checks; a list launches its next entry. -/
def DescriptorsEnterAndListEntriesLaunch : Prop :=
  (∀ (s : State) (p k : Fin 16) (i n : Nat) (rest : List (Nat × Nat)), let r := 16 * p.val + k.val
    (s.dev.sring r).inFetch = (i, n) :: rest → (s.dev.sring r).err = false →
    (∃ s', exec (.descriptorFetchTimeout p k) s = .next s' ∧ (s'.dev.sring r).err = true ∧ (s'.dev.sring r).inFetch = rest ∧
      (s'.dev.sring r).cons = (s.dev.sring r).cons ∧ s'.dev.cmds = s.dev.cmds ∧ s'.mem = s.mem ∧ s'.beat = s.beat ∧ s'.pending = s.pending) ∧
    (∀ ds host, ∃ s', exec (.descriptorFetchDone p k false ds host) s = .next s' ∧ (s'.dev.sring r).err = true ∧
      (s'.dev.sring r).inFetch = rest ∧ (s'.dev.sring r).cons = (s.dev.sring r).cons ∧ s'.dev.cmds = s.dev.cmds ∧
      s'.mem = s.mem ∧ s'.beat = s.beat ∧ s'.pending = s.pending) ∧
    ∀ ds host, ∃ s', exec (.descriptorFetchDone p k true ds host) s = .next s' ∧
      (s'.dev.sring r).cons = (i + n) % 2 ^ s.dev.srN r ∧ (s'.dev.sring r).fetched = ((s.dev.sring r).fetched + n) % 2 ^ 32 ∧
      s'.dev.nextCid = s.dev.nextCid + n ∧ s'.mem = s.mem ∧ s'.beat = s.beat ∧ s'.pending = s.pending) ∧
  (∀ (s : State) (r : Nat) (host : HostData) (x : Nat × Bytes), (∀ c ∈ s.dev.cmds, c.cid ≠ s.dev.nextCid) →
    let ds := padTo 64 x.2
    let v := (s.looks s.dev host r).descriptor ds
    let d := s.dev.intake s.mem host s.clk r x
    d.nextCid = s.dev.nextCid + 1 ∧
    (∀ code byte, v.2 = some (code, byte) → ∃ c, d.cmd s.dev.nextCid = some c ∧ c.desc = ds ∧ c.idx = x.1 ∧ c.ph = .completion ∧
      c.status = 0x0A ∧ c.detail = code ∧ c.byte3 = byte) ∧
    (v.2 = none → (∀ g, s.dev.rgnSt g ≠ 4) → ∃ c, d.cmd s.dev.nextCid = some c ∧ c.desc = ds ∧ c.idx = x.1 ∧ c.ph = .waiting ∧
      c.part = r / 16 ∧ c.ring = r % 16 ∧ c.ins = v.1.ins ∧ c.outs = v.1.outs)) ∧
  ∀ (s : State) (cid : Nat) (host : HostData) (c : Cmd), s.dev.cmd cid = some c → c.op = 1 → c.ph = .running → c.entryLive = false →
    c.stop = none → c.entryK < fieldAt c.desc 36 4 → c.kind = .descriptor → (∀ x ∈ s.dev.cmds, x.cid ≠ s.dev.nextCid) →
    let e := readAny s.mem host (c.entryAddr c.entryK) 32
    let v := (s.looks s.dev host (16 * c.part + c.ring % 16)).entry [] entryOps c.desc e
    c.part < 16 → v.2 = none → (∀ g, s.dev.rgnSt g ≠ 4) →
    ∃ s' y, exec (.listEntryLaunch cid host) s = .next s' ∧ s'.dev.cmd s.dev.nextCid = some y ∧ y.kind = .entry cid c.entryK ∧ y.ph = .waiting ∧
      y.ready = true ∧ y.desc = entryDesc c.desc e ∧ y.ins = v.1.ins ∧ y.outs = v.1.outs ∧ s'.dev.cmd cid = some { c with entryLive := true } ∧
      s'.dev.nextCid = s.dev.nextCid + 1 ∧
      ({ s' with dev := { s'.dev with cmds := s.dev.cmds, nextCid := s.dev.nextCid } } : State) = s

/-- The control opcodes with the condition under which each commits (R97, R331, R360, R372, R377). -/
def commitRows : List (Nat × (Nat → Instr) × (State → Cmd → Prop)) :=
  [(0, .nopCommand, fun _ _ => True), (8, .signal, fun _ _ => True),
   (9, .wait, fun s c => (s.dev.tallyOf c.part (fieldAt c.desc 26 2 % 4096) + 2 ^ 64 - fieldAt c.desc 56 8 % 2 ^ 64) % 2 ^ 64 < 2 ^ 63),
   (0xA, .seal, fun _ _ => True),
   (0xB, .fenceSys, fun s c => (∀ x ∈ s.dev.stores, x.part = c.part → c.cid ≤ x.cid) ∧
      ∀ x ∈ s.dev.finals ++ s.dev.finalsQ, s.dev.fenced c.part c.cid x = false),
   (0xC, .cancel, fun s c => ∀ t ∈ s.dev.cmds, ¬(t.kind = .descriptor ∧ t.part = c.part ∧ t.ring % 16 = fieldAt c.desc 34 1 % 16 ∧
      t.idx = fieldAt c.desc 32 2 ∧ t.tag = fieldAt c.desc 40 8))]

/-- R93, R95, R360, R374, R377: a control command commits: its receipt takes the next index of its partition's chain, is linked to the
receipt before it, and waits for its ring; WAIT and FENCE_SYS commit only once what they wait for is met. -/
def ControlCommandsCommitWithTheNextReceipt : Prop :=
  ∀ o ∈ commitRows, ∀ (s : State) (cid : Nat) (c : Cmd), s.dev.cmd cid = some c → c.op = o.1 → c.ph = .loaded → c.chk.zero = false →
    c.kind = .descriptor →
    (o.2.2 s c →
      let ch := s.dev.chain c.part
      let b := s.dev.receiptBytes s.clk c ch.next ch.prevHash
      let r := 256 + c.part
      (exec (o.2.1 cid) s = .next { s with dev := { s.dev with
        chains := (s.dev.setChain c.part { ch with next := (ch.next + 1) % 2 ^ 64, prevHash := (sha384 b).take 32 }).chains,
        dr := (s.dev.setDring r { s.dev.dring r with wait := (s.dev.dring r).wait ++ [⟨b, some cid, false⟩] }).dr,
        cmds := s.dev.cmds.map (fun x => if x.cid = cid then { x with ph := .receipt, rcpt := some b, rcptIdx := ch.next } else x) } }) ∧
      fieldAt b 0 8 = c.tag ∧ fieldAt b 8 8 = ch.next % 2 ^ 64 ∧ fieldAt b 16 8 = s.beat.num % 2 ^ 64 ∧ fieldAt b 24 2 = s.beat.notch % 2 ^ 16 ∧
      (ch.prevHash.length = 32 → b.length = 128 ∧ b.drop 96 = ch.prevHash)) ∧
    (o.1 ≠ 0xC → ¬o.2.2 s c → exec (o.2.1 cid) s = .next s)

/-- Descriptors are checked and enter, list entries launch, and control commands commit with the next receipt: the statements of DescriptorsEnterAndListEntriesLaunch, ControlCommandsCommitWithTheNextReceipt together. -/
def Obligations.DescriptorsEnterAndControlCommandsCommit : Prop :=
  DescriptorsEnterAndListEntriesLaunch ∧ ControlCommandsCommitWithTheNextReceipt

/-- R377, R378, R379: CANCEL ends a waiting target with status 1, fells one in progress, which is to end with status 2, and keeps its own
completion behind the target's. -/
def CancelEndsItsTargetByItsPhase : Prop :=
  ∀ (s : State) (cid : Nat) (c t : Cmd), s.dev.cmd cid = some c → c.op = 0xC → c.ph = .loaded → c.chk.zero = false → c.kind = .descriptor →
    s.dev.cancelTarget c = some t → s.dev.cmd t.cid = some t → t.cid ≠ cid → t.op ≠ 1 → t.op ≠ 7 → (∀ q ∈ (s.dev.srv t.part).seqs, q.cid ≠ t.cid) →
    c.part < 16 →
    ((t.ph = .waiting ∨ t.ph.fellable = true) →
      ∃ s' t' c', exec (.cancel cid) s = .next s' ∧ s'.dev.cmd t.cid = some t' ∧ s'.dev.cmd cid = some c' ∧ c'.ph = .receipt ∧
        c'.behind = some t.cid ∧ s'.mem = s.mem ∧ s'.beat = s.beat ∧ s'.pending = s.pending ∧
        (t.ph = .waiting → t'.ph = .completion ∧ t'.status = 1 ∧
          (s'.dev.dring (16 * t.part + t.ring % 16)).wait = (s.dev.dring (16 * t.part + t.ring % 16)).wait ++
            [⟨completionBytes s.clk t 1 0 0xFF, some t.cid, bitAt t.flags 2⟩]) ∧
        (t.ph ≠ .waiting → t'.ph = .felling ∧ t'.fellEnd = .complete 2 0)) ∧
    ((t.ph = .receipt ∨ t.ph = .completion) →
      ∃ s' c', exec (.cancel cid) s = .next s' ∧ s'.dev.cmd t.cid = some t ∧ s'.dev.cmd cid = some c' ∧ c'.ph = .receipt ∧ c'.behind = c.behind)

/-- Commands digest their inputs, start, transfer, and end by a cancel according to their phase: the statements of CommandsDigestStartAndTransfer, CancelEndsItsTargetByItsPhase together. -/
def Obligations.CommandsRunTransferAndAreCancelled : Prop :=
  CommandsDigestStartAndTransfer ∧ CancelEndsItsTargetByItsPhase

/-! ### Checks, receipts, seals, completions and events (R63 to R101, R333, R338 to R344) -/

/-- A failed check of mechanism `mech` fells its command: to run again with the named cores excluded, or, once its re-runs are used up, to
end with status 4 (R75, R76). -/
def felledBy (s s' : State) (cid mech : Nat) (ex : List Nat) (c : Cmd) : Prop :=
  ∃ y, s'.dev.cmd cid = some y ∧ y.ph = .felling ∧ s'.mem = s.mem ∧ s'.beat = s.beat ∧ s'.pending = s.pending ∧
    (c.retries < fld (s.dev.reg 0x80000) 0 3 →
      y.fellEnd = .requeue ∧ y.attempt = c.attempt + 1 ∧ y.retries = c.retries + 1 ∧ y.excl = c.excl ++ ex) ∧
    (fld (s.dev.reg 0x80000) 0 3 ≤ c.retries → y.fellEnd = .complete 4 mech)

/-- R69, R71, R74 to R76, R86, R223, R224: comparisons resolve in order; one that passes leaves its command running, and one that fails, or a
host read that gets no completion, fells it. -/
def Obligations.ComparisonsPassOrFellTheirCommand : Prop :=
  (∀ (s : State) (core : CoreId) (us : List Upset) (m : Cmp) (rest : List Cmp) (cid : Nat) (c : Cmd),
    let no := 36 * core.part.val + core.tile.val
    let k := s.dev.core no
    k.cmps = m :: rest → k.cid = some cid → s.dev.cmd cid = some c →
    let t := m.tile.upset us
    ((∀ l < 256, t.linePasses l = true) → c.run.retired < c.run.total →
      ∃ s', exec (.checkLaneCompare core us) s = .next s' ∧ (s'.dev.core no).cmps = rest ∧
        (s'.dev.core no).tiles = k.tiles.set m.acc ((k.tiles.getD m.acc tileCleared).upset us) ∧ (s'.dev.core no).groups = k.groups ∧
        ({ s' with dev := { s'.dev with cores := s.dev.cores } } : State) = s) ∧
    ((∃ l < 256, t.linePasses l = false) → c.ph.fellable = true →
      ∃ s', exec (.checkLaneCompare core us) s = .next s' ∧ felledBy s s' cid 0 [core.tile.val] c)) ∧
  (∀ (s : State) (spare : CoreId) (l cid : Nat) (c : Cmd), let no := 36 * spare.part.val + spare.tile.val
    (s.dev.core no).shadow = some (l, cid) → s.dev.cmd cid = some c →
    (c.run.retired < c.run.total → s.dev.reg 0x80028 ≠ 0xFFFFFFFF →
      ∃ s', exec (.shadowCompareDone spare true) s = .next s' ∧ (s'.dev.core no).shadow = none ∧ s'.dev.reg 0x80028 = s.dev.reg 0x80028 + 1 ∧
        (∀ off, off ≠ 0x80028 → s'.dev.reg off = s.dev.reg off) ∧
        s'.dev.cmd cid = some { c with chk := { c.chk with
          shadowPend := c.chk.shadowPend - 1, shadows := c.chk.shadows + 1,
          cover := c.chk.cover ||| 8, spares := c.chk.spares ||| 2 ^ s.dev.mapNum spare.part.val spare.tile.val } } ∧
        ({ s' with dev := { s'.dev with cores := s.dev.cores, cmds := s.dev.cmds, regs := s.dev.regs } } : State) = s) ∧
    (c.ph.fellable = true → l ≠ 0xFF →
      ∃ s', exec (.shadowCompareDone spare false) s = .next s' ∧ felledBy s s' cid 3 [l, spare.tile.val] c)) ∧
  (∀ (s : State) (cid : Nat) (c : Cmd), s.dev.cmd cid = some c →
    ((c.ph = .granted ∨ c.ph = .running) → (∃ r ∈ c.ins, isHost r.addr = true) →
      ∃ s', exec (.completionTimeout (.source cid)) s = .next s' ∧ felledBy s s' cid 4 [] c) ∧
    (c.ph = .digest → (∃ r ∈ c.outs, isHost r.addr = true) →
      ∃ s', exec (.completionTimeout (.digest cid)) s = .next s' ∧ felledBy s s' cid 4 [] c)) ∧
  ∀ (s : State) (g : At) (x : Thr), s.thr g = some x → x.cmd.ph.fellable = true →
    (∃ l ∈ x.grp.loads, ∃ e ∈ l.lanes, isHost e.2 = true) →
      ∃ s', exec (.completionTimeout (.load g)) s = .next s' ∧ felledBy s s' x.cmd.cid 4 [] x.cmd

/-- Ring `r` has taken one more entry: its bytes with the phase bit go to host memory at the producer index, which moves on, and the
phase turns over with the ring (R338). -/
def tookEntry (d d' : Dev) (r : Nat) (bs : Bytes) : Prop :=
  let x := d.dring r
  let bs' := withPhase r x.phase bs
  let p := (x.prod + 1) % 2 ^ d.drN r
  d'.toHost = d.toHost ++ hostRequests (d.ringFn r) d.mps bs'.length (d.drAddr r + drEntry r * x.prod) bs' ∧
    (d'.dring r).prod = p ∧ (d'.dring r).phase = (if p = 0 then !x.phase else x.phase) ∧ (d'.dring r).cons = x.cons

/-- A ring that is enabled, not halted and not full (R324, R339). -/
def hasRoom (d : Dev) (r : Nat) : Prop :=
  d.drEn r = true ∧ (d.dring r).err = false ∧ ((d.dring r).prod + 1) % 2 ^ d.drN r ≠ (d.dring r).cons

/-- R95, R329, R333, R338, R339, R371, R374: the receipt at the head of its ring is written where the ring has room, its command's tally
advances and its completion is queued; a completion written frees its command. -/
def ReceiptsThenCompletionsAreWritten : Prop :=
  (∀ (s : State) (p : Fin 16) (e : RingEnt) (rest : List RingEnt) (cid : Nat) (c : Cmd), let r := 256 + p.val
    (s.dev.dring r).wait = e :: rest → s.dev.commitStalled p.val = false →
    (¬hasRoom s.dev r → (∀ x ∈ s.dev.cmds, x.ph ≠ .waiting) → exec (.receiptWrite p) s = .next s) ∧
    (hasRoom s.dev r → e.cid = some cid → s.dev.cmd cid = some c → c.kind = .descriptor → c.op ≠ 0xA → c.behind = none →
      (∀ x ∈ s.dev.cmds, x.part < 16) →
      ∃ s' y, exec (.receiptWrite p) s = .next s' ∧ tookEntry s.dev s'.dev r e.bytes ∧ (s'.dev.dring r).wait = rest ∧
        (s'.dev.chain p.val).log = (fieldAt e.bytes 8 8, fieldAt e.bytes 16 8) :: (s.dev.chain p.val).log ∧
        (s'.dev.chain p.val).lastRcpt = e.bytes ∧ s'.dev.cmd cid = some y ∧ y.ph = .completion ∧ y.status = 0 ∧
        (⟨completionBytes s.clk c 0 0 0xFF, some cid, bitAt c.flags 2⟩ : RingEnt) ∈ (s'.dev.dring (16 * c.part + c.ring % 16)).wait ∧
        (∀ i < 4096, s'.dev.tallyOf c.part i =
          if (bitAt c.flags 1 = true ∨ c.op = 8) ∧ i = fieldAt c.desc 28 2 % 4096 then (s.dev.tallyOf c.part i + 1) % 2 ^ 64
          else s.dev.tallyOf c.part i) ∧
        s'.mem = s.mem ∧ s'.beat = s.beat ∧ s'.pending = s.pending)) ∧
  ∀ (s : State) (p k : Fin 16) (e : RingEnt) (rest : List RingEnt) (cid : Nat) (c : Cmd), let r := 16 * p.val + k.val
    (s.dev.dring r).wait = e :: rest → hasRoom s.dev r → e.cid = some cid → s.dev.cmd cid = some c →
    s.dev.unshown (16 * c.part + c.ring % 16) c.idx = false →
    ∃ s', exec (.completionWrite p k) s = .next s' ∧ tookEntry s.dev s'.dev r e.bytes ∧ s'.dev.cmd cid = none ∧
      s'.mem = s.mem ∧ s'.beat = s.beat ∧ s'.pending = s.pending

/-- R97 to R101: the seal being signed is signed; its record goes to the seal ring, the SEAL commands that waited for it complete, and the
oldest waiting seal starts with the recalls gathered (when a recall enters a seal is the
model's reading, log entry 69); a seal that has waited 100 ms is said to stall, once. -/
def SealsAreSignedThenWritten : Prop :=
  (∀ (s : State) (p : Fin 16) (t : Nat) (w : SealRec), (s.dev.chain p.val).signing = some w →
    exec (.sealSignDone p t) s = .next { s with dev := { s.dev with now := max s.dev.now t, chains := (s.dev.setChain p.val
      { s.dev.chain p.val with signing := none, signed := (s.dev.chain p.val).signed ++ [w] }).chains } }) ∧
  (∀ (s : State) (p : Fin 16) (w : SealRec) (rest : List SealRec), let r := 304 + p.val
    (s.dev.chain p.val).signed = w :: rest →
    (¬hasRoom s.dev r → exec (.sealRecordWrite p) s = .next s) ∧
    (hasRoom s.dev r → ∃ s', exec (.sealRecordWrite p) s = .next s' ∧
      tookEntry s.dev s'.dev r (s.dev.sealHead p.val w ++ be 96 (Config.sign (s.dev.sealHead p.val w)).toNat ++ zeros 32) ∧
      (s'.dev.chain p.val).signed = rest ∧
      (∀ cid ∈ w.cids, ∀ c, s.dev.cmd cid = some c → ∃ y, s'.dev.cmd cid = some y ∧ y.ph = .completion ∧ y.status = 0) ∧
      (∀ v vs, rest = [] → (s.dev.chain p.val).signing = none → (s.dev.chain p.val).waiting = v :: vs →
        (s'.dev.chain p.val).signing = some { v with recalls := (s.dev.chain p.val).recalls, recallN := (s.dev.chain p.val).recallN } ∧
          (s'.dev.chain p.val).waiting = vs ∧ (s'.dev.chain p.val).recalls = []) ∧
      s'.mem = s.mem ∧ s'.beat = s.beat ∧ s'.pending = s.pending)) ∧
  ∀ (s : State) (p : Fin 16) (t : Nat), let ch := s.dev.chain p.val
    ((∀ w ∈ ch.waiting, w.stalled = true ∨ t < w.tick + 160000000) → exec (.sealStallTimeout p t) s = .next { s with dev := { s.dev with now := max s.dev.now t } }) ∧
    ∀ w rest, ch.waiting = w :: rest → w.stalled = false → w.tick + 160000000 ≤ t → w ∉ rest → s.dev.reg 0x80038 ≠ 0xFFFFFFFF →
      ∃ s', exec (.sealStallTimeout p t) s = .next s' ∧ (s'.dev.chain p.val).waiting = { w with stalled := true } :: rest ∧
        s'.dev.reg 0x80038 = s.dev.reg 0x80038 + 1 ∧ s'.mem = s.mem ∧ s'.beat = s.beat ∧ s'.pending = s.pending ∧
        ((s.dev.evQ p.val).src = [] → (s.dev.evQ p.val).q.length < 64 →
          (s'.dev.evQ p.val).q = (s.dev.evQ p.val).q ++ [sealStallEvent s.clk p.val w])

/-- R338, R340, R342, R343: the oldest held event is written where its ring has room, after an events-lost event where events were dropped;
and an entry that has waited MOD_DLY notches unsignalled raises its ring's vector. -/
def EventsAndDelayedInterruptsGoOut : Prop :=
  (∀ (s : State) (ring : EvRing), let q := s.dev.evQ (evNo ring)
    let r := evRingNo (evNo ring)
    (¬hasRoom s.dev r → exec (.eventWrite ring) s = .next s) ∧
    (q.q = [] → q.lost = 0 → exec (.eventWrite ring) s = .next s) ∧
    (∀ e rest, q.q = e :: rest → q.lost = 0 → hasRoom s.dev r →
      ∃ s', exec (.eventWrite ring) s = .next s' ∧ tookEntry s.dev s'.dev r e ∧
        (s'.dev.evQ (evNo ring)).q ++ (s'.dev.evQ (evNo ring)).src = rest ++ q.src ∧
        ((s'.dev.evQ (evNo ring)).src = [] ∨ 64 ≤ (s'.dev.evQ (evNo ring)).q.length) ∧
        ({ s' with dev := { s'.dev with evq := s.dev.evq, dr := s.dev.dr, toHost := s.dev.toHost, msix := s.dev.msix } } : State) = s) ∧
    (q.q = [] → q.lost ≠ 0 → hasRoom s.dev r →
      ∃ s', exec (.eventWrite ring) s = .next s' ∧ tookEntry s.dev s'.dev r (eventsLost q) ∧ s'.dev.evQ (evNo ring) = { q with lost := 0 } ∧
        ({ s' with dev := { s'.dev with evq := s.dev.evq, dr := s.dev.dr, toHost := s.dev.toHost, msix := s.dev.msix } } : State) = s)) ∧
  ∀ (s : State) (ring : DevRing), let r := devRingNo ring
    let due := ∃ n, (s.dev.dring r).since = some n ∧ s.dev.drInt r = true ∧ s.dev.drModDly r ≠ 0 ∧ s.dev.drModDly r ≤ n
    (due → exec (.interruptDelayExpire ring) s = .next { s with dev := { s.dev with
      dr := (s.dev.setDring r { s.dev.dring r with unsig := 0, since := none }).dr,
      msix := s.dev.msix ++ [(s.dev.ringFn r, fld (s.dev.reg (drCfgOff r)) 16 11)] } }) ∧
    (¬due → exec (.interruptDelayExpire ring) s = .next s)

/-- Receipts, completions, seals, events and interrupts are written in their order where their rings have room: the statements of ReceiptsThenCompletionsAreWritten, SealsAreSignedThenWritten, EventsAndDelayedInterruptsGoOut together. -/
def Obligations.ReceiptsSealsAndEventsAreWrittenInOrder : Prop :=
  ReceiptsThenCompletionsAreWritten ∧ SealsAreSignedThenWritten ∧ EventsAndDelayedInterruptsGoOut

/-! ### The host port: wakes, record reads, rings, buffers (R309 to R329, R338 to R353, R373) -/

/-- R326, R327: a wake asks for a scan, one more while one runs; a scan reads the doorbells of every enabled ring of the function that has not
halted, and the release record of every one that is full. -/
def WakesAskForScansOfTheirFunction : Prop :=
  ∀ (s : State) (fn : Fin 17), let w := s.dev.wakeOf fn.val
    (s.dev.ready = true → (fn.val = 0 ∨ s.dev.partSt (fn.val - 1) ≠ 3) →
      ∃ s', exec (.wakeWrite fn) s = .next s' ∧
        s'.dev.wakeOf fn.val = (if w.scanning then { w with again := true } else { w with asked := true }) ∧
        (∀ n, n ≠ fn.val → s'.dev.wakeOf n = s.dev.wakeOf n) ∧ ({ s' with dev := { s'.dev with wakes := s.dev.wakes } } : State) = s) ∧
    (s.dev.ready = false → exec (.wakeWrite fn) s = .next s) ∧
    (w.asked = true → w.scanning = false → ∃ s', exec (.ringScan fn) s = .next s' ∧
      (∀ p ∈ s.dev.owned fn.val, s.dev.partSt p ≠ 3 → ∀ k < 16, s.dev.srEn (16 * p + k) = true → (s.dev.sring (16 * p + k)).err = false →
        s'.dev.sring (16 * p + k) = { s.dev.sring (16 * p + k) with reading := true }) ∧
      (∀ r ∈ s.dev.fnRings fn.val, s.dev.drFull r = true → s'.dev.dring r = { s.dev.dring r with reading := true }) ∧
      (s'.dev.fnReading fn.val = true → s'.dev.wakeOf fn.val = ⟨false, true, w.again⟩) ∧
      ({ s' with dev := { s'.dev with wakes := s.dev.wakes, sr := s.dev.sr, dr := s.dev.dr } } : State) = s) ∧
    ((w.asked = false ∨ w.scanning = true) → exec (.ringScan fn) s = .next s)

/-- A submission ring halts: nothing more is fetched from it (R323). -/
def srHalted (s s' : State) (r : Nat) : Prop :=
  s'.dev.sring r = { s.dev.sring r with reading := false, err := true, retry := false, torn := false } ∧ s'.dev.cmds = s.dev.cmds ∧
    s'.mem = s.mem ∧ s'.beat = s.beat ∧ s'.pending = s.pending

/-- R321, R323, R345: a doorbell record moves the producer index where its number is new and its index can be; a torn one is counted and read
again; an index that cannot be, or a second failed read, halts the ring. -/
def DoorbellReadsMoveOrHaltTheirRing : Prop :=
  ∀ (s : State) (p k : Fin 16) (ok : Bool) (rec : Bytes), let r := 16 * p.val + k.val
    let x := s.dev.sring r
    let n := 2 ^ s.dev.srN r
    let i := fieldAt rec 4 2
    let torn := fieldAt rec 0 4 ≠ fieldAt rec 12 4 ∨ zeroAt rec 6 6 = false
    let new := BitVec.ofNat 32 (fieldAt rec 0 4) ≠ x.lastSeq
    let fits := i < n ∧ (i + n - x.prod) % n ≤ n - 1 - (x.prod + n - x.cons) % n
    let kept (s' : State) : Prop := ({ s' with dev := { s'.dev with sr := s.dev.sr, wakes := s.dev.wakes, regs := s.dev.regs } } : State) = s
    (x.reading = false → exec (.doorbellReadDone p k ok rec) s = .next s) ∧
    (x.reading = true → ok = true → ¬torn → new → fits → ∃ s', exec (.doorbellReadDone p k ok rec) s = .next s' ∧
      (s'.dev.sring r).prod = i ∧ (s'.dev.sring r).lastSeq = BitVec.ofNat 32 (fieldAt rec 0 4) ∧ (s'.dev.sring r).reading = false ∧
      (s'.dev.sring r).torn = false ∧ (s'.dev.sring r).err = x.err ∧ (s'.dev.sring r).cons = x.cons ∧ s'.dev.cmds = s.dev.cmds ∧
      s'.mem = s.mem ∧ s'.beat = s.beat ∧ s'.pending = s.pending) ∧
    (x.reading = true → ok = true → ¬torn → new → ¬fits → ∃ s', exec (.doorbellReadDone p k ok rec) s = .next s' ∧ srHalted s s' r) ∧
    (x.reading = true → ok = true → ¬torn → ¬new → ∃ s', exec (.doorbellReadDone p k ok rec) s = .next s' ∧ kept s' ∧
      s'.dev.sring r = { x with reading := false, torn := false, retry := false }) ∧
    (x.reading = true → ok = true → torn → ∃ s', exec (.doorbellReadDone p k ok rec) s = .next s' ∧ kept s' ∧
      s'.dev.sring r = { x with reading := false, torn := true, retry := false } ∧
      (s.dev.reg (0x40F08 + 0x1000 * p.val) ≠ 0xFFFFFFFF → s'.dev.reg (0x40F08 + 0x1000 * p.val) = s.dev.reg (0x40F08 + 0x1000 * p.val) + 1)) ∧
    (x.reading = true → x.retry = false →
      (∃ s', exec (.doorbellReadDone p k false rec) s = .next s' ∧ kept s' ∧ s'.dev.sring r = { x with reading := false, retry := true }) ∧
      ∃ s', exec (.recordReadTimeout (.sub p k)) s = .next s' ∧ kept s' ∧ s'.dev.sring r = { x with reading := false, retry := true }) ∧
    (x.reading = true → x.retry = true →
      (∃ s', exec (.doorbellReadDone p k false rec) s = .next s' ∧ srHalted s s' r) ∧
      ∃ s', exec (.recordReadTimeout (.sub p k)) s = .next s' ∧ srHalted s s' r)

/-- R321, R324, R345: a release record moves the consumer index where its number is new and it passes no more entries than the ring holds; a torn
one is read again; one that cannot be, or a second failed read, halts the ring. -/
def ReleaseReadsMoveOrHaltTheirRing : Prop :=
  ∀ (s : State) (q : DevRing) (ok : Bool) (rec : Bytes), let r := devRingNo q
    let x := s.dev.dring r
    let n := 2 ^ s.dev.drN r
    let i := fieldAt rec 4 2
    let torn := fieldAt rec 0 4 ≠ fieldAt rec 12 4 ∨ zeroAt rec 6 6 = false
    let new := BitVec.ofNat 32 (fieldAt rec 0 4) ≠ x.lastSeq
    let fits := i < n ∧ (i + n - x.cons) % n ≤ (x.prod + n - x.cons) % n
    let kept (s' : State) : Prop := ({ s' with dev := { s'.dev with dr := s.dev.dr, wakes := s.dev.wakes, regs := s.dev.regs } } : State) = s
    let halted (s' : State) : Prop := s'.dev.dring r = { x with reading := false, err := true, retry := false, torn := false } ∧
      s'.dev.cmds = s.dev.cmds ∧ s'.mem = s.mem ∧ s'.beat = s.beat ∧ s'.pending = s.pending
    (x.reading = false → exec (.releaseReadDone q ok rec) s = .next s) ∧
    (x.reading = true → ok = true → ¬torn → new → fits → ∃ s', exec (.releaseReadDone q ok rec) s = .next s' ∧ kept s' ∧
      s'.dev.dring r = { x with reading := false, torn := false, retry := false, cons := i, lastSeq := BitVec.ofNat 32 (fieldAt rec 0 4) }) ∧
    (x.reading = true → ok = true → ¬torn → new → ¬fits → ∃ s', exec (.releaseReadDone q ok rec) s = .next s' ∧ halted s') ∧
    (x.reading = true → ok = true → torn → ∃ s', exec (.releaseReadDone q ok rec) s = .next s' ∧ kept s' ∧
      s'.dev.dring r = { x with reading := false, torn := true, retry := false }) ∧
    (x.reading = true → x.retry = false →
      ∃ s', exec (.recordReadTimeout (.dev q)) s = .next s' ∧ kept s' ∧ s'.dev.dring r = { x with reading := false, retry := true }) ∧
    (x.reading = true → x.retry = true → ∃ s', exec (.recordReadTimeout (.dev q)) s = .next s' ∧ halted s')

/-- Wakes ask for scans; doorbell and release records move their ring, or halt it where they cannot be: the statements of WakesAskForScansOfTheirFunction, DoorbellReadsMoveOrHaltTheirRing, ReleaseReadsMoveOrHaltTheirRing together. -/
def Obligations.RingRecordsMoveOrHaltTheirRings : Prop :=
  WakesAskForScansOfTheirFunction ∧ DoorbellReadsMoveOrHaltTheirRing ∧ ReleaseReadsMoveOrHaltTheirRing

/-- A path reaches a register, which responds, and no reset locks its page (R511, R535, R564). -/
def opens (d : Dev) (path : Path) (m : Nat) : Prop := reaches d path m = true ∧ d.responds path m = true ∧ d.pageLocked m = false

/-- The kinds of write that enable or disable a device-produced ring, seal rings apart. -/
def drRows : List (Path → DevRing → Word → Instr) :=
  [.drEnable, .drDisable,
   fun path q v => match q with
     | .seal p => .sealRingEnable path p v
     | _ => .drEnable path q v,
   fun path q v => match q with
     | .seal p => .sealRingDisable path p v
     | _ => .drDisable path q v]

/-- R98, R109, R322, R324, R350, R352: setting EN waits for the ring's record, whose index must be 0: then the ring starts empty with that record's
number; else the write is refused. Clearing EN takes at once, and is refused while the ring has work. -/
def Obligations.RingsEnableOnTheirRecord : Prop :=
  (∀ (s : State) (path : Path) (p k : Fin 16) (v : Word), let r := 16 * p.val + k.val
    let m := srOff r + 8
    opens s.dev path m → s.dev.slotPending p.val k.val = false → inLims (regRule m).lims v = true →
    (flag (s.dev.reg m) 8 = false → flag v 8 = true → hostRange (s.dev.reg64 (srOff r)) (64 * 2 ^ fld v 0 5) = true →
      hostRange (s.dev.reg64 (srOff r + 0x10)) 16 = true → hostRange (s.dev.reg64 (srOff r + 0x18)) 16 = true →
      (flag (s.dev.commBind r) 0 = false ∨ fld v 12 4 ≠ 2 ∨ 4 ≤ s.dev.allocFree (r / 16)) →
      exec (.sqEnable path p k v) s = .next { s with dev := s.dev.setSring r { s.dev.sring r with enPend := some (pathCode path, m, v) } }) ∧
    (flag (s.dev.reg m) 8 = true → flag v 8 = false → fld (s.dev.reg m) 0 5 = fld v 0 5 → fld (s.dev.reg m) 12 4 = fld v 12 4 →
      (s.dev.ringBusy r = false → ∃ s', exec (.sqDisable path p k v) s = .next s' ∧ s'.dev.reg m = v &&& BitVec.ofNat 32 (regRule m).mask ∧
        s'.dev.sring r = { s.dev.sring r with reading := false, torn := false, retry := false, overload := false } ∧
        ({ s' with dev := { s'.dev with regs := s.dev.regs, sr := s.dev.sr, allocs := s.dev.allocs, net := s.dev.net } } : State) = s) ∧
      (s.dev.ringBusy r = true → exec (.sqDisable path p k v) s = .next (s.onDev (fun d => d.refuse path m 2))))) ∧
  (∀ (s : State) (p k : Fin 16) (rec : Bytes) (pc m : Nat) (v : Word), let r := 16 * p.val + k.val
    let short := (s.dev.setReg m (v &&& BitVec.ofNat 32 (regRule m).mask)).isComm r = true ∧ s.dev.allocFree (r / 16) < 4
    (s.dev.sring r).enPend = some (pc, m, v) →
    (recTorn rec = false → recIdx rec = 0 → ¬short → ∃ s', exec (.ringEnableReadDone (.sub p k) true rec) s = .next s' ∧
      s'.dev.reg m = v &&& BitVec.ofNat 32 (regRule m).mask ∧ s'.dev.sring r = { srReset r with lastSeq := recSeq rec } ∧
      ({ s' with dev := { s'.dev with regs := s.dev.regs, sr := s.dev.sr, allocs := s.dev.allocs } } : State) = s) ∧
    ((recTorn rec = true ∨ recIdx rec ≠ 0 ∨ short) → exec (.ringEnableReadDone (.sub p k) true rec) s =
      .next (s.onDev (fun d => (d.setSring r { d.sring r with enPend := none }).refuse (pathOf pc) m 2))) ∧
    exec (.ringEnableReadTimeout (.sub p k)) s =
      .next (s.onDev (fun d => (d.setSring r { d.sring r with enPend := none }).refuse (pathOf pc) m 2))) ∧
  (∀ o ∈ drRows, ∀ (s : State) (path : Path) (q : DevRing) (v : Word), let r := devRingNo q
    let m := drCfgOff r
    let bit := if isSealRing r then 0 else 8
    opens s.dev path m → s.dev.drPending r = false → inLims (regRule m).lims v = true → fld v 16 11 < vectors (s.dev.ringFn r) →
    (flag (s.dev.reg m) bit = false → flag v bit = true →
      hostRange (s.dev.drAddr r) (drEntry r * 2 ^ (if isSealRing r then s.dev.drN r else fld v 0 5)) = true → hostRange (s.dev.drRel r) 16 = true →
      exec (o path q v) s = .next { s with dev := s.dev.setDring r { s.dev.dring r with enPend := some (pathCode path, m, v) } }) ∧
    (flag (s.dev.reg m) bit = true → flag v bit = false → (isSealRing r = true ∨ fld (s.dev.reg m) 0 5 = fld v 0 5) →
      ((s.dev.drWaiting r = false ∨ (s.dev.dring r).err = true) → ∃ s', exec (o path q v) s = .next s' ∧
        s'.dev.reg m = v &&& BitVec.ofNat 32 (regRule m).mask ∧
        s'.dev.dring r = { s.dev.dring r with reading := false, torn := false, retry := false } ∧
        ({ s' with dev := { s'.dev with regs := s.dev.regs, dr := s.dev.dr } } : State) = s) ∧
      (s.dev.drWaiting r = true → (s.dev.dring r).err = false → exec (o path q v) s = .next (s.onDev (fun d => d.refuse path m 2))))) ∧
  ∀ (s : State) (q : DevRing) (rec : Bytes) (pc m : Nat) (v : Word), let r := devRingNo q
    (s.dev.dring r).enPend = some (pc, m, v) →
    (recTorn rec = false → recIdx rec = 0 → ∃ s', exec (.ringEnableReadDone (.dev q) true rec) s = .next s' ∧
      s'.dev.reg m = v &&& BitVec.ofNat 32 (regRule m).mask ∧
      s'.dev.dring r = { drReset r with lastSeq := recSeq rec, wait := (s.dev.dring r).wait } ∧
      ({ s' with dev := { s'.dev with regs := s.dev.regs, dr := s.dev.dr } } : State) = s) ∧
    exec (.ringEnableReadTimeout (.dev q)) s =
      .next (s.onDev (fun d => (d.setDring r { d.dring r with enPend := none }).refuse (pathOf pc) m 2))

/-- R346 to R349, R353, R373: a staged entry that passes the checks stands in the buffer table, an invalidated one no longer does, one read stands in
staging, and a refused command leaves the table as it was; TALLY_HI writes the whole tally. -/
def BufferTableAndTallyWritesTakeEffect : Prop :=
  ∀ (s : State) (path : Path) (p : Fin 16), let m := bufOff p.val + 4
    let h := s.dev.bufSel path p.val
    let res := pathKey path (bufOff p.val + 8)
    let kept (s' : State) : Prop := ({ s' with dev := { s'.dev with regs := s.dev.regs, bufs := s.dev.bufs } } : State) = s
    (opens s.dev path m →
      (s.dev.bufCheck path p.val h (s.dev.bufStage path p.val) = 0 →
        ∃ s', exec (.bufWrite path p) s = .next s' ∧ kept s' ∧ s'.dev.buf p.val h = bufOfBytes (s.dev.bufStage path p.val) ∧ s'.dev.reg res = 0 ∧
          ∀ q g, 4096 * q + g ≠ 4096 * p.val + h → s'.dev.buf q g = s.dev.buf q g) ∧
      (∀ c, s.dev.bufCheck path p.val h (s.dev.bufStage path p.val) = c → c ≠ 0 →
        exec (.bufWrite path p) s = .next (s.onDev (fun d => (d.setRegN res c).refuse path m (bufCause c)))) ∧
      (s.dev.handleBusy p.val h = false →
        ∃ s', exec (.bufInvalidate path p) s = .next s' ∧ kept s' ∧ s'.dev.buf p.val h = { s.dev.buf p.val h with valid := false } ∧
          s'.dev.reg res = 0 ∧ ∀ q g, 4096 * q + g ≠ 4096 * p.val + h → s'.dev.buf q g = s.dev.buf q g) ∧
      (s.dev.handleBusy p.val h = true →
        exec (.bufInvalidate path p) s = .next (s.onDev (fun d => (d.setRegN res 1).refuse path m 2))) ∧
      ∃ s', exec (.bufRead path p) s = .next s' ∧ kept s' ∧ s'.dev.bufs = s.dev.bufs ∧ s'.dev.bufStage path p.val = bufToBytes (s.dev.buf p.val h)) ∧
    ∀ v : Word, opens s.dev path (ptn p.val + 0x108) →
      (s.dev.live p.val = true → exec (.tallyHiWrite path p v) s = .next (s.onDev (fun d => d.refuse path (ptn p.val + 0x108) 2))) ∧
      (s.dev.live p.val = false → ∃ s', exec (.tallyHiWrite path p v) s = .next s' ∧
        ({ s' with dev := { s'.dev with tally := s.dev.tally } } : State) = s ∧
        ∀ i < 4096, s'.dev.tallyOf p.val i =
          if i = fld (s.dev.reg (ptn p.val + 0x100)) 0 12 then s.dev.regN (pathKey path (ptn p.val + 0x104)) + v.toNat * 2 ^ 32
          else s.dev.tallyOf p.val i)

/-- R310, R313, R316, R326, R344: NumVFs changes only while no ring is live; an unsupported or misaligned access returns nothing or is told of; and the
link's changes and uncorrectable errors are told of. -/
def HostLinkAccessesAndChangesAreTold : Prop :=
  (∀ (s : State) (v : Nat), ((∃ p < 16, s.dev.live p = true) → exec (.numvfsWrite v) s = .next s) ∧
    ((∀ p < 16, s.dev.live p = false) → exec (.numvfsWrite v) s = .next { s with dev := { s.dev with vfs := decide (v = 16) } })) ∧
  (∀ s : State, exec .unsupportedRequest s = .next { s with dev := { s.dev with resp := [] } }) ∧
  (∀ (s : State) (path : Path) (off : Nat) (isRead : Bool),
    (∀ fn, wakePage path off = some fn → exec (.barAccessMisaligned path off true) s = .next { s with dev := { s.dev with resp := [0] } }) ∧
    (∀ fn, wakePage path off = some fn → ∀ h : fn < 17,
      exec (.barAccessMisaligned path off false) s = exec (.wakeWrite ⟨fn, h⟩) s) ∧
    (wakePage path off = none → msixArea path off = true → exec (.barAccessMisaligned path off isRead) s = .next s) ∧
    (wakePage path off = none → msixArea path off = false →
      exec (.barAccessMisaligned path off true) s = .next { s with dev := { s.dev with resp := [] } } ∧
      ∃ s', exec (.barAccessMisaligned path off false) s = .next s' ∧
        gotEvent s.dev s'.dev 16 (event s.clk 0x11 0 2 s.dev.hostRate (s.dev.hostWidth % 2 ^ 16) (off % 2 ^ 32 * 2 ^ 32)))) ∧
  ∀ (s : State), (∀ rate width, ∃ s', exec (.hostLinkRateChange rate width) s = .next s' ∧ s'.dev.hostRate = rate.toNat ∧
      s'.dev.hostWidth = width.toNat ∧ gotEvent s.dev s'.dev 16 (event s.clk 0x11 0 0 rate.toNat width.toNat 0)) ∧
    ∀ st, ∃ s', exec (.aerUncorrectableLogged st) s = .next s' ∧
      gotEvent s.dev s'.dev 16 (event s.clk 0x11 0 1 s.dev.hostRate (s.dev.hostWidth % 2 ^ 16) st.toNat)

/-! ### Registers (R6 to R12, R569, R572 to R576) -/

/-- Registers that only the register tables govern: mechanism controls, thresholds, periods. -/
def plainRegs : List Nat := [0x80000, 0x80004, 0x160000, 0x160100, 0x160104]

/-- Statistics counters of the checks, the beat unit, the fabric and coherence. -/
def statRegs : List Nat := [0x10038, 0x80020, 0x80024, 0x80028, 0x8002C, 0x80030, 0x80038, 0xC0054, 0xC0058, 0x160004, 0x160108]

/-- R6, R7, R9, R12, R569, R572, R573, R576: a register takes a value within its ranges and refuses another, with its offset and cause captured; a
counter is cleared by 0 alone; a counter of two words is read as of one moment; a read clears the captured refusal; and a window is written where it
lies in one range. -/
def RegisterWritesAndReadsFollowTheirTables : Prop :=
  (∀ m ∈ plainRegs, ∀ (s : State) (v : Word), s.dev.ready = true →
    (inLims (regRule m).lims v = true → regNext (exec (.registerWrite .pf m v) s) s (s.dev.withReg m (v &&& BitVec.ofNat 32 (regRule m).mask))) ∧
    (inLims (regRule m).lims v = false → ∃ s', exec (.registerWrite .pf m v) s = .next s' ∧ s'.sansRegs = s.sansRegs ∧
      s'.dev.reg m = s.dev.reg m ∧ s'.dev.reg 0x20 = BitVec.ofNat 32 (m + 2 ^ 24 + 2 ^ 31))) ∧
  (∀ m ∈ statRegs, ∀ (s : State) (v : Word), s.dev.ready = true →
    (v = 0 → regNext (exec (.statCounterClear .pf m v) s) s (s.dev.withReg m 0)) ∧
    (v ≠ 0 → exec (.statCounterClear .pf m v) s = .next s)) ∧
  (∀ (s : State) (path : Path) (off m v : Nat), mgmtOff s.dev path off = some m → reaches s.dev path m = true → s.dev.responds path m = true →
    s.wide m = some v →
    ∃ s', exec (.counterLowRead path off) s = .next s' ∧ s'.dev.resp = [BitVec.ofNat 32 v] ∧
      s'.dev.shadowOf path (shadowPlace (m + 4)) = BitVec.ofNat 32 (v / 2 ^ 32) ∧
      (m = 0x10010 → s'.dev.shadowOf path 0x10018 = BitVec.ofNat 32 s.beat.notch) ∧
      ({ s' with dev := { s'.dev with resp := s.dev.resp, shadow := s.dev.shadow } } : State) = s) ∧
  (∀ s : State, ∃ s', exec (.werrRead .pf 0x20) s = .next s' ∧ s'.dev.resp = [s.dev.reg 0x20] ∧ s'.dev.reg 0x20 = 0 ∧
    (∀ off, off ≠ 0x20 → s'.dev.reg off = s.dev.reg off) ∧
    ({ s' with dev := { s'.dev with resp := s.dev.resp, regs := s.dev.regs } } : State) = s) ∧
  ∀ (s : State) (p : Fin 16) (w : Fin 4) (v : Word), let m := 0x20040 + 0x1000 * p.val + 4 * w.val
    let x := (s.dev.setReg m v).window p.val
    opens s.dev .pf m →
    ((w.val % 2 = 0 → fld v 0 12 = 0) → (x.2 = 0 ∨ s.dev.inOneRange x.1 x.2 = true) → inLims (regRule m).lims v = true →
      regNext (exec (.vfDwinWrite .pf p w v) s) s (s.dev.withReg m (v &&& BitVec.ofNat 32 (regRule m).mask))) ∧
    (((w.val % 2 = 0 ∧ fld v 0 12 ≠ 0) ∨ (x.2 ≠ 0 ∧ s.dev.inOneRange x.1 x.2 = false)) →
      ∃ s', exec (.vfDwinWrite .pf p w v) s = .next s' ∧ s'.sansRegs = s.sansRegs ∧ s'.dev.reg m = s.dev.reg m)

/-- Register, buffer-table and tally accesses follow their tables; host link errors and changes are told: the statements of BufferTableAndTallyWritesTakeEffect, HostLinkAccessesAndChangesAreTold, RegisterWritesAndReadsFollowTheirTables together. -/
def Obligations.HostAccessesToRegistersBuffersAndLinks : Prop :=
  BufferTableAndTallyWritesTakeEffect ∧ HostLinkAccessesAndChangesAreTold ∧ RegisterWritesAndReadsFollowTheirTables

/-! ### Coherence, streams and placement (R244 to R270, R273, R274, R293) -/

/-- A line whose directory entry is `e`, with no transaction open, no poison, and no silent holder; what is not shared has no sharers. -/
def settledLine (s : State) (addr : Nat) (e : DirEnt) : Prop :=
  (s.dev.place addr).isSome = true ∧ s.dev.dirEnt (addr / 128) = e ∧ e.txn = none ∧ addr / 128 ∉ s.dev.poison ∧ e.st ≠ .p ∧
    (∀ p ∈ e.owner :: e.sharers, s.dev.silent p = false) ∧ (e.st = .s ↔ e.sharers ≠ [])

/-- The outcome is a next state in which one line has this directory entry and these L2 states, and nothing else has changed but activity
counts. -/
def lineNext (o : Host.Outcome State Fault Refusal) (s : State) (line : Nat) (e : DirEnt) (l2 : Nat → L2St) : Prop :=
  ∃ s', o = .next s' ∧ s'.dev.dirEnt line = e ∧ (∀ l, l ≠ line → s'.dev.dirEnt l = s.dev.dirEnt l) ∧
    (∀ p < 16, s'.dev.l2St p line = l2 p) ∧ (∀ p < 16, ∀ l, l ≠ line → s'.dev.l2St p l = s.dev.l2St p l) ∧
    ({ s' with dev := { s'.dev with dir := s.dev.dir, l2 := s.dev.l2, kiln := s.dev.kiln } } : State) = s

/-- R250 to R252: what a read or an upgrade does at the home of a settled line: it is granted, or snoops whoever holds the line; an eviction or a
write-back of a holder leaves the directory without it. -/
def HomeRequestsMoveTheDirectory : Prop :=
  ∀ (s : State) (addr : Nat) (p : Fin 16) (e : DirEnt), settledLine s addr e →
    let line := addr / 128
    let l2 (q : Nat) : L2St := s.dev.l2St q line
    let open_ (r : HomeReq) (ps : List Nat) : DirEnt := { e with txn := some ⟨r, ps, []⟩ }
    (s.dev.sliceEvict line = s.dev →
      (e.st = .i → lineNext (exec (.rds addr p []) s) s line { e with st := .e, owner := p.val } (fun q => if q = p.val then .e else l2 q)) ∧
      (e.st = .s → lineNext (exec (.rds addr p []) s) s line
        { e with sharers := if p.val ∈ e.sharers then e.sharers else e.sharers ++ [p.val] } (fun q => if q = p.val then .s else l2 q)) ∧
      (e.st = .e → e.owner = p.val → lineNext (exec (.rds addr p []) s) s line e l2) ∧
      (e.st = .e → e.owner ≠ p.val → lineNext (exec (.rds addr p []) s) s line (open_ (.rds p.val) [e.owner]) l2)) ∧
    (∀ up : Bool, (up = false → s.dev.sliceEvict line = s.dev) → s.dev.stores = [] →
      let i := if up then Instr.upg addr p [] else .rdu addr p []
      let r := if up then HomeReq.upg p.val else .rdu p.val
      let held := if e.st = .s then e.sharers.filter (fun q => q ≠ p.val) else if e.st = .e ∧ e.owner ≠ p.val then [e.owner] else []
      (held = [] → lineNext (exec i s) s line { e with st := .e, sharers := [], owner := p.val }
        (fun q => if q = p.val then (if l2 q = .m then .m else .e) else l2 q)) ∧
      (held ≠ [] → lineNext (exec i s) s line (open_ r held) l2)) ∧
    (∀ who, (e.st ≠ .e → ∃ s', exec (.pkr addr who []) s = .next s' ∧ s'.dev.resp = lineWords s.mem line ∧
        s'.dev.dirEnt line = e ∧ s'.mem = s.mem ∧ s'.dev.l2 = s.dev.l2) ∧
      (e.st = .e → lineNext (exec (.pkr addr who []) s) s line (open_ (.pkr who) [e.owner]) l2)) ∧
    (l2 p.val ≠ .m →
      (e.st = .s → lineNext (exec (.evc addr p) s) s line
        { e with sharers := e.sharers.filter (fun q => q ≠ p.val), st := if e.sharers.filter (fun q => q ≠ p.val) = [] then .i else .s }
        (fun q => if q = p.val then .i else l2 q)) ∧
      (e.st = .e → e.owner = p.val → lineNext (exec (.evc addr p) s) s line { e with st := .i } (fun q => if q = p.val then .i else l2 q))) ∧
    (e.st = .e → e.owner = p.val → l2 p.val = .m →
      lineNext (exec (.wb addr p) s) s line { e with st := .i } (fun q => if q = p.val then .i else l2 q)) ∧
    (¬(e.st = .e ∧ e.owner = p.val ∧ l2 p.val = .m) → lineNext (exec (.wb addr p) s) s line e l2)

/-- A request of any kind at its home. -/
def homeRows (addr : Nat) (p : Fin 16) (who : Agent) : List (Instr × HomeReq) :=
  [(.rds addr p [], .rds p.val), (.rdu addr p [], .rdu p.val), (.upg addr p [], .upg p.val), (.pkr addr who [], .pkr who)]

/-- R252, R253, R293: a request behind an open transaction waits in arrival order; a snooped L2 gives up or shares its line, and the last reply serves
the request; an invalidating write changes the bytes of its mask alone, and none of a sealed line; an atomic returns the old value and stores the new, once nothing that its group issued before holds it back (the model's reading, log entry 73). -/
def WritesAtomicsAndSnoopsAtTheHome : Prop :=
  (∀ (s : State) (addr : Nat) (p : Fin 16) (who : Agent) (t : Txn), (s.dev.place addr).isSome = true → (s.dev.dirEnt (addr / 128)).txn = some t →
    s.dev.sliceEvict (addr / 128) = s.dev →
    (∀ o ∈ homeRows addr p who, lineNext (exec o.1 s) s (addr / 128)
      { s.dev.dirEnt (addr / 128) with queue := (s.dev.dirEnt (addr / 128)).queue ++ [o.2] } (fun q => s.dev.l2St q (addr / 128))) ∧
    (p.val ∈ t.wait → s.dev.silent p.val = false → lineNext (exec (.snoop addr p) s) s (addr / 128)
      { s.dev.dirEnt (addr / 128) with txn := some { t with wait := t.wait.filter (fun q => q ≠ p.val), answered := t.answered ++ [p.val] } }
      (fun q => if q = p.val then (match t.req with
          | .rds _ => if s.dev.l2St q (addr / 128) = .i ∨ s.dev.l2St q (addr / 128) = .p then s.dev.l2St q (addr / 128) else .s
          | .pkr _ => s.dev.l2St q (addr / 128)
          | _ => .i)
        else s.dev.l2St q (addr / 128))) ∧
    (p.val ∈ t.answered → (t.wait ≠ [] ∨ ∃ q ∈ t.answered, q ≠ p.val) →
      lineNext (exec (.snoopReply addr p) s) s (addr / 128)
        { s.dev.dirEnt (addr / 128) with txn := some { t with answered := t.answered.filter (fun q => q ≠ p.val) } }
        (fun q => s.dev.l2St q (addr / 128))) ∧
    (∀ q o, t = ⟨.rds q, [], [p.val]⟩ → q < 16 → o < 16 → (s.dev.dirEnt (addr / 128)).st = .e → (s.dev.dirEnt (addr / 128)).owner = o → o ≠ q →
      (s.dev.dirEnt (addr / 128)).queue = [] → addr / 128 ∉ s.dev.poison →
      lineNext (exec (.snoopReply addr p) s) s (addr / 128) { s.dev.dirEnt (addr / 128) with st := .s, sharers := [o, q], txn := none }
        (fun k => if k = o ∨ k = q then .s else s.dev.l2St k (addr / 128)))) ∧
  (∀ (s : State) (addr : Nat) (who : Agent) (mask : BitVec 128) (data : Bytes), (s.dev.place addr).isSome = true →
    (∀ r, s.dev.sealedLine addr = some r → ∃ s', exec (.invw addr who mask data []) s = .next s' ∧ s'.mem = s.mem ∧
      s'.dev.dir = s.dev.dir ∧ s'.dev.l2 = s.dev.l2 ∧ s'.beat = s.beat ∧ s'.pending = s.pending) ∧
    (s.dev.sealedLine addr = none → (s.dev.dirEnt (addr / 128)).st = .i → (s.dev.dirEnt (addr / 128)).txn = none → data.length = 128 →
      ∃ s', exec (.invw addr who mask data []) s = .next s' ∧ s'.beat = s.beat ∧ s'.pending = s.pending ∧
        ∀ a, readByte s'.mem a = if a / 128 = addr / 128 ∧ mask.getLsbD (a % 128) = true then data.getD (a % 128) 0 else readByte s.mem a)) ∧
  ∀ (s : State) (g : At) (lane : Fin 32) (aop size a : Nat) (x : AtomLane) (e : DirEnt), let no := 36 * g.part.val + g.tile.val
    settledLine s a e → e.st = .i → e.queue = [] → s.dev.sealedLine a = none → s.dev.atomOf no g.slot.val lane.val = some (aop, size, x, a) →
    let old := leNat (readMem s.mem a size)
    (s.dev.atomHeld no g.slot.val lane.val (a / 128) = true → ∀ errs, exec (.atm a g lane errs) s = .next s) ∧
    (s.dev.atomHeld no g.slot.val lane.val (a / 128) = false → s.dev.stores = [] →
      ∀ (gs gs' : List Grp) (y : Grp) (ls ls' : List Load) (l : Load), (s.dev.core no).groups = gs ++ y :: gs' → y.slot = g.slot.val →
        (∀ z ∈ gs ++ gs', z.slot ≠ y.slot) → y.loads = ls ++ l :: ls' → l.lacks lane.val = true → (∀ z ∈ ls, z.lacks lane.val = false) →
        (∀ z ∈ l.atoms, z.lane < lane.val → z.old = none → ∀ e ∈ l.lanes, e.1 = z.lane → e.2 ≠ a) →
      ∃ s', exec (.atm a g lane []) s = .next s' ∧ s'.beat = s.beat ∧ s'.pending = s.pending ∧
        (∀ b, readByte s'.mem b = withBytes (readByte s.mem) a (le size (atomResult aop (8 * size) old x.arg x.swap)) b) ∧
        (s'.dev.core no).groups = gs ++ { y with loads := ls ++
          { l with atoms := l.atoms.map (fun z => if z.lane = lane.val then { z with old := some old } else z) } :: ls' } :: gs')

/-- Requests, writes, atomics and snoops move the directory and memory at their home as the coherence table has it: the statements of HomeRequestsMoveTheDirectory, WritesAtomicsAndSnoopsAtTheHome together. -/
def Obligations.TheHomeServesRequestsWritesAndSnoops : Prop :=
  HomeRequestsMoveTheDirectory ∧ WritesAtomicsAndSnoopsAtTheHome

/-- R265 to R270: a write of a stream lands its bytes and counts; a flagged final write is performed at once where its count has landed, is held where it
has not, and waits at a full port; one held for 1 ms fells its command, to run again while it may. -/
def FinalWritesWaitForTheirStream : Prop :=
  (∀ (s : State) (port : HoldPort) (stream addr : Nat) (mask : BitVec 128) (data : Bytes), s.dev.finals = [] → s.dev.finalsQ = [] → data.length = 128 →
    (∀ p l, port ≠ .core p l) → (s.dev.place addr).isSome = true → (s.dev.dirEnt (addr / 128)).txn = none →
    (∀ a, s.dev.sealedLine a = none) →
    ∃ s', exec (.writeLand port stream addr mask data) s = .next s' ∧ s'.dev.landed port stream = s.dev.landed port stream + 1 ∧
      (∀ q n, (q, n) ≠ (port, stream) → s'.dev.landed q n = s.dev.landed q n) ∧ s'.dev.cmds = s.dev.cmds ∧ s'.beat = s.beat ∧ s'.pending = s.pending ∧
      ∀ a, readByte s'.mem a = if a / 128 = addr / 128 ∧ mask.getLsbD (a % 128) = true then data.getD (a % 128) 0 else readByte s.mem a) ∧
  (∀ (s : State) (p : Fin 16) (l : Fin 36) (stream addr : Nat) (mask : BitVec 128) (data : Bytes), s.dev.finals = [] → s.dev.finalsQ = [] →
    ∃ s', exec (.writeLand (.core p l) stream addr mask data) s = .next s' ∧ s'.mem = s.mem ∧
      s'.dev.landed (.core p l) stream = s.dev.landed (.core p l) stream + 1) ∧
  (∀ (s : State) (port : HoldPort) (stream cid : Nat) (count : Word) (addr : Nat) (mask : BitVec 128) (data : Bytes) (t : Nat), (∀ p l, port ≠ .core p l) →
    (s.dev.place addr).isSome = true → s.dev.finalsQ = [] → (∀ x ∈ s.dev.finals, s.dev.landed x.port x.stream < x.count) → count ≠ 0xFFFFFFFF →
    let x : Final := ⟨port, stream, cid, count.toNat, addr / 128 * 128, mask.toNat, data, t⟩
    let room := (s.dev.finals.filter (fun y => y.port = port)).length < 64
    (s.dev.landed port stream < count.toNat → room → exec (.finalWriteArrive port stream cid count addr mask data t) s =
      .next { s with dev := { s.dev with now := max s.dev.now t, finals := s.dev.finals ++ [x] } }) ∧
    (¬room → exec (.finalWriteArrive port stream cid count addr mask data t) s =
      .next { s with dev := { s.dev with now := max s.dev.now t, finalsQ := [x] } }) ∧
    (count.toNat ≤ s.dev.landed port stream → room → (∀ y ∈ s.dev.finals, (y.port, y.stream) ≠ (port, stream)) → data.length = 128 →
      (∀ a, s.dev.sealedLine a = none) → (s.dev.dirEnt (addr / 128)).txn = none →
      ∃ s', exec (.finalWriteArrive port stream cid count addr mask data t) s = .next s' ∧ s'.dev.finals = s.dev.finals ∧
        s'.dev.landed port stream = 0 ∧
        ∀ a, readByte s'.mem a = if a / 128 = addr / 128 ∧ mask.getLsbD (a % 128) = true then data.getD (a % 128) 0 else readByte s.mem a)) ∧
  ∀ (s : State) (port : HoldPort) (stream : Nat) (x : Final) (c : Cmd), s.dev.finals.find? (fun y => decide (y.port = port) && y.stream == stream) = some x →
    s.dev.finalsQ = [] → s.dev.cmd x.cid = some c → c.ph.fellable = true →
    ∃ s' y, exec (.orderingTimeout port stream) s = .next s' ∧ x ∉ s'.dev.finals ∧ s'.mem = s.mem ∧ s'.beat = s.beat ∧ s'.pending = s.pending ∧
      s'.dev.cmd x.cid = some y ∧ y.ph = .felling ∧ y.excl = c.excl ∧
      (c.retries < fld (s.dev.reg 0x80000) 0 3 → y.fellEnd = .requeue ∧ y.retries = c.retries + 1) ∧
      (fld (s.dev.reg 0x80000) 0 3 ≤ c.retries → y.fellEnd = .complete 8 0) ∧
      (s.dev.reg 0xC0058 ≠ 0xFFFFFFFF → s'.dev.reg 0xC0058 = s.dev.reg 0xC0058 + 1)

/-- R244, R273, R274, R276: NEAR_GIB is locked while anything names device memory, takes 0 to 48 only, and moves every byte to the place its address
names under the new value, with no line cached. -/
def NearMemoryMovesWithItsAddresses : Prop :=
  ∀ (s : State) (path : Path) (v : Word), opens s.dev path 0xC0000 →
    let n := fld v 0 6
    (s.dev.nearLocked = true → exec (.nearGibWrite path v) s = .next (s.onDev (fun d => d.refuse path 0xC0000 2))) ∧
    (s.dev.nearLocked = false → 48 < n → exec (.nearGibWrite path v) s = .next (s.onDev (fun d => d.refuse path 0xC0000 1))) ∧
    (s.dev.nearLocked = false → n ≤ 48 → n ≠ s.dev.nearGib →
      ∃ s', exec (.nearGibWrite path v) s = .next s' ∧ s'.dev.nearGib = n ∧ s'.dev.dir = [] ∧ s'.dev.l2 = [] ∧
        s'.mem = s.mem.foldl (fun m e => writeByte m (match s.dev.place e.1 with
          | some w => addrAt n w.1 w.2
          | none => e.1) e.2) [] ∧
        s'.dev.poison = s.dev.poison.map (fun l => (match s.dev.place (128 * l) with
          | some w => addrAt n w.1 w.2
          | none => 128 * l) / 128) ∧
        (∀ off, off ≠ 0xC0000 → s'.dev.reg off = s.dev.reg off) ∧ s'.beat = s.beat ∧ s'.pending = s.pending) ∧
    (s.dev.nearLocked = false → n = s.dev.nearGib → n ≤ 48 → ∃ s', exec (.nearGibWrite path v) s = .next s' ∧ s'.mem = s.mem ∧ s'.dev.nearGib = n)

/-- Final writes wait for their stream or time out; NEAR_GIB moves addresses with what they hold: the statements of FinalWritesWaitForTheirStream, NearMemoryMovesWithItsAddresses together. -/
def Obligations.FinalWritesAndNearMemory : Prop :=
  FinalWritesWaitForTheirStream ∧ NearMemoryMovesWithItsAddresses

/-! ### Stacked memory and sealed regions (R278 to R304) -/

/-- The activity counts put aside, and with them the slot counts and the narrow accesses of the channels. -/
def sansSlots (s : State) : State := { s with dev := { s.dev with slots := [], narrow := [], kiln := { s.dev.kiln with cnt := [] } } }

/-- R278 to R285: a bulk slot or a narrow access of a clean row changes no data and no register; a narrow access beyond 1,638 in 1,024 slot times
is served at the slot time it waits for (the model's reading, log entry 72), and an access to a row being copied waits; a copied row is redirected to the next spare of its bank, and told of. -/
def MemoryAccessesCountAndRowsRemap : Prop :=
  (∀ (s : State) (die : Fin 4) (gr : Nat) (write : Bool) (p : Option (Fin 16)), let ch := 32 * die.val + channelOf gr
    (granRow die.val gr ∈ s.dev.rowBusy → ∀ errs, exec (.bulkSlotIssue die gr write errs p) s = .next s) ∧
    (granRow die.val gr ∉ s.dev.rowBusy → ∃ s', exec (.bulkSlotIssue die gr write [] p) s = .next s' ∧ sansSlots s' = sansSlots s ∧
      s'.dev.narrow = s.dev.narrow ∧ ∀ c, Sparse.get (fun _ => 0) s'.dev.slots c = Sparse.get (fun _ => 0) s.dev.slots c + if c = ch then 1 else 0)) ∧
  (∀ (s : State) (die : Fin 4) (cw : Nat) (write : Bool) (p : Option (Fin 16)), let ch := 32 * die.val + channelOf (cw / 16)
    let now := Sparse.get (fun _ => 0) s.dev.slots ch
    let uses := Sparse.get (fun _ => []) s.dev.narrow ch
    (granRow die.val (cw / 16) ∈ s.dev.rowBusy → ∀ errs, exec (.narrowAccess die cw write errs p) s = .next s) ∧
    (granRow die.val (cw / 16) ∉ s.dev.rowBusy → ∀ t, (uses.length < 1638 → t = now) → (∀ x, uses[1637]? = some x → t = max now (x + 1024)) →
      ∃ s', exec (.narrowAccess die cw write [] p) s = .next s' ∧ sansSlots s' = sansSlots s ∧
        (∀ c, Sparse.get (fun _ => 0) s'.dev.slots c = if c = ch then t else Sparse.get (fun _ => 0) s.dev.slots c) ∧
        Sparse.get (fun _ => []) s'.dev.narrow ch = (t :: uses).take 1638)) ∧
  ∀ (s : State) (die : Fin 4) (ch bank : Fin 32) (row : Nat), let key := rowKey die.val ch.val bank.val row
    (key ∉ s.dev.rowBusy → exec (.rowRemapDone die ch bank row) s = .next s) ∧
    (key ∈ s.dev.rowBusy → ∃ s', exec (.rowRemapDone die ch bank row) s = .next s' ∧ key ∉ s'.dev.rowBusy ∧
      Sparse.get (fun _ => 0) s'.dev.rowMap key = Sparse.get (fun _ => 0) s.dev.bankUsed (key / 24576) + 1 ∧
      Sparse.get (fun _ => 0) s'.dev.bankUsed (key / 24576) = Sparse.get (fun _ => 0) s.dev.bankUsed (key / 24576) + 1 ∧
      Sparse.get (fun _ => 0) s'.dev.rowCe key = 0 ∧ s'.mem = s.mem ∧ s'.beat = s.beat ∧ s'.pending = s.pending ∧
      gotEvent s.dev s'.dev 16 (memEvent s.clk 0x41 0 0 die.val ch.val 0 (bank.val * 65536 + row % 65536)))

/-- R282, R284, R295: a codeword with one symbol in error is counted and credited to the commands of its partition that use the address; one with more
leaves its line poisoned and counted, and the data as it was. -/
def CodewordErrorsCorrectOrPoison : Prop :=
  ∀ (s : State) (die : Fin 4) (gr : Nat) (p : Option (Fin 16)), granRow die.val gr ∉ s.dev.rowBusy →
    let addr := addrAt s.dev.nearGib die.val (512 * gr)
    let key := granRow die.val gr
    let n := Sparse.get (fun _ => 0) s.dev.rowCe key + 1
    let ce := 0xA0120 + 0x40 * die.val
    (n < fld (s.dev.reg 0xA000C) 0 8 → s.dev.reg ce ≠ 0xFFFFFFFF →
      ∃ s', exec (.bulkSlotIssue die gr false [1] p) s = .next s' ∧ s'.dev.reg ce = s.dev.reg ce + 1 ∧
        (∀ off, off ≠ ce → s'.dev.reg off = s.dev.reg off) ∧ Sparse.get (fun _ => 0) s'.dev.rowCe key = n ∧ s'.dev.poison = s.dev.poison ∧
        s'.mem = s.mem ∧ s'.dev.cmds = s.dev.cmds.map (fun c => match p with
          | some q => if c.part = q.val ∧ c.ph.fellable = true ∧
                (∃ r ∈ c.ins ++ c.outs, r.addr / 128 ≤ addr / 128 ∧ addr < r.addr + r.len) then
              { c with chk := { c.chk with corrected := c.chk.corrected + 1 } } else c
          | none => c)) ∧
    (s.dev.regionAt [2, 3] (128 * (addr / 128)) = none → s.dev.tableAt [2, 3] (128 * (addr / 128)) = none →
      ∃ s', exec (.bulkSlotIssue die gr false [2] p) s = .next s' ∧ addr / 128 ∈ s'.dev.poison ∧ s'.mem = s.mem ∧ s'.dev.cmds = s.dev.cmds ∧
        (∀ l, l ∈ s'.dev.poison ↔ l ∈ s.dev.poison ∨ l = addr / 128) ∧ s'.beat = s.beat ∧ s'.pending = s.pending)

/-- Memory accesses are counted, rows remapped, and codeword errors corrected or poisoned: the statements of MemoryAccessesCountAndRowsRemap, CodewordErrorsCorrectOrPoison together. -/
def Obligations.MemoryAccessesAndCodewordErrors : Prop :=
  MemoryAccessesCountAndRowsRemap ∧ CodewordErrorsCorrectOrPoison

/-- R290 to R293, R297, R308: SEAL is taken while the region is off and its registers stand; sealing writes each page's digest and stamp and leaves the
region sealed, or refuses at its first bad page; UNSEAL turns a sealed region off; a repair read rewrites the page's bad lines, or is tried once more and
then damages the region. -/
def RegionsSealVerifyRepairAndUnseal : Prop :=
  ∀ (s : State) (r : Fin 64), let off := rgnOff r.val + 0x20
    let st := s.dev.rgnSt r.val
    (∀ path v, opens s.dev path off →
      (st ≠ 0 → exec (.rgnSeal path r v) s = .next (s.onDev (fun d => d.refuse path off 2))) ∧
      (st = 0 → s.dev.rgnBad r.val = true → exec (.rgnSeal path r v) s = .next (s.onDev (fun d => d.refuse path off 1))) ∧
      (st = 0 → s.dev.rgnBad r.val = false → ∃ s', exec (.rgnSeal path r v) s = .next s' ∧ s'.dev.rgnSt r.val = 1 ∧
        (s'.dev.region r.val).verify = flag v 2 ∧ (∀ o, o ≠ off + 4 → s'.dev.reg o = s.dev.reg o) ∧
        ({ s' with dev := { s'.dev with regs := s.dev.regs, rgn := s.dev.rgn } } : State) = s) ∧
      ((st = 1 ∨ st = 3 ∨ s.dev.sealedEntry r.val = true) → exec (.rgnUnseal path r v) s = .next (s.onDev (fun d => d.refuse path off 2))) ∧
      (st ≠ 1 → st ≠ 3 → s.dev.sealedEntry r.val = false → ∃ s', exec (.rgnUnseal path r v) s = .next s' ∧ s'.dev.rgnSt r.val = 0 ∧
        (s'.dev.region r.val).pages = [] ∧ ({ s' with dev := { s'.dev with regs := s.dev.regs, rgn := s.dev.rgn } } : State) = s)) ∧
    (∀ bad, st ≠ 1 → exec (.rgnSealingDone r bad) s = .next s) ∧
    (∀ bad, st = 1 → (∃ q < s.dev.rgnPages r.val, q ∈ bad) → ∃ s', exec (.rgnSealingDone r bad) s = .next s' ∧ s'.dev.rgnSt r.val = 5 ∧ s'.mem = s.mem) ∧
    (st = 1 → (s.dev.region r.val).verify = false →
      ∃ s', exec (.rgnSealingDone r []) s = .next s' ∧ s'.dev.rgnSt r.val = 2 ∧
        (∀ q < s.dev.rgnPages r.val,
          readMem s'.mem (s.dev.rgnTable r.val + 32 * q) 16 = le 16 (digest (readMem s.mem (s.dev.rgnBase r.val + 4096 * q) 4096)) ∧
          readMem s'.mem (s.dev.rgnTable r.val + 32 * q + 16) 8 = le 8 s.beat.num) ∧
        (∀ a, a < s.dev.rgnTable r.val ∨ s.dev.rgnTable r.val + 32 * s.dev.rgnPages r.val ≤ a → readByte s'.mem a = readByte s.mem a)) ∧
    ((st ≠ 3 ∨ (s.dev.region r.val).pages = []) → ∀ ok data, exec (.repairReadDone r ok data) s = .next s) ∧
    (st = 3 → ∀ page lines beat rest, (s.dev.region r.val).pages = (page, lines, beat) :: rest →
      (∀ data, (s.dev.region r.val).tries = 0 → ∃ s', exec (.repairReadDone r false data) s = .next s' ∧ (s'.dev.region r.val).tries = 1 ∧
        ({ s' with dev := { s'.dev with rgn := s.dev.rgn } } : State) = s) ∧
      ((s.dev.region r.val).tries = 0 → ∃ s', exec (.repairReadTimeout r) s = .next s' ∧ (s'.dev.region r.val).tries = 1 ∧
        ({ s' with dev := { s'.dev with rgn := s.dev.rgn } } : State) = s) ∧
      ((s.dev.region r.val).tries ≠ 0 → ∃ s', exec (.repairReadTimeout r) s = .next s' ∧ s'.dev.rgnSt r.val = 4 ∧ s'.mem = s.mem) ∧
      ∀ data, data.length = 4096 → digest data = leNat (readMem s.mem (s.dev.rgnTable r.val + 32 * page) 16) → lines = none →
        s.dev.rgnBase r.val % 128 = 0 → s.dev.rgnBase r.val + 4096 * s.dev.rgnPages r.val ≤ s.dev.rgnTable r.val → page < s.dev.rgnPages r.val →
        ∃ s', exec (.repairReadDone r true data) s = .next s' ∧ readMem s'.mem (s.dev.rgnBase r.val + 4096 * page) 4096 = data ∧
          (s'.dev.region r.val).pages = rest ∧ s'.dev.rgnSt r.val = (if rest = [] then 2 else 3) ∧
          ∀ i < 32, (s.dev.rgnBase r.val + 4096 * page) / 128 + i ∉ s'.dev.poison)

/-- R301 to R304: within its window cruise reads the next granule of a die, or the next page of a sealed region, and moves on; a clean page is stamped; a
read beyond the budget of 328 slots in 65,536 slot times waits for its slot time (the model's
reading, log entry 72); a pass that has not finished in its period is told of once. -/
def CruiseMovesThroughMemory : Prop :=
  ∀ (s : State) (die : Fin 4), let b := 0xA0100 + 0x40 * die.val
    let pos := s.dev.reg64 (b + 8)
    let may := flag (s.dev.reg 0xA0000) 0 = true ∧ s.winOpen 0 = true
    (¬may → (∀ errs, exec (.cruiseRead die errs) s = .next s) ∧ ∀ errs te, exec (.sealedCruisePage errs te) s = .next s) ∧
    (may → granRow die.val (pos / 4) ∉ s.dev.rowBusy → (pos + 4) % 402653184 ≠ 0 →
      ∃ s', exec (.cruiseRead die []) s = .next s' ∧ s'.dev.reg64 (b + 8) = (pos + 4) % 402653184 ∧ s'.mem = s.mem ∧ s'.dev.poison = s.dev.poison ∧
        (let ch := 32 * die.val + channelOf (pos / 4)
          let uses := Sparse.get (fun _ => []) s.dev.cruiseUse ch
          let now := Sparse.get (fun _ => 0) s.dev.slots ch
          (uses.length < 328 → Sparse.get (fun _ => 0) s'.dev.slots ch = now + 1) ∧
          ∀ x, uses[327]? = some x → Sparse.get (fun _ => 0) s'.dev.slots ch = max now (x + 65536) + 1) ∧
        ({ s' with dev := { s'.dev with regs := s.dev.regs, rowCe := s.dev.rowCe, slots := s.dev.slots, cruiseUse := s.dev.cruiseUse,
                                        kiln := s.dev.kiln } } : State) = s) ∧
    (may → ∀ r page, s.dev.nextSealed (fld (s.dev.reg 0xA0010) 0 6) (fld (s.dev.reg 0xA0010) 6 26) = some (r, page) →
      (∀ e ∈ s.dev.pageGranules r page, granRow e.1 e.2 ∉ s.dev.rowBusy) →
      digest (readMem s.mem (s.dev.rgnBase r + 4096 * page) 4096) = leNat (readMem s.mem (s.dev.rgnTable r + 32 * page) 16) →
      ∃ s', exec (.sealedCruisePage [] []) s = .next s' ∧ s'.mem = writeMem s.mem (s.dev.rgnTable r + 32 * page + 16) (le 8 s.beat.num) ∧
        s'.dev.poison = s.dev.poison ∧ (∀ q, s'.dev.rgnSt q = s.dev.rgnSt q) ∧
        (s.dev.nextSealed r (page + 1) ≠ none → s'.dev.sealedDone = s.dev.sealedDone + 1) ∧
        (s.dev.nextSealed r (page + 1) = none → s'.dev.sealedDone = 0)) ∧
    ((s.dev.reg64 (b + 8) = 0 ∨ die.val ∈ s.dev.lateSaid) → exec (.cruisePeriodEnd false die) s = .next s) ∧
    (s.dev.reg64 (b + 8) ≠ 0 → die.val ∉ s.dev.lateSaid → ∃ s', exec (.cruisePeriodEnd false die) s = .next s' ∧
      s'.dev.lateSaid = s.dev.lateSaid ++ [die.val] ∧ gotEvent s.dev s'.dev 16 (memEvent s.clk 0x44 0 0 die.val 0 0 0) ∧ s'.mem = s.mem)

/-- Regions are sealed, verified, repaired and unsealed; the cruise moves through memory: the statements of RegionsSealVerifyRepairAndUnseal, CruiseMovesThroughMemory together. -/
def Obligations.SealedRegionsAndTheCruise : Prop :=
  RegionsSealVerifyRepairAndUnseal ∧ CruiseMovesThroughMemory

/-! ### Resets (R255, R466, R508 to R515, R580) -/

/-- R508 to R511, R515: a partition reset aborts every command that has not committed and stops the partition's rings; records that stay unwritten are
discarded; and once nothing is left, what the partition held is as reset has it, its chain is new and its reset count one more. -/
def PartitionResetsAbortDrainAndClear : Prop :=
  (∀ (s : State) (p : Fin 16) (tr : ResetTrigger),
    ((s.dev.partSt p.val = 3 ∨ s.dev.ready = false) → exec (.partReset p tr) s = .next s) ∧
    (s.dev.partSt p.val ≠ 3 → s.dev.ready = true → ∃ s', exec (.partReset p tr) s = .next s' ∧ s'.dev.partSt p.val = 3 ∧
      (∀ k < 16, (s'.dev.sring (16 * p.val + k)).inFetch = [] ∧ (s'.dev.sring (16 * p.val + k)).reading = false) ∧
      s'.mem = s.mem ∧ s'.beat = s.beat ∧ s'.pending = s.pending ∧
      ∀ c, s.dev.cmd c.cid = some c → c.part = p.val → c.kind = .descriptor → c.op ≠ 1 → c.op ≠ 7 → (∀ n, (s.dev.srv n).seqs = []) →
        (∀ x ∈ s.dev.cmds, ∀ par i, x.kind = .entry par i → par ≠ c.cid) →
        ∃ y, s'.dev.cmd c.cid = some y ∧ (c.ph = .waiting → y.ph = .completion ∧ y.status = 0xB ∧ y.detail = 1) ∧
          (c.ph.fellable = true → y.ph = .felling ∧ y.fellEnd = .complete 0xB 1)) ∧
    (tr = .vfFlr → (s.dev.vfs = true → exec (.vfFlr p) s = exec (.partReset p tr) s) ∧ (s.dev.vfs = false → exec (.vfFlr p) s = .next s))) ∧
  ∀ (s : State) (p : Fin 16),
    (¬(s.dev.partSt p.val = 3 ∧ s.dev.unwritten p.val = true) → exec (.partResetDrainTimeout p) s = .next s) ∧
    (s.dev.partSt p.val = 3 → s.dev.unwritten p.val = true → ∃ s', exec (.partResetDrainTimeout p) s = .next s' ∧
      s'.dev.unwritten p.val = false ∧ flag (s'.dev.reg (0x160300 + 8 * p.val)) 24 = true ∧ s'.mem = s.mem ∧
      (∀ c ∈ s.dev.cmds, c.part ≠ p.val → c ∈ s'.dev.cmds)) ∧
    ((s.dev.partSt p.val ≠ 3 ∨ s.dev.cmdsOf p.val ≠ [] ∨ s.dev.unwritten p.val = true) → exec (.partResetDone p) s = .next s) ∧
    (s.dev.partSt p.val = 3 → s.dev.cmdsOf p.val = [] → s.dev.unwritten p.val = false → ∃ s', exec (.partResetDone p) s = .next s' ∧
      s'.dev.partSt p.val = (let n := s'.dev.workingActive p.val; if n = 0 then 4 else if n < 32 then 1 else 0) ∧
      (∀ off < 2 ^ 24, partReg p.val off = true → s'.dev.reg off = regReset off) ∧ (∀ i < 4096, s'.dev.tallyOf p.val i = 0) ∧
      (∀ h < 4096, s'.dev.buf p.val h = ⟨0, 0, false, false, false, false, false⟩) ∧
      (∀ k < 16, s'.dev.sring (16 * p.val + k) = srReset k ∧ s'.dev.dring (16 * p.val + k) = drReset k) ∧
      (∀ l < 36, s'.dev.core (36 * p.val + l) =
        { coreReset l with noCheck := (s.dev.core (36 * p.val + l)).noCheck, readyAt := (s.dev.core (36 * p.val + l)).readyAt }) ∧
      (s'.dev.chain p.val).gen = (s.dev.chain p.val).gen + 1 ∧ (s'.dev.chain p.val).next = 1 ∧
      (s'.dev.chain p.val).prevHash = (sha384 (s'.dev.genesis s.clk p.val)).take 32 ∧
      s'.dev.reg (0x160380 + 4 * p.val) = s.dev.reg (0x160380 + 4 * p.val) + 1 ∧ s'.mem = s.mem ∧ s'.beat = s.beat ∧ s'.dev.cmds = s.dev.cmds)

/-- What every device reset leaves: no command, the beat unit in reset, the bytes of device memory, the registers that are kept, and each reset count one
more (R512 to R515, R580). -/
def resetLeaves (s s' : State) : Prop :=
  let gating := flag (s.dev.reg 0x120008) 3 || s.dev.boot.due
  s'.beat = beatReset ∧ s'.mem = s.mem ∧ s'.pending = s.pending ∧ s'.dev.cmds = [] ∧ s'.dev.cores = [] ∧ s'.dev.dir = [] ∧ s'.dev.l2 = [] ∧
    s'.dev.bufs = [] ∧ s'.dev.tally = [] ∧ s'.dev.sr = [] ∧ s'.dev.dr = [] ∧ s'.dev.evq = [] ∧ s'.dev.chains = [] ∧ s'.dev.net = netReset ∧
    s'.dev.boot.up = false ∧ s'.dev.boot.links = false ∧ s'.dev.toHost = s.dev.toHost ∧ s'.dev.reasons = s.dev.reasons ∧
    (∀ p < 16, s'.dev.reg (0x160380 + 4 * p) = s.dev.reg (0x160380 + 4 * p) + 1) ∧
    (∀ off, keptReg gating off = false → s'.dev.reg off = regReset off) ∧
    ∀ off, keptReg gating off = true → off ≠ 0x100 → off ≠ 0x120008 → (∀ p < 16, off ≠ 0x160380 + 4 * p) → s'.dev.reg off = s.dev.reg off

/-- R317, R512 to R515, R523, R580: DEV_RESET with GO, a Function Level Reset of the PF, a hot reset and a link down all reset the device; the last
three return configuration space to its defaults, the first keeping Max_Payload_Size. -/
def DeviceResetsKeepOnlyWhatSurvives : Prop :=
  ∀ s : State, s.dev.boot.svcUp = true →
    (∀ path v, reaches s.dev path 0x160014 = true → flag v 0 = true → ∃ s', exec (.devReset path v) s = .next s' ∧ resetLeaves s s' ∧
      s'.dev.vfs = s.dev.vfs ∧ s'.dev.mps = s.dev.mps ∧ s'.dev.mrrs = s.dev.mrrs) ∧
    (∀ path v, flag v 0 = false → exec (.devReset path v) s = .next s) ∧
    (∃ s', exec .pfFlr s = .next s' ∧ resetLeaves s s' ∧ s'.dev.vfs = false ∧ s'.dev.mps = s.dev.mps ∧ s'.dev.mrrs = 512) ∧
    (∃ s', exec .pcieHotReset s = .next s' ∧ resetLeaves s s' ∧ s'.dev.vfs = false ∧ s'.dev.mps = 128 ∧ s'.dev.mrrs = 512) ∧
    ∃ s', exec .pcieLinkDown s = .next s' ∧ resetLeaves s s' ∧ s'.dev.vfs = false ∧ s'.dev.mps = 128 ∧ s'.dev.mrrs = 512

/-- R255, R256, R508: a snooped partition that has not answered is marked non-responsive, and the line it was snooped for is poisoned at its home. -/
def SilentPartitionsPoisonTheirLine : Prop :=
  ∀ (s : State) (addr : Nat) (p : Fin 16) (t : Txn) (q : Nat), (s.dev.place addr).isSome = true →
    (s.dev.dirEnt (addr / 128)).txn = some t → (s.dev.dirEnt (addr / 128)).queue = [] → t.req = .rds q →
    (p.val ∉ t.wait → p.val ∉ t.answered → exec (.homeTimeout addr p) s = .next s) ∧
    (p.val ∈ t.wait → flag (s.dev.reg 0x160000) 8 = false → s.dev.partSt p.val < 2 → s.dev.reg 0xC0054 ≠ 0xFFFFFFFF →
      ∃ s', exec (.homeTimeout addr p) s = .next s' ∧ addr / 128 ∈ s'.dev.poison ∧ s'.dev.partSt p.val = 2 ∧
        s'.dev.dirEnt (addr / 128) = { s.dev.dirEnt (addr / 128) with st := .i, sharers := [], txn := none } ∧
        s'.dev.reg 0xC0054 = s.dev.reg 0xC0054 + 1 ∧ s'.mem = s.mem ∧ s'.beat = s.beat ∧ s'.pending = s.pending ∧ s'.dev.cmds = s.dev.cmds)

/-- A partition reset aborts, drains and clears; a silent partition poisons its line and is marked: the statements of PartitionResetsAbortDrainAndClear, SilentPartitionsPoisonTheirLine together. -/
def Obligations.PartitionResetsAndSilentPartitions : Prop :=
  PartitionResetsAbortDrainAndClear ∧ SilentPartitionsPoisonTheirLine

/-! ### The scheduler, the serving sequencer and the layering engine (R33, R383 to R409, R455 to R461) -/

/-- The commands that compete at an engine of a partition (R386). -/
def Sys2Proof.Machine.Dev.rivals (d : Dev) (u : BeatUnit) (p e : Nat) : List Cmd := d.cmds.filter (d.candidate u p e)

/-- R383 to R388, R390: a selection takes the lowest effective class, there the oldest command that has reached AGE_CEIL, else the
oldest of a client with the least window count; it grants the command its cores and counts its first grant, or holds the selection
for a kernel whose cores are not free. -/
def Obligations.SelectionsGrantTheChosenCommand : Prop :=
  (∀ (d : Dev) (k : Clk) (u : BeatUnit) (p e : Nat) (c : Cmd), d.choose k p (d.rivals u p e) = some c →
    c ∈ d.rivals u p e ∧ (∀ x ∈ d.rivals u p e, d.effCls k c ≤ d.effCls k x) ∧
    let same := (d.rivals u p e).filter (fun x => d.effCls k x == d.effCls k c)
    ((∃ x ∈ same, d.ageCeil p ≤ x.age k) → d.ageCeil p ≤ c.age k ∧ ∀ x ∈ same, d.ageCeil p ≤ x.age k → older x c = false) ∧
    ((∀ x ∈ same, x.age k < d.ageCeil p) →
      (∀ x ∈ same, (d.clientCnt p c.client 3).toNat ≤ (d.clientCnt p x.client 3).toNat) ∧
        ∀ x ∈ same, d.clientCnt p x.client 3 = d.clientCnt p c.client 3 → older x c = false)) ∧
  (∀ (s : State) (p : Fin 16) (e : Fin 5) (cycle t : Nat), let d := (s.dev.at t).refresh s.clk s.beat
    ((d.mayGrant p.val e.val = false ∨ d.rivals s.beat p.val e.val = []) → exec (.schedulerSelect p e cycle t) s = .next { s with dev := d }) ∧
    ∀ c, d.mayGrant p.val e.val = true → Sparse.get (fun _ => 0) d.held (8 * p.val + e.val) = 0 →
      d.choose s.clk p.val (d.rivals s.beat p.val e.val) = some c → c.op ≠ 5 → e.val ≠ 4 →
      (c.kind = .descriptor → c.control = false → d.inFlight p.val e.val < engineLimit e.val) →
      let kernel := c.op = 4 ∧ c.chk.zero = false
      let n := d.coresWanted c
      ((kernel → 0 < n ∧ n ≤ (d.freeCores c).length) → ∃ s', exec (.schedulerSelect p e cycle t) s = .next s' ∧
        s'.dev.cmd c.cid = some { c with
          ph := (if c.ph = .saved then .restoring else .granted), launched := true, grant := d.grants + 1,
          cores := (if kernel then (d.freeCores c).take n else []) } ∧
        (∀ x, x ≠ c.cid → s'.dev.cmd x = d.cmd x) ∧ s'.dev.grants = d.grants + 1 ∧
        ({ s' with dev := { s'.dev with cmds := d.cmds, grants := d.grants, held := d.held, kiln := d.kiln, client := d.client, rgn := d.rgn } } : State)
          = { s with dev := d } ∧
        (c.launched = true → s'.dev.client = d.client) ∧
        (c.launched = false → d.inStep c = false → ∀ j, (j = 0 ∨ j = 3) → d.clientCnt p.val c.client j ≠ 0xFFFFFFFF →
          s'.dev.clientCnt p.val c.client j = d.clientCnt p.val c.client j + 1)) ∧
      (kernel → c.ph = .waiting → (n = 0 ∨ (d.freeCores c).length < n) → ∃ s', exec (.schedulerSelect p e cycle t) s = .next s' ∧
        Sparse.get (fun _ => 0) s'.dev.held (8 * p.val + e.val) = c.cid + 1 ∧
        (∀ x y, d.cmd x = some y → s'.dev.cmd x = some y ∨ s'.dev.cmd x = some { y with ph := .parking }) ∧
        ({ s' with dev := { s'.dev with cmds := d.cmds, held := d.held } } : State) = { s with dev := d }))

/-- R392 to R397: a pre-emption saves a kernel once every group has parked, into save slots no command holds, or fells it; a save frees
its cores, a restore brings back what the slots hold, and a budget that runs out fells it. -/
def PreemptionParksSavesAndRestores : Prop :=
  (∀ (s : State) (cid : Nat) (c : Cmd), s.dev.cmd cid = some c → c.ph = .parking → c.part < 16 →
    let free := s.dev.freeSaveSlots c.part
    (s.dev.unparked c = 0 → c.cores.length ≤ free.length → ∃ s', exec (.preemptSave cid) s = .next s' ∧
      s'.dev.cmd cid = some { c with ph := .saving, slots := free.take c.cores.length } ∧
      ({ s' with dev := { s'.dev with cmds := s.dev.cmds } } : State) = s ∧
      ∀ n ∈ free.take c.cores.length, n < fld (s.dev.reg (0x20000 + 0x1000 * c.part + 0x318)) 0 7 ∧
        ∀ x ∈ s.dev.cmds, x.part = c.part → n ∉ x.slots) ∧
    (s.dev.unparked c = 0 → free.length < c.cores.length → ∃ s' x, exec (.preemptSave cid) s = .next s' ∧ s'.dev.cmd cid = some x ∧
      x.ph = .felling ∧ x.fellEnd = .requeue ∧ s'.mem = s.mem ∧ s'.beat = s.beat ∧ s'.pending = s.pending) ∧
    (s.dev.unparked c ≠ 0 → exec (.preemptSave cid) s = .next s ∧ ∃ s' x, exec (.preemptBudgetExpire cid) s = .next s' ∧
      s'.dev.cmd cid = some x ∧ x.ph = .felling ∧ x.fellEnd = .requeue ∧ s'.mem = s.mem ∧ s'.beat = s.beat ∧ s'.pending = s.pending) ∧
    (s.dev.unparked c = 0 → exec (.preemptBudgetExpire cid) s = .next s)) ∧
  (∀ (s : State) (cid : Nat) (c : Cmd), s.dev.cmd cid = some c → c.ph = .saving → c.cores.length = c.slots.length → c.cores.Nodup →
    c.slots.Nodup → (∀ l ∈ c.cores, l < 36) → (∀ n ∈ c.slots, n < 64) → s.dev.unresolved c = false →
    ∃ s', exec (.saveDone cid) s = .next s' ∧
      s'.dev.cmd cid = some { c with ph := .saved, savedCores := c.cores.length, cores := [] } ∧
      (∀ e ∈ c.cores.zip c.slots, Sparse.get coreReset s'.dev.saveImg (64 * c.part + e.2) = s.dev.core (36 * c.part + e.1) ∧
        s'.dev.core (36 * c.part + e.1) = (s.dev.core (36 * c.part + e.1)).emptied) ∧
      (∀ off, off ≠ 0x20000 + 0x1000 * c.part + 0x320 → off ≠ (ovfOf (0x20000 + 0x1000 * c.part + 0x320)).1 → s'.dev.reg off = s.dev.reg off) ∧
      ({ s' with dev := { s'.dev with cmds := s.dev.cmds, regs := s.dev.regs, cores := s.dev.cores, saveImg := s.dev.saveImg } } : State) = s) ∧
  ∀ (s : State) (cid : Nat) (c : Cmd), s.dev.cmd cid = some c → c.ph = .restoring → c.cores.length = c.slots.length → c.cores.Nodup →
    (∀ l ∈ c.cores, l < 36) → c.op = 4 → c.run.retired < c.run.total →
    ∃ s', exec (.restoreDone cid true) s = .next s' ∧
      (∃ x, s'.dev.cmd cid = some x ∧ x.ph = .running ∧ x.slots = [] ∧ x.cores = c.cores ∧ x.run = c.run ∧
        ∀ l ∈ c.cores, x.chk.cores.testBit l = true) ∧
      (∀ e ∈ c.cores.zip c.slots, let img := Sparse.get coreReset s.dev.saveImg (64 * c.part + e.2)
        let r := s'.dev.core (36 * c.part + e.1)
        r.blocks = img.blocks ∧ r.tiles = img.tiles ∧ r.tok = img.tok ∧ r.cfg = img.cfg ∧
          r.groups = img.groups.map (fun g => { g with parked := false })) ∧
      ({ s' with dev := { s'.dev with cmds := s.dev.cmds, cores := s.dev.cores, saveImg := s.dev.saveImg } } : State) = s

/-- R398, R399: a felled command's cores are free after 3 µs; once no request of it is outstanding it waits again from its start, or
ends with the status its felling had. -/
def FellingFreesCoresAndEnds : Prop :=
  ∀ (s : State) (cid : Nat) (c : Cmd), s.dev.cmd cid = some c →
    (c.ph = .felling → ∃ s', exec (.fellCoresFree cid) s = .next s' ∧ s'.dev.cmd cid = some { c with ph := .draining, cores := [] } ∧
      (∀ n, n ≠ cid → s'.dev.cmd n = s.dev.cmd n) ∧ ({ s' with dev := { s'.dev with cmds := s.dev.cmds } } : State) = s) ∧
    (c.ph ≠ .felling → ∃ s', exec (.fellCoresFree cid) s = .next s' ∧ (∀ n, s'.dev.cmd n = s.dev.cmd n) ∧
      ({ s' with dev := { s'.dev with cmds := s.dev.cmds } } : State) = s) ∧
    (c.ph = .draining → c.kind = .descriptor → c.fellEnd = .requeue → c.elig.isSome = true → c.ready = true →
      (∀ x ∈ s.dev.cmds, x.ph = .waiting → x.ready = true ∧ x.elig.isSome = true) →
      ∃ s', exec (.fellDrainDone cid) s = .next s' ∧ s'.dev.cmd cid = some { c.restart with ph := .waiting } ∧
        (∀ n, n ≠ cid → s'.dev.cmd n = s.dev.cmd n) ∧ ({ s' with dev := { s'.dev with cmds := s.dev.cmds } } : State) = s) ∧
    (c.ph = .draining → c.kind = .descriptor → ∀ st de, c.fellEnd = .complete st de → c.part < 16 → (∀ x ∈ s.dev.cmds, x.ph ≠ .waiting) →
      ∃ s' x, exec (.fellDrainDone cid) s = .next s' ∧ s'.dev.cmd cid = some x ∧ x.ph = .completion ∧ x.status = st ∧ x.detail = de ∧
        let r := 16 * c.part + c.ring % 16
        (s'.dev.dring r).wait = (s.dev.dring r).wait ++ [⟨completionBytes s.clk c st de 0xFF, some cid, bitAt c.flags 2⟩] ∧
        ({ s' with dev := { s'.dev with cmds := s.dev.cmds, dr := s.dev.dr } } : State) = s) ∧
    (c.ph ≠ .draining → exec (.fellDrainDone cid) s = .next s)

/-- Pre-emption parks, saves and restores; felling frees cores and ends the command: the statements of PreemptionParksSavesAndRestores, FellingFreesCoresAndEnds together. -/
def Obligations.PreemptionAndFellingFreeTheirCores : Prop :=
  PreemptionParksSavesAndRestores ∧ FellingFreesCoresAndEnds

/-- R400, R403, R404, R407, R408: EN of SRV_CTRL is set only with its set-up complete and starts the step numbers and the page pool
afresh; a step boundary only follows the step before it and hands out pages that are free; a launch numbers its step; a wait for
pages that lasts too long ends its request. -/
def Obligations.ServingStepsFollowOneAnother : Prop :=
  (∀ (s : State) (path : Path) (p : Fin 16) (v : Word), let m := 0x20000 + 0x1000 * p.val + 0x400
    reaches s.dev path m = true → s.dev.responds path m = true → s.dev.pageLocked m = false →
    (flag v 0 = true → s.dev.srvEn p.val = false → s.dev.srvReady p.val = false →
      exec (.srvEnable path p v) s = .next { s with dev := s.dev.refuse path m 2 }) ∧
    ((flag v 0 = false ∨ s.dev.srvEn p.val = true ∨ s.dev.srvReady p.val = true) → inLims (regRule m).lims v = true →
      ∃ s', exec (.srvEnable path p v) s = .next s' ∧ (∀ off, s'.dev.reg off = s.dev.withReg m (v &&& BitVec.ofNat 32 (regRule m).mask) off) ∧
        ({ s' with dev := { s'.dev with regs := s.dev.regs, serve := s.dev.serve } } : State) = s ∧
        (flag v 0 = true → s.dev.srvEn p.val = false → (s'.dev.srv p.val).stepNo = 0 ∧
          ∀ g, g ∈ (s'.dev.srv p.val).free ↔ g < (s.dev.srvKv p.val).len / 65536 ∧ ∀ q ∈ (s.dev.srv p.val).seqs, g ∉ q.pages) ∧
        ((flag v 0 = false ∨ s.dev.srvEn p.val = true) → s'.dev.serve = s.dev.serve))) ∧
  (∀ (s : State) (cid : Nat) (c : Cmd), s.dev.cmd cid = some c →
    (c.op = 7 → c.chk.zero = true → (c.ph = .loaded ∨ c.ph = .granted) → ∃ s', exec (.serveReq cid) s = .next s' ∧
      s'.dev.cmd cid = some { c with ph := .digest } ∧ ({ s' with dev := { s'.dev with cmds := s.dev.cmds } } : State) = s) ∧
    (c.chk.zero = false → exec (.serveReq cid) s = .next s)) ∧
  (∀ (s : State) (p : Fin 16) (host : HostData),
    ((s.dev.atStepEnd p.val = false ∨ (s.dev.srv p.val).ready = true ∨ s.dev.partSt p.val = 3) →
      exec (.serveStepBoundary p host) s = .next s) ∧
    ∀ (q : Seq) (c : Cmd), let sv := s.dev.srv p.val
      (s.dev.atStepEnd p.val = true ∧ sv.ready = false ∧ s.dev.partSt p.val ≠ 3 ∧ s.dev.srvEn p.val = true ∧ s.dev.kiln.pd = 0 ∧ s.dev.mayGrant p.val 3 = true) →
      (sv.seqs = [q] ∧ sv.wait = [] ∧ sv.live = none ∧ s.dev.cmds = [c] ∧ c.cid = q.cid ∧ c.ph = .running) →
      (q.admitted = true ∧ q.batch = none ∧ q.cancelled = false ∧ q.want = 0 ∧ s.dev.lacks p.val c q = 0) →
      ¬(0 < q.gen ∧ (q.last = s.dev.regN (0x20000 + 0x1000 * p.val + 0x420) ∨ c.maxNew ≤ q.gen)) →
      let n := s.dev.nextCount p.val c q
      let emit := decide (c.promptLen ≤ q.done) || decide (c.promptLen ≤ q.done + n)
      let base := (s.dev.srvBatch p.val).base
      let row := (s.dev.srvPt p.val).base + 4096 * q.slot
      let toks := if q.done < c.promptLen then (match c.ins with
        | r :: _ => readAny s.mem host (r.addr + 4 * q.done) (4 * n)
        | [] => []) else le 4 q.last
      let sent (a : Nat) (bs : Bytes) := hostRequests (s.dev.fnOf p.val) s.dev.mps bs.length a bs
      (isHost base = true ∧ isHost (base + 64) = true ∧ isHost (base + 16448) = true ∧ isHost row = true) →
      ∃ s', exec (.serveStepBoundary p host) s = .next s' ∧
        s'.dev.srv p.val = { sv with seqs := [{ q with batch := some 0, cnt := n, emit := emit }], ready := true } ∧
        s'.dev.toHost = s.dev.toHost ++ sent base (le 8 (sv.stepNo + 1) ++ zeros 8 ++ le 2 1 ++ zeros 46) ++
          sent (base + 64) (le 2 q.slot ++ le 1 (b2n (decide (q.done = 0)) + 2 * b2n emit) ++ zeros 1 ++ le 4 n ++
            le 4 (if q.done < c.promptLen then q.done else c.promptLen + q.gen - 1) ++ le 4 0 ++ zeros 16) ++
          sent (base + 16448) toks ++ sent row (q.pages.flatMap (fun g => le 4 g)) ∧
        ({ s' with dev := { s'.dev with serve := s.dev.serve, toHost := s.dev.toHost } } : State) = s) ∧
  (∀ (s : State) (p : Fin 16), let pace := flag (s.dev.reg (0x20000 + 0x1000 * p.val + 0x400)) 1
    ((pace = true ∧ s.paced p.val = false) → exec (.serveStepLaunch p) s = .next s) ∧
    (pace = false → (s.dev.srv p.val).ready = false → exec (.serveStepLaunch p) s = .next s) ∧
    (pace = true → s.paced p.val = true → (s.dev.srv p.val).ready = false → s.dev.atStepEnd p.val = false →
      exec (.serveStepLaunch p) s = .next { s with dev := s.dev.bump (0x20000 + 0x1000 * p.val + 0x32C) }) ∧
    ((pace = false ∨ s.paced p.val = true) → (s.dev.srv p.val).ready = true → s.dev.cmds = [] → isHost ((s.dev.srvBatch p.val).base + 8) = true →
      let d := s.dev.toHostMem (s.dev.fnOf p.val) ((s.dev.srvBatch p.val).base + 8) (le 8 s.beat.num)
      ((⟨d, s.mem, [], p.val, 16 * p.val⟩ : Look).descriptor (d.stepDesc p.val ((s.dev.srv p.val).stepNo + 1))).2 = none →
      ∃ s' c, exec (.serveStepLaunch p) s = .next s' ∧ (s'.dev.srv p.val).stepNo = (s.dev.srv p.val).stepNo + 1 ∧
        (s'.dev.srv p.val).ready = false ∧ (s'.dev.srv p.val).live = some s.dev.nextCid ∧ s'.dev.cmd s.dev.nextCid = some c ∧
        c.kind = .step ((s.dev.srv p.val).stepNo + 1) ∧ c.ph = .running ∧ s'.dev.nextCid = s.dev.nextCid + 1 ∧
        s'.dev.toHost = d.toHost ∧ s'.mem = s.mem ∧ s'.beat = s.beat ∧ s'.pending = s.pending)) ∧
  ∀ (s : State) (p : Fin 16) (slot : Fin 512) (q : Seq) (c : Cmd), q ∈ (s.dev.srv p.val).seqs → q.slot = slot.val →
    (s.dev.srv p.val).seqs.find? (fun x => x.slot == slot.val) = some q → s.dev.cmd q.cid = some c → c.part = p.val →
    ((slot.val ∈ (s.dev.srv p.val).wait ∧ q.since + fld (s.dev.reg (0x20000 + 0x1000 * p.val + 0x428)) 0 16 ≤ s.beat.num) →
      ∃ s' x, exec (.kvWaitTimeout p slot) s = .next s' ∧ s'.dev.cmd q.cid = some x ∧ x.ph = .completion ∧ x.status = 9 ∧ x.detail = 1 ∧
        (∀ y ∈ (s'.dev.srv p.val).seqs, y.slot ≠ slot.val) ∧ slot.val ∉ (s'.dev.srv p.val).wait ∧
        (s'.dev.srv p.val).free = (s.dev.srv p.val).free ++ q.pages ∧
        ({ s' with dev := { s'.dev with cmds := s.dev.cmds, dr := s.dev.dr, serve := s.dev.serve } } : State) = s) ∧
    (¬(slot.val ∈ (s.dev.srv p.val).wait ∧ q.since + fld (s.dev.reg (0x20000 + 0x1000 * p.val + 0x428)) 0 16 ≤ s.beat.num) →
      exec (.kvWaitTimeout p slot) s = .next s)

/-- R455, R457, R459: a layering pass writes the tensor of its canvas to its output; when it ends, a signature that differs is noted, and the
check of signatures is covered where there are some and none differs. -/
def Obligations.LayeringWritesItsTensorAndChecksSignatures : Prop :=
  (∀ (s : State) (cid : Nat) (host : HostData) (c : Cmd), s.dev.cmd cid = some c → c.op = 6 →
    (c.ph = .loaded ∨ (c.ph = .granted ∧ (c.chk.zero = true ∨ c.ins = []))) →
    (c.chk.zero = true → ∃ s', exec (.layer cid host) s = .next s' ∧ s'.dev.cmd cid = some { c with ph := .digest } ∧
      ({ s' with dev := { s'.dev with cmds := s.dev.cmds } } : State) = s) ∧
    (c.chk.zero = false → ∀ list srcs out outs, c.ins = list :: srcs → c.outs = out :: outs → s.dev.poison = [] → isHost out.addr = false →
      (∀ a, s.dev.sealedLine a = none) →
      let hdr := readAny s.mem host list.addr list.len
      let data := srcs.map (fun r => readAny s.mem host r.addr r.len)
      let cv := canvasOf hdr (fieldAt c.desc 36 1 % 16) (fun i o => ((data.getD i []).getD o 0).toNat)
      let rm := (rndOf (bitsAt (fieldAt c.desc 37 1) 4 3)).getD .rne
      let bs := tensorBytesOf (fieldAt c.desc 37 1 % 16) rm c.srC (tensorOf hdr cv)
      ∃ s' x, exec (.layer cid host) s = .next s' ∧ s'.dev.cmd cid = some x ∧ x.ph = .running ∧ x.pos = out.len ∧
        (∀ a, readByte s'.mem a = withBytes (readByte s.mem) out.addr bs a) ∧ s'.beat = s.beat ∧ s'.pending = s.pending ∧ s'.dev.regs = s.dev.regs)) ∧
  ∀ (s : State) (cid : Nat) (c : Cmd), s.dev.cmd cid = some c →
    (c.op = 6 → c.ph = .running → ∃ s' x, exec (.layerPassDone cid) s = .next s' ∧ s'.dev.cmd cid = some x ∧ x.ph = .digest ∧
      (x.chk.sig = true ↔ ∃ e ∈ (s.dev.lyr (s.dev.lyrOf c)).sigs, e.1 ≠ e.2) ∧
      (x.chk.cover.testBit 6 = true ↔ c.chk.cover.testBit 6 = true ∨
        ((s.dev.lyr (s.dev.lyrOf c)).sigs ≠ [] ∧ ∀ e ∈ (s.dev.lyr (s.dev.lyrOf c)).sigs, e.1 = e.2)) ∧
      ({ s' with dev := { s'.dev with cmds := s.dev.cmds } } : State) = s) ∧
    ((c.op ≠ 6 ∨ c.ph ≠ .running) → exec (.layerPassDone cid) s = .next s)

/-! ### Beats and notches (R34 to R62, R328, R389) -/

/-- R35 to R38, R40, R41, R44: qualified edges learn a period from 16 intervals; a locked unit takes an early edge as the next boundary, a late one as
the confirmation of the last, and counts every other as an anomaly, the eighth of which begins holdover. -/
def EdgesLearnLockAndTrack : Prop :=
  ∀ (s : State) (t : Nat), s.beat.powered = true → s.beat.fromLinks = false → let u := s.beat
    (u.st = .unlocked → u.win = none →
      let iv := match u.lastEdge with
        | some l => t - l
        | none => 0
      let stays (l : Option Learn) : Prop := exec (.beatEdge t) s = .next { s with beat := { u with lastEdge := some t, learn := l }, dev := s.dev.at t }
      ((iv < 8000 ∨ 1600000 < iv) → stays none) ∧
      (8000 ≤ iv → iv ≤ 1600000 → u.learn = none → stays (some ⟨iv, 1, iv⟩)) ∧
      ∀ r, 8000 ≤ iv → iv ≤ 1600000 → u.learn = some r →
        let near := 100 * (max iv r.first - min iv r.first) ≤ r.first
        (¬near → stays none) ∧ (near → r.cnt < 15 → stays (some ⟨r.first, r.cnt + 1, r.sum + iv⟩)) ∧
        (near → r.cnt = 15 → ∃ s', exec (.beatEdge t) s = .next s' ∧ s'.beat.st = .locked ∧ s'.beat.p16 = r.sum + iv ∧ s'.beat.b16 = 16 * t ∧
          s'.beat.learn = none ∧ s'.beat.miss = 0 ∧ s'.beat.anom = 0 ∧ s'.beat.num = u.num ∧ s'.beat.notch = u.notch ∧ s'.beat.fires = u.fires)) ∧
    (u.st = .locked → 16 * t < u.b16 + u.p16 →
      let d := if u.role = .lead then cdiv (s.dev.regN 0x10028 * 8) 5 else 0
      let taken (s' : State) (early : Bool) (from? : Option Nat) : Prop :=
        exec (.beatEdge t) s = .next s' ∧ s'.beat.st = .locked ∧ s'.beat.b16 = 16 * t ∧ s'.beat.miss = 0 ∧ s'.beat.silent = false ∧ s'.beat.run = none ∧
          s'.beat.lastAcc = t ∧ s'.beat.num = u.num ∧ s'.beat.notch = u.notch ∧ s'.beat.curEdge = some t ∧ s'.mem = s.mem ∧ s'.pending = s.pending ∧
          s'.beat.p16 = (match from? with
            | some c => updateP u.p16 (t - c)
            | none => u.p16) ∧
          s'.beat.anom = (if (if early then u.extraBeat else u.extraPrev) = true then u.anom else 0) ∧
          ∀ f n, u.run = some (f, n) → gotEvent s.dev s'.dev 16 (event s.clk 2 2 0 0 (min n 0xFFFFFFFF) f)
      let extra : Prop := ∃ s', exec (.beatEdge t) s = .next s' ∧ (s.dev.reg 0x10034 ≠ 0xFFFFFFFF → s'.dev.reg 0x10034 = s.dev.reg 0x10034 + 1) ∧
        (u.anom < 7 → s'.beat = { u with extraBeat := true, anom := u.anom + 1, lastEdge := some t }) ∧
        (7 ≤ u.anom → s'.beat.st = .holdover ∧ s'.beat.p16 = u.p16 ∧ s'.beat.b16 = u.b16 ∧ s'.beat.win = none ∧
          gotEvent s.dev s'.dev 16 (event s.clk 4 0 0 0 (u.p16 % 2 ^ 32) 0))
      (u.win = none → 8 * (u.b16 + u.p16) ≤ 128 * t + u.p16 → ∃ s', taken s' true u.curEdge ∧
        s'.beat.fires = u.fires ++ [⟨t + d, 16 * t + 16 * d, true⟩] ∧ s'.beat.win = some ⟨u.b16 + u.p16, u.p16, true⟩) ∧
      (u.win = none → 128 * t + u.p16 < 8 * (u.b16 + u.p16) → extra) ∧
      ∀ w, u.win = some w → 128 * t ≤ 8 * w.t16 + w.p16 →
        (w.acc = false → ∃ s', taken s' false u.prevEdge ∧ s'.beat.fires.length = u.fires.length ∧ s'.beat.win = some { w with acc := true }) ∧
        (w.acc = true → extra))

/-- R39, R40, R42 to R44, R48, R53: the predicted boundary is decided at the first tick at or after T; a window that closes with no edge adds a beat
to the missing run, the 64th of which begins holdover; a decided boundary fires once due, with its pulse; silence and want of lock are told once. -/
def BoundariesFollowPredictionAndWindows : Prop :=
  ∀ (s : State) (t : Nat), let u := s.beat
    let idle : Host.Outcome State Fault Refusal := .next { s with dev := s.dev.at t }
    let d := if u.role = .lead then cdiv (s.dev.regN 0x10028 * 8) 5 else 0
    let at16 := u.b16 + u.p16
    (u.due t = true ↔ (u.st = .locked ∨ u.st = .holdover) ∧ at16 ≤ 16 * t) ∧
    (u.due t = false → exec (.beatBoundaryPredicted t) s = idle) ∧
    (u.due t = true → u.win = none → u.pendSrc = none → ∃ s', exec (.beatBoundaryPredicted t) s = .next s' ∧
      s'.beat.fires = u.fires ++ [⟨cdiv at16 16 + d, at16 + 16 * d, false⟩] ∧ s'.beat.b16 = at16 ∧ s'.beat.p16 = u.p16 ∧ s'.beat.st = u.st ∧
      s'.beat.curEdge = none ∧ s'.beat.prevEdge = u.curEdge ∧ s'.beat.num = u.num ∧ s'.beat.notch = u.notch ∧
      (u.st = .locked → s'.beat.win = some ⟨at16, u.p16, false⟩ ∧ s'.beat.miss = u.miss) ∧
      (u.st = .holdover → s'.beat.win = none ∧ s'.beat.miss = min (u.miss + 1) 127)) ∧
    ((u.win = none ∨ ∃ w, u.win = some w ∧ 128 * t ≤ 8 * w.t16 + w.p16) → exec (.beatWindowClose t) s = idle) ∧
    (∀ w, u.win = some w → 8 * w.t16 + w.p16 < 128 * t →
      (w.acc = true → exec (.beatWindowClose t) s = .next { s with beat := { u with win := none }, dev := s.dev.at t }) ∧
      (w.acc = false → ∃ s', exec (.beatWindowClose t) s = .next s' ∧ s'.beat.win = none ∧ s'.beat.miss = min (u.miss + 1) 127 ∧
        s'.beat.run = (match u.run with
          | some (f, n) => some (f, n + 1)
          | none => some (u.decidedNum, 1)) ∧
        (u.miss < 63 → s'.beat.st = u.st) ∧ (63 ≤ u.miss → s'.beat.st = .holdover) ∧ s'.beat.num = u.num ∧ s'.beat.p16 = u.p16 ∧
        (s.dev.reg 0x10030 ≠ 0xFFFFFFFF → s'.dev.reg 0x10030 = s.dev.reg 0x10030 + 1))) ∧
    (u.fires = [] → exec (.beatBoundaryFire t) s = idle) ∧
    (∀ f r, u.fires = f :: r → f.tick ≤ t → u.fired = none → exec (.beatBoundaryFire t) s = .next { s with
      beat := { u with fires := r, fired := some f, out := (if u.outEn = true ∧ (u.outSyn = true ∨ f.conf = true) then some t else u.out) }, dev := s.dev.at t }) ∧
    (∀ f r, u.fires = f :: r → (t < f.tick ∨ u.fired ≠ none) → exec (.beatBoundaryFire t) s = idle) ∧
    (∀ b, u.out = some b → exec (.beatOutPulseEnd t) s =
      (if b + 1600 ≤ t then .next { s with beat := { u with out := none }, dev := s.dev.at t } else idle)) ∧
    (u.predicts = true → u.silent = false → 16 * u.lastAcc + 2 * u.p16 ≤ 16 * t → ∃ s', exec (.beatSilentTimeout t) s = .next s' ∧
      s'.beat = { u with silent := true } ∧ gotEvent s.dev s'.dev 16 (event s.clk 3 (4 * b2n u.fromLinks) 0 (if u.fromLinks then u.port.val else 0) 0 0)) ∧
    ((u.predicts = false ∨ u.silent = true ∨ 16 * t < 16 * u.lastAcc + 2 * u.p16) → exec (.beatSilentTimeout t) s = idle) ∧
    (u.powered = true → u.st = .unlocked → u.noLockSaid = false → u.enAt + 160000000 ≤ t → ∃ s', exec (.beatNoLockTimeout t) s = .next s' ∧
      s'.beat = { u with noLockSaid := true } ∧ gotEvent s.dev s'.dev 16 (event s.clk 1 (4 * b2n u.fromLinks) 0 (if u.fromLinks then u.port.val else 0) 0 0)) ∧
    ((u.powered = false ∨ u.st ≠ .unlocked ∨ u.noLockSaid = true ∨ t < u.enAt + 160000000) → exec (.beatNoLockTimeout t) s = idle)

/-- Edges teach, lock and track the beat; boundaries follow prediction and the windows of edges: the statements of EdgesLearnLockAndTrack, BoundariesFollowPredictionAndWindows together. -/
def Obligations.BeatsAreLearnedLockedAndPredicted : Prop :=
  EdgesLearnLockAndTrack ∧ BoundariesFollowPredictionAndWindows

/-- The writes of BEAT_CTRL. -/
def ctrlWrites : List (Path → Word → Nat → Instr) := [fun p v _ => .beatEnClear p v, .beatEnSet, fun p v _ => .beatSrcChange p v]

/-- R58 to R62: a write of BEAT_CTRL with SRC 0b11 is refused; any other sets the output bits, stops the unit where EN clears, starts learning where
EN sets, and otherwise changes the source at once or at the next boundary; BEAT_BASE is written only before a first lock. -/
def BeatControlWritesTakeEffect : Prop :=
  (∀ o ∈ ctrlWrites, ∀ (s : State) (path : Path) (v : Word) (t : Nat), let u := s.beat
    let x := BitVec.ofNat 2 (fld v 1 2)
    let same (s' : State) : Prop := s'.mem = s.mem ∧ s'.pending = s.pending ∧ s'.beat.outEn = flag v 3 ∧ s'.beat.outSyn = flag v 4 ∧ s'.beat.base = u.base ∧
      ({ s' with dev := { s'.dev with regs := s.dev.regs, evq := s.dev.evq, now := s.dev.now } } : State) = { s with beat := s'.beat }
    (reaches s.dev path 0x10000 = false → ∃ s', exec (o path v t) s = .next s' ∧ ({ s' with dev := { s'.dev with now := s.dev.now } } : State) = s) ∧
    (reaches s.dev path 0x10000 = true → fld v 1 2 = 3 → ∃ s', exec (o path v t) s = .next s' ∧ s'.beat = u ∧
      ∃ t', exec (o path v t) s = .next { s with dev := ({ s.dev with now := t' } : Dev).refuse path 0x10000 1 }) ∧
    (reaches s.dev path 0x10000 = true → fld v 1 2 ≠ 3 →
      (u.en = true → flag v 0 = false → ∃ s', exec (o path v t) s = .next s' ∧ same s' ∧ s'.beat.en = false ∧ s'.beat.st = .off ∧ s'.beat.fires = [] ∧
        s'.beat.counted = false ∧ s'.beat.out = none ∧ s'.beat.srcSel = x ∧ (s.dev.anyLive = true → s'.beat.num = u.num ∧ s'.beat.notch = u.notch) ∧
        (s.dev.anyLive = false → s'.beat.num = 0 ∧ s'.beat.notch = 0)) ∧
      (u.en = false → flag v 0 = true → u.powered = true → ∃ s', exec (o path v t) s = .next s' ∧ same s' ∧ s'.beat.en = true ∧ s'.beat.st = .unlocked ∧
        s'.beat.learn = none ∧ s'.beat.lastEdge = none ∧ s'.beat.num = u.num ∧ s'.beat.src = s'.beat.srcSel ∧ s'.beat.srcSel = x) ∧
      (u.en = false → flag v 0 = true → u.powered = false → ∃ s', exec (o path v t) s = .next s' ∧ same s' ∧ s'.beat.en = true) ∧
      (u.en = flag v 0 → x = u.srcSel → ∃ s', exec (o path v t) s = .next s' ∧ same s' ∧
        s'.beat = { u with outEn := flag v 3, outSyn := flag v 4, out := (if flag v 3 then u.out else none) }) ∧
      (u.en = flag v 0 → x ≠ u.srcSel → ∃ s', exec (o path v t) s = .next s' ∧ same s' ∧ s'.beat.srcSel = x ∧ s'.beat.st = u.st ∧ s'.beat.num = u.num ∧
        ((u.st = .locked ∨ u.st = .holdover) → s'.beat.src = u.src ∧ s'.beat.pendSrc = some x) ∧
        (u.st = .unlocked → s'.beat.src = x ∧ s'.beat.learn = none ∧ s'.beat.lastEdge = none)))) ∧
  ∀ (s : State) (path : Path) (hi : Bool) (v : Word), let u := s.beat
    (reaches s.dev path 0x10020 = false → exec (.beatBaseWrite path hi v) s = .next s) ∧
    (reaches s.dev path 0x10020 = true → ((u.st = .unlocked ∨ u.st = .off) ∧ u.num = 0) → ∃ s', exec (.beatBaseWrite path hi v) s = .next s' ∧
      s' = { s with beat := { u with base := s'.beat.base } } ∧
      s'.beat.base.extractLsb' 0 32 = (if hi then u.base.extractLsb' 0 32 else v) ∧
      s'.beat.base.extractLsb' 32 32 = (if hi then v else u.base.extractLsb' 32 32)) ∧
    (reaches s.dev path 0x10020 = true → ¬((u.st = .unlocked ∨ u.st = .off) ∧ u.num = 0) →
      exec (.beatBaseWrite path hi v) s = .next { s with dev := s.dev.refuse path (if hi then 0x10024 else 0x10020) 2 })

/-- R48, R50 to R52: a beat symbol is forwarded by a member with its hop counted and its latency added, and is taken as an edge after compensation, at
once where it is late; a beat-sync message makes the member skip or hold. -/
def BeatSymbolsAndSyncsReachMembers : Prop :=
  (∀ (s : State) (port : Fin 6) (sym : Bytes) (t : Nat), let u := s.beat
    ((symOk sym = false ∨ fieldAt sym 0 1 ≠ 1) → exec (.beatSymbol port sym t) s = .next { s with dev := s.dev.at t }) ∧
    (symOk sym = true → fieldAt sym 0 1 = 1 →
      let hop := fieldAt sym 1 1
      let lat := fieldAt sym 4 3 + fld (s.dev.reg (0xE0108 + 0x20 * port.val)) 0 24 + fieldAt sym 8 1
      let dl := cdiv ((if u.role = .member then u.delay else s.dev.regN 0x10028) * 8) 5
      ∃ s', exec (.beatSymbol port sym t) s = .next s' ∧
        s'.dev.toLink = s.dev.toLink ++ (if u.role = .member then
          (s.dev.upPorts.filter (fun p => p != port.val)).map (fun p => .sym p (beatSym (hop + 1) (fieldAt sym 2 2) lat (fieldAt sym 7 1) 0)) else []) ∧
        s'.mem = s.mem ∧ s'.pending = s.pending ∧ s'.beat.num = u.num ∧ s'.beat.notch = u.notch ∧ s'.beat.st = u.st ∧ s'.beat.fires = u.fires ∧
        (u.fromLinks = true → Sparse.get (fun _ => 0) s'.beat.portHops port.val = hop) ∧
        ((u.fromLinks = true ∧ (u.portHops = [] ∨ u.port = port) ∧ u.st ≠ .off ∧ u.powered = true) →
          s'.beat.comp = u.comp ++ [if lat ≤ dl then t + (dl - lat) else t] ∧
          (dl < lat → 1000 ≤ u.lateQuiet → gotEvent s.dev s'.dev 16
            (event s.clk 6 4 0 s'.beat.port.val (cdiv ((lat - dl) * 5) 8 % 2 ^ 32) 0))) ∧
        (¬(u.fromLinks = true ∧ (u.portHops = [] ∨ u.port = port) ∧ u.st ≠ .off ∧ u.powered = true) → s'.beat.comp = u.comp))) ∧
  (∀ (s : State) (port : Fin 6) (num : BitVec 64) (d : BitVec 16), let u := s.beat
    let next := u.numAhead (u.fires.length + (if u.fired.isSome then 1 else 0) + 1)
    let told (b : BeatUnit) (cause : Nat) : Prop := ∃ s', exec (.beatSync port num d) s = .next s' ∧ s'.beat = b ∧
      gotEvent s.dev s'.dev 16 (event s.clk 7 4 cause u.port.val 0 num.toNat)
    (u.fromLinks = false → exec (.beatSync port num d) s = .next s) ∧
    (u.fromLinks = true → num.toNat = next → exec (.beatSync port num d) s =
      .next { s with beat := { u with nextDelay := some d.toNat, skipTo := none, holdAt := none, ever := true } }) ∧
    (u.fromLinks = true → next < num.toNat → told { u with nextDelay := some d.toNat, skipTo := some num.toNat, holdAt := none } 0) ∧
    (u.fromLinks = true → num.toNat < next → told { u with nextDelay := some d.toNat, holdAt := some num.toNat, skipTo := none, ever := true } 1)) ∧
  ∀ (s : State) (t c l : Nat) (rest : List Nat), let u := s.beat
    u.powered = true → u.fromLinks = true → u.st = .unlocked → u.win = none → u.comp = c :: rest → c ≤ t → u.lastEdge = some l →
    (c - l < 8000 ∨ 1600000 < c - l) →
    exec (.beatEdge t) s = .next { s with beat := { u with comp := rest, lastEdge := some c, learn := none }, dev := s.dev.at t }

/-- Writes of the BEAT block take effect; beat symbols and syncs reach the members: the statements of BeatControlWritesTakeEffect, BeatSymbolsAndSyncsReachMembers together. -/
def Obligations.BeatControlAndBeatTransport : Prop :=
  BeatControlWritesTakeEffect ∧ BeatSymbolsAndSyncsReachMembers

/-- R39, R46, R47, R52, R328, R389: a notch begins at the first tick at or after B + k·P ÷ 1,024; a fired boundary issues the notches still due, then counts its beat;
at the beat, accounting windows begin. A free tick stands for a notch while none is counted. At either, a torn record is read again. -/
def Obligations.NotchesAndFreeTicksAdvance : Prop :=
  (∀ (s : State) (t : Nat), let u := s.beat
    let rereads (s' : State) : Prop := ∀ r < 256, s.dev.srEn r = true → (s.dev.sring r).err = false → (s.dev.sring r).torn = true →
      s.dev.partSt (r / 16) ≠ 3 → (s'.dev.sring r).reading = true
    let onward : Prop := ∃ s', exec (.notchBegin t) s = .next s' ∧ s'.beat = { u with notch := u.notch + 1 } ∧ s'.mem = s.mem ∧ s'.pending = s.pending ∧ rereads s'
    (u.fired = none → (u.counted = false ∨ u.predicts = false ∨ 1023 ≤ u.notch ∨ 16384 * t < 1024 * u.n16 + (u.notch + 1) * u.p16) →
      exec (.notchBegin t) s = .next { s with dev := s.dev.at t }) ∧
    (u.fired = none → u.counted = true → u.predicts = true → u.notch < 1023 → 1024 * u.n16 + (u.notch + 1) * u.p16 ≤ 16384 * t → onward) ∧
    ∀ f, u.fired = some f →
      (u.counted = true → u.notch < 1023 → onward) ∧
      (∀ m, (u.counted = true ∧ u.notch = 1023) → u.holdAt = some m → m < u.num + 1 →
        exec (.notchBegin t) s = .next { s with beat := { u with fired := none, holdAt := some (m + 1) }, dev := s.dev.at t }) ∧
      ((u.counted = false ∨ 1023 ≤ u.notch) → u.holdAt = none →
        (u.role ≠ .lead ∧ s.dev.net.swap = none ∧ s.dev.net.updates = []) →
        let n := match u.skipTo with
          | some x => x
          | none => if u.counted = true ∨ u.num ≠ 0 ∨ u.fromLinks = true then (u.num + 1) % 2 ^ 64 else u.base.toNat
        ∃ s', exec (.notchBegin t) s = .next s' ∧ s'.beat.num = n ∧ s'.beat.notch = 0 ∧ s'.beat.n16 = f.ph16 ∧ s'.beat.counted = true ∧
          (s'.beat.ever = true ↔ u.ever = true ∨ u.fromLinks = false ∨ u.skipTo ≠ none) ∧
          s'.beat.fired = none ∧ s'.beat.skipTo = none ∧ s'.beat.fires = u.fires ∧ s'.mem = s.mem ∧ s'.pending = s.pending ∧ rereads s' ∧
          ∀ p < 16, n % max 1 (fld (s.dev.reg (0x20000 + 0x1000 * p + 0x308)) 0 24) = 0 → ∀ c < 256, s'.dev.clientCnt p c 3 = 0)) ∧
  ∀ (s : State) (t : Nat),
    ((s.beat.counting = true ∨ s.dev.ready = false) → exec (.freeTick t) s = .next { s with dev := s.dev.at t }) ∧
    (s.beat.counting = false → s.dev.ready = true → ∃ s', exec (.freeTick t) s = .next s' ∧
      s'.dev.svc.telN = (if s.dev.svc.telN + 1 < 100000 then s.dev.svc.telN + 1 else 0) ∧ s'.mem = s.mem ∧ s'.beat = s.beat ∧ s'.pending = s.pending ∧
      ∀ r < 256, s.dev.srEn r = true → (s.dev.sring r).err = false → (s.dev.sring r).torn = true → s.dev.partSt (r / 16) ≠ 3 →
        (s'.dev.sring r).reading = true)

/-! ### The fabric state table, spares, wear and routes (R227 to R241, R495 to R504, R513, R518) -/

/-- The local tile of entry `i` of a die's map is active, under a logical number (R19). -/
def holdsNumber (d : Dev) (p l n : Nat) : Prop := d.mapState p l = 0 ∧ d.mapNum p l = n

/-- R496, R499, R500, R504: a state word is written under a generation staged for its path that matches the entry's, else the write is refused; a
working core is blazed, a spare taking over its logical number, and a blazed core is tested and returns (FST_RESULT while it is tested, and the order of refusals, are the
model's reading: log entry 70). -/
def CoreMapWritesBlazeAndReturnCores : Prop :=
  (∀ (s : State) (path : Path) (e : FstEntry) (v : Word), opens s.dev path (fstOff e + 4) →
    ∃ s', exec (.fstGenerationStage path e v) s = .next s' ∧ (s'.dev.stagedOk path (fstOff e) = true ↔ v.toNat = s.dev.regN (fstOff e + 4)) ∧
      ({ s' with dev := { s'.dev with staged := s.dev.staged } } : State) = s) ∧
  (∀ (s : State) (path : Path) (i : Fin 576) (v : Word), opens s.dev path (0x161000 + 8 * i.val) →
    let off := 0x161000 + 8 * i.val
    let p := (tileOfEntry i.val).1
    let l := (tileOfEntry i.val).2
    let st := s.dev.mapState p l
    let reason := Sparse.get (fun _ => 0) s.dev.reasons i.val
    let out := (st = 0 ∨ st = 1) ∧ fld v 0 2 = 2
    let back := st = 2 ∧ fld v 0 2 = 1 ∧ reason ≠ 4 ∧ reason ≠ 5
    ((out ∨ back) → s.dev.stagedOk path off = false →
      exec (.coreMapStateWrite path i v) s = .next { s with dev := (s.dev.refuse path off 4).setRegN 0x160018 1 }) ∧
    (s.dev.stagedOk path off = true → out → ∃ s', exec (.coreMapStateWrite path i v) s = .next s' ∧
      s'.dev.mapState p l = 2 ∧ s'.dev.reg (off + 4) = s.dev.reg (off + 4) + 1 ∧ Sparse.get (fun _ => 0) s'.dev.reasons i.val = 6 ∧
      s'.dev.reg 0x160018 = 0 ∧ s'.mem = s.mem ∧ s'.beat = s.beat ∧ s'.pending = s.pending ∧
      ∀ sp rest, st = 0 → s.dev.workingSpares p = sp :: rest → holdsNumber s'.dev p sp (s.dev.mapNum p l)) ∧
    (s.dev.stagedOk path off = true → back → i.val ∉ s.dev.testing →
      ∃ s', exec (.coreMapStateWrite path i v) s = .next s' ∧ s'.dev.testing = s.dev.testing ++ [i.val] ∧ s'.dev.mapState p l = 2 ∧
        s'.dev.reg (off + 4) = s.dev.reg (off + 4) + 1 ∧ s'.dev.reg 0x160018 = 5 ∧
        ({ s' with dev := { s'.dev with testing := s.dev.testing, regs := s.dev.regs, staged := s.dev.staged } } : State) = s) ∧
    (s.dev.stagedOk path off = true → back → i.val ∈ s.dev.testing →
      exec (.coreMapStateWrite path i v) s = .next { s with dev := (s.dev.refuse path off 4).setRegN 0x160018 5 }) ∧
    (¬out → ¬back → exec (.coreMapStateWrite path i v) s = .next { s with dev := (s.dev.refuse path off 2).setRegN 0x160018 2 })) ∧
  ∀ (s : State) (i : Fin 576), let p := (tileOfEntry i.val).1
    let l := (tileOfEntry i.val).2
    (i.val ∉ s.dev.testing → 576 + i.val ∉ s.dev.testing → ∀ pass, exec (.selfTestDone i pass) s = .next s) ∧
    (i.val ∉ s.dev.testing → 576 + i.val ∈ s.dev.testing →
      exec (.selfTestDone i true) s = .next { s with dev := { s.dev with testing := s.dev.testing.filter (· != 576 + i.val) } } ∧
      ∃ s', exec (.selfTestDone i false) s = .next s' ∧ 2 ≤ s'.dev.mapState p l ∧ s'.mem = s.mem ∧ s'.beat = s.beat) ∧
    (i.val ∈ s.dev.testing → exec (.selfTestDone i false) s = .next { s with dev :=
      ({ s.dev with testing := s.dev.testing.filter (· != i.val) } : Dev).setRegN 0x160018 3 }) ∧
    (i.val ∈ s.dev.testing → flag (s.dev.reg (0x161000 + 8 * i.val)) 2 = false → ∃ s', exec (.selfTestDone i true) s = .next s' ∧
      s'.dev.testing = s.dev.testing.filter (· != i.val) ∧ s'.dev.reg (0x166000 + 4 * i.val) = 0 ∧ s'.dev.reg 0x160018 = 0 ∧
      s'.dev.reg (0x161000 + 8 * i.val + 4) = s.dev.reg (0x161000 + 8 * i.val + 4) + 1 ∧
      (∀ n < 32, (∀ t < 36, t ≠ l → ¬holdsNumber s.dev p t n) → (∀ j < n, ∃ t < 36, t ≠ l ∧ holdsNumber s.dev p t j) → holdsNumber s'.dev p l n) ∧
      ((∀ n < 32, ∃ t < 36, t ≠ l ∧ holdsNumber s.dev p t n) → s'.dev.mapState p l = 1 ∧ s'.dev.mapNum p l = s.dev.freeSNo p) ∧
      s'.mem = s.mem ∧ s'.beat = s.beat ∧ s'.pending = s.pending ∧ s'.dev.cmds = s.dev.cmds)

/-- R495, R499, R502, R513, R518: a failed package is readmitted on the lead alone; a suspect count decays by one; a corrected entry error is noted, another
raises its generation and tests its core; and the counts go to the firmware store. -/
def TableDutiesKeepTheirCounts : Prop :=
  (∀ (s : State) (path : Path) (i : Fin 64) (v : Word), let off := 0x160800 + 8 * i.val
    opens s.dev path off → let st := fld (s.dev.reg off) 0 2
    (s.beat.role ≠ .lead → exec (.pkgStateWrite path i v) s = .next { s with dev := (s.dev.refuse path off 4).setRegN 0x160018 4 }) ∧
    (s.beat.role = .lead → (st = 2 ∨ st = 3) → fld v 0 2 = 0 → s.dev.stagedOk path off = false →
      exec (.pkgStateWrite path i v) s = .next { s with dev := (s.dev.refuse path off 4).setRegN 0x160018 1 }) ∧
    (s.beat.role = .lead → s.dev.stagedOk path off = true → (st = 2 ∨ st = 3) → fld v 0 2 = 0 → ∃ s', exec (.pkgStateWrite path i v) s = .next s' ∧
      fld (s'.dev.reg off) 0 2 = 0 ∧ s'.dev.reg (off + 4) = s.dev.reg (off + 4) + 1 ∧ s'.dev.reg 0x160018 = 0 ∧
      (∀ o, o ≠ off → o ≠ off + 4 → o ≠ 0x160018 → s'.dev.reg o = s.dev.reg o) ∧
      ({ s' with dev := { s'.dev with regs := s.dev.regs, staged := s.dev.staged } } : State) = s) ∧
    (s.beat.role = .lead → ¬((st = 2 ∨ st = 3) ∧ fld v 0 2 = 0) →
      exec (.pkgStateWrite path i v) s = .next { s with dev := (s.dev.refuse path off 2).setRegN 0x160018 2 })) ∧
  (∀ (s : State) (i : Fin 576), regNext (exec (.suspectDecay i) s) s
    (s.dev.withReg (0x166000 + 4 * i.val) (BitVec.ofNat 32 (s.dev.regN (0x166000 + 4 * i.val) - 1)))) ∧
  (∀ (s : State) (e : FstEntry), regNext (exec (.fstEntryError e true) s) s (s.dev.withReg 0x16001C (s.dev.reg 0x16001C ||| 1)) ∧
    ∃ s', exec (.fstEntryError e false) s = .next s' ∧ s'.dev.reg 0x16001C = s.dev.reg 0x16001C ||| 2 ∧
      s'.dev.reg (fstOff e + 4) = s.dev.reg (fstOff e + 4) + 1 ∧ (∀ i : Fin 576, e = .core i → 576 + i.val ∈ s'.dev.testing) ∧
      (∀ o, o ≠ 0x16001C → o ≠ fstOff e + 4 → s'.dev.reg o = s.dev.reg o) ∧
      ({ s' with dev := { s'.dev with regs := s.dev.regs, testing := s.dev.testing } } : State) = s) ∧
  ∀ s : State, ∃ s', exec .firmwareStoreSave s = .next s' ∧
    (∀ i < 576, Sparse.get (fun _ => 0) s'.dev.fwStress i = s.dev.reg64 (0x164000 + 8 * i) ∧
      Sparse.get (fun _ => 0) s'.dev.fwSuspect i = s.dev.regN (0x166000 + 4 * i)) ∧
    ({ s' with dev := { s'.dev with fwStress := s.dev.fwStress, fwSuspect := s.dev.fwSuspect } } : State) = s

/-- Management writes blaze and return cores; the duties over the fabric tables keep their counts: the statements of CoreMapWritesBlazeAndReturnCores, TableDutiesKeepTheirCounts together. -/
def Obligations.CoreMapAndTableDuties : Prop :=
  CoreMapWritesBlazeAndReturnCores ∧ TableDutiesKeepTheirCounts

/-- R239 to R241: the stress of every core in use grows by the weight of its die's state; an evaluation plans to swap a partition's most stressed active
core with its least stressed spare where they differ by the threshold; a swap exchanges their numbers in a wear window. -/
def WearRotatesStressedCores : Prop :=
  (∀ s : State, ∃ s', exec .stressTick s = .next s' ∧
    (∀ i < 576, let t := tileOfEntry i
      let ps := s.dev.dieState (i / 144)
      s'.dev.reg64 (0x164000 + 8 * i) = (if (s.dev.mapState t.1 t.2 = 0 ∨ (s.dev.core (36 * t.1 + t.2)).shadow ≠ none) ∧ ps < 4 ∧ s.dev.ready = true
        then (s.dev.reg64 (0x164000 + 8 * i) + (4 - ps)) % 2 ^ 64 else s.dev.reg64 (0x164000 + 8 * i))) ∧
    ({ s' with dev := { s'.dev with regs := s.dev.regs } } : State) = s) ∧
  (∀ s : State, let thr := s.dev.regN 0x160104
    (flag (s.dev.reg 0x160100) 0 = false → exec .wearEvaluate s = .next s) ∧
    (flag (s.dev.reg 0x160100) 0 = true → ∃ s', exec .wearEvaluate s = .next s' ∧ ({ s' with dev := { s'.dev with swaps := s.dev.swaps } } : State) = s ∧
      ∀ p < 16, let old := Sparse.get (fun _ => 0) s.dev.swaps p
        let new := Sparse.get (fun _ => 0) s'.dev.swaps p
        (old ≠ 0 → new = old) ∧
        (old = 0 → new = 0 → ∀ a ∈ s.dev.activeTiles p, ∀ b ∈ s.dev.workingSpares p, s.dev.stressOf p a < thr + s.dev.stressOf p b) ∧
        (old = 0 → new ≠ 0 → ∃ a ∈ s.dev.activeTiles p, ∃ b ∈ s.dev.workingSpares p, new = 64 * a + b + 1 ∧ thr + s.dev.stressOf p b ≤ s.dev.stressOf p a ∧
          (∀ x ∈ s.dev.activeTiles p, s.dev.stressOf p x ≤ s.dev.stressOf p a) ∧ ∀ x ∈ s.dev.workingSpares p, s.dev.stressOf p b ≤ s.dev.stressOf p x))) ∧
  ∀ (s : State) (p : Fin 16) (a b : Nat), Sparse.get (fun _ => 0) s.dev.swaps p.val = 64 * a + b + 1 → a < 36 → b < 36 →
    let free := s.winOpen 2 = true ∧ (s.dev.core (36 * p.val + a)).blocks = [] ∧ (s.dev.core (36 * p.val + b)).shadow = none ∧
      s.dev.mapState p.val a = 0 ∧ s.dev.mapState p.val b = 1
    (¬free → exec (.wearSwap p) s = .next s) ∧
    (free → ∃ s', exec (.wearSwap p) s = .next s' ∧ holdsNumber s'.dev p.val b (s.dev.mapNum p.val a) ∧
      s'.dev.mapState p.val a = 1 ∧ s'.dev.mapNum p.val a = s.dev.mapNum p.val b ∧ Sparse.get (fun _ => 0) s'.dev.swaps p.val = 0 ∧
      (s.dev.reg 0x160108 ≠ 0xFFFFFFFF → s'.dev.reg 0x160108 = s.dev.reg 0x160108 + 1) ∧
      (s'.dev.core (36 * p.val + b)).readyAt = s.dev.now + 3200 ∧
      ({ s' with dev := { s'.dev with regs := s.dev.regs, cores := s.dev.cores, cmds := s.dev.cmds, swaps := s.dev.swaps } } : State) = s)

/-- R227, R229, R231, R234: a flit is sent again up to eight times, each a corrected error of its commands; the next failure makes the link suspect and is told.
The routers of a suspect link are tested; a dead one is marked, its core is out of use and the routes of its die are computed anew, by the first of the XY and YX
routes and the least detour that avoids every dead router. -/
def MeshLinksRetryAndRoutesAvoidDeadRouters : Prop :=
  (∀ (s : State) (die : Fin 4) (a b : Nat) (cids : List Nat), let n := s.dev.retriesOf die.val a b
    (∃ s', exec (.meshFlitReceive die a b true cids) s = .next s' ∧ s'.dev.retriesOf die.val a b = 0 ∧
      ({ s' with dev := { s'.dev with linkRetry := s.dev.linkRetry } } : State) = s) ∧
    (n < 8 → ∃ s', exec (.meshFlitReceive die a b false cids) s = .next s' ∧ s'.dev.retriesOf die.val a b = n + 1 ∧
      (cids.Nodup → ∀ c x, s.dev.cmd c = some x → s'.dev.cmd c = some (if c ∈ cids then { x with chk := { x.chk with corrected := x.chk.corrected + 1 } } else x)) ∧
      ({ s' with dev := { s'.dev with linkRetry := s.dev.linkRetry, cmds := s.dev.cmds } } : State) = s) ∧
    (8 ≤ n → ∃ s', exec (.meshFlitReceive die a b false cids) s = .next s' ∧ s'.dev.retriesOf die.val a b = 0 ∧
      s'.dev.suspects = s.dev.suspects ++ [(die.val, a, b, cids)] ∧
      gotEvent s.dev s'.dev 16 (faultEvent s.clk 0x91 0 die.val (a % 2 ^ 16) 0 0 0))) ∧
  (∀ (s : State) (die : Fin 4) (a b : Fin 144) (lost : List Nat),
    (∀ fa fb, (∀ x ∈ s.dev.suspects, ¬(x.1 = die.val ∧ x.2.1 = a.val ∧ x.2.2.1 = b.val)) → exec (.routeReconfigure die a b fa fb lost) s = .next s) ∧
    ∀ cids, (die.val, a.val, b.val, cids) ∈ s.dev.suspects → (∀ x ∈ s.dev.suspects, x.1 = die.val → x.2.1 = a.val → x.2.2.1 = b.val → x.2.2.2 = cids) →
      (∃ s', exec (.routeReconfigure die a b false false lost) s = .next s' ∧ s'.dev.suspects = s.dev.suspects.filter (· != (die.val, a.val, b.val, cids)) ∧
        (cids = [] → ({ s' with dev := { s'.dev with suspects := s.dev.suspects } } : State) = s) ∧
        ∀ c x, cids = [c] → s.dev.cmd c = some x → x.ph.fellable = true → ∃ y, s'.dev.cmd c = some y ∧ y.ph = .felling) ∧
      ∃ s', exec (.routeReconfigure die a b true false lost) s = .next s' ∧ s'.dev.suspects = s.dev.suspects.filter (· != (die.val, a.val, b.val, cids)) ∧
        a.val ∈ s'.dev.deadRouters die.val ∧ fld (s'.dev.reg (0x160200 + 4 * die.val)) 0 8 = min 255 (s'.dev.deadRouters die.val).length ∧
        (let t := tileOfEntry (144 * die.val + a.val); s'.dev.mapState t.1 t.2 = 2 ∨ s'.dev.mapState t.1 t.2 = 3) ∧
        s'.mem = s.mem ∧ s'.beat = s.beat ∧ s'.pending = s.pending) ∧
  ∀ (dead : List Nat) (x y : Nat), x < 144 → y < 144 →
    (routeXY x y).head? = some x ∧ (routeXY x y).getLast? = some y ∧ (routeYX x y).head? = some x ∧ (routeYX x y).getLast? = some y ∧
    ((∀ t ∈ routeXY x y, t ∉ dead) → routeOf dead x y = some (0, 0)) ∧
    ((∃ t ∈ routeXY x y, t ∈ dead) → (∀ t ∈ routeYX x y, t ∉ dead) → routeOf dead x y = some (1, 0)) ∧
    ∀ m, routeOf dead x y = some (2, m) → m < 144 ∧ m ∉ dead ∧ (∀ t ∈ routeXY x m ++ routeXY m y, t ∉ dead) ∧
      ∀ i < 144, i ∉ dead → (∀ t ∈ routeXY x i ++ routeXY i y, t ∉ dead) → hops x m + hops m y ≤ hops x i + hops i y ∧
        (hops x m + hops m y = hops x i + hops i y → m ≤ i)

/-- Wear rotation swaps stressed cores; mesh links retry and routes avoid dead routers: the statements of WearRotatesStressedCores, MeshLinksRetryAndRoutesAvoidDeadRouters together. -/
def Obligations.WearAndTheMesh : Prop :=
  WearRotatesStressedCores ∧ MeshLinksRetryAndRoutesAvoidDeadRouters

/-! ### Collectives, their allocators, and the digest pass (R33, R63, R86, R407, R419, R434 to R445) -/

/-- The index by which an allocator takes requests of one cycle (R33). -/
def allocKey (a beat : Nat) (r : AllocReq) : Nat := let n := if a < 16 then 8 else 16
  (r.idx + n - beat % n) % n

/-- R33, R407, R439: an allocator serves its wait list in order, requests of one cycle from the index that the beat names, and grants the head once what it
asks for is free; a request that has waited its limit ends its collective, or its sequence, with resource-wait. -/
def AllocatorsServeInOrderAndTimeOut : Prop :=
  (∀ (x : Alloc) (a beat : Nat) (r : AllocReq) (rest : List AllocReq), (x.settle a beat).wait = r :: rest →
    r.new = false ∧ rest.length + 1 = x.wait.length ∧
    (∀ q, x.wait.find? (fun w => !w.new) = some q → r = q) ∧
    ((∀ w ∈ x.wait, w.new = true) → ∃ q ∈ x.wait, r = { q with new := false } ∧ ∀ w ∈ x.wait, allocKey a beat q ≤ allocKey a beat w)) ∧
  (∀ (s : State) (p : Fin 16) (frame : Bool), let a := if frame then 16 else p.val
    let id : AllocId := if frame then .frame else .landing p
    let x := (s.dev.alloc a).settle a s.beat.num
    (x.wait = [] → ∃ s', exec (.allocatorGrant id) s = .next s' ∧ s'.dev.alloc a = x ∧ ({ s' with dev := { s'.dev with allocs := s.dev.allocs } } : State) = s) ∧
    ∀ r rest, x.wait = r :: rest →
      (s.dev.allocFree a < r.n → ∃ s', exec (.allocatorGrant id) s = .next s' ∧ s'.dev.alloc a = x ∧
        ({ s' with dev := { s'.dev with allocs := s.dev.allocs } } : State) = s) ∧
      ∀ y c, r.n ≤ s.dev.allocFree a → s.dev.coll r.who = some y → s.dev.cmd r.who = some c → c.ph ≠ .running →
        ∃ s', exec (.allocatorGrant id) s = .next s' ∧ s'.dev.alloc a = { x with used := x.used + r.n, wait := rest } ∧
          s'.dev.coll r.who = some (if frame then { y with own := y.own.map (fun o => { o with frame := true }) } else { y with landing := true }) ∧
          ({ s' with dev := { s'.dev with allocs := s.dev.allocs, net := s.dev.net } } : State) = s) ∧
  (∀ (s : State) (p : Fin 16) (slot : Nat) (rest : List Nat) (q : Seq), let v := s.dev.srv p.val
    (v.wait = [] → exec (.allocatorGrant (.kv p)) s = .next s) ∧
    (v.wait = slot :: rest → v.seqs = [q] → q.slot = slot → q.admitted = true →
      (v.free.length < q.want → exec (.allocatorGrant (.kv p)) s = .next s) ∧
      (q.want ≤ v.free.length → ∃ s', exec (.allocatorGrant (.kv p)) s = .next s' ∧
        s'.dev.srv p.val = { v with wait := rest, free := v.free.drop q.want, seqs := [{ q with pages := q.pages ++ v.free.take q.want, want := 0 }] } ∧
        ({ s' with dev := { s'.dev with serve := s.dev.serve } } : State) = s))) ∧
  ∀ (s : State) (p : Fin 16) (frame : Bool) (who : Nat) (r : AllocReq), let a := if frame then 16 else p.val
    let id : AllocId := if frame then .frame else .landing p
    let limit := fld (s.dev.reg (if frame then 0xE001C else 0xE0018)) 0 8
    exec (.allocatorWaitTimeout (.kv p) who) s = .next (s.onDev (fun d => d.kvTimeout s.clk p.val who)) ∧
    ((s.dev.alloc a).wait.find? (fun w => w.who == who) = some r →
      (s.beat.num < r.since + limit → exec (.allocatorWaitTimeout id who) s = .next s) ∧
      ∀ y c, r.since + limit ≤ s.beat.num → s.dev.coll who = some y → s.dev.cmd who = some c →
        ∃ s' z, exec (.allocatorWaitTimeout id who) s = .next s' ∧ s'.dev.cmd who = some z ∧ z.ph = .felling ∧
          z.fellEnd = .complete 9 (if frame then 3 else 2) ∧ s'.dev.coll who = none ∧ s'.mem = s.mem ∧ s'.beat = s.beat ∧ s'.pending = s.pending)

/-- R63, R74, R83, R86, R374: a digest pass ends once every write of its command is performed; poison in the output or a copy that differs from its source is a
failed check; else the command takes the digests of its outputs into its receipt and commits. -/
def DigestPassesCheckThenCommit : Prop :=
  ∀ (s : State) (cid : Nat) (host : HostData) (c : Cmd), s.dev.cmd cid = some c → s.dev.coll cid = none → let out := s.dev.poisonIn c.outs
    let writes := (∃ x ∈ s.dev.stores, x.cid = cid) ∨ ∃ x ∈ s.dev.finals ++ s.dev.finalsQ, x.cid = cid
    let back (r : Range) : Nat := digest (readAny s.mem host r.addr r.len)
    let copied := c.op = 2 ∨ c.op = 3
    let fails (mech : Nat) : Prop := ∃ s' x, exec (.digestPassDone cid host) s = .next s' ∧ s'.dev.cmd cid = some x ∧ x.ph = .felling ∧ s'.mem = s.mem ∧
      x.fellEnd = (if fld (s.dev.reg 0x80000) 0 3 ≤ c.retries then .complete 4 mech else .requeue) ∧
      (s.dev.reg 0x80020 ≠ 0xFFFFFFFF → s'.dev.reg 0x80020 = s.dev.reg 0x80020 + 1)
    ((c.ph ≠ .digest ∨ writes) → exec (.digestPassDone cid host) s = .next s) ∧
    (c.ph = .digest → ¬writes → c.chk.zero = false → c.poisoned = false →
      (out.isSome = true → fails 2) ∧
      (∀ r rest, out = none → copied → c.outs = r :: rest → back r ≠ c.srcDig → fails 7) ∧
      (∀ r rest, out = none → c.kind = .descriptor → c.op ≠ 5 → c.op ≠ 6 → c.outs = r :: rest → (copied → back r = c.srcDig) →
        let dig := c.outs.foldl (fun n q => n ^^^ gfMul (back q) (bindElem q.handle q.role q.off)) 0
        ∃ s' x b, exec (.digestPassDone cid host) s = .next s' ∧ s'.dev.cmd cid = some x ∧ x.ph = .receipt ∧ x.outDig = dig ∧ x.rcpt = some b ∧
          fieldAt b 64 16 = dig % 2 ^ 128 ∧ x.rcptIdx = (s.dev.chain c.part).next ∧
          x.chk.cover = c.chk.cover ||| (if copied then 0x94 else if c.op = 1 ∨ c.op = 7 then 0x14 else 0) ∧
          s'.mem = s.mem ∧ s'.beat = s.beat ∧ s'.pending = s.pending)) ∧
    (c.ph = .digest → ¬writes → c.chk.zero = true → c.kind = .descriptor → ∃ s' x, exec (.digestPassDone cid host) s = .next s' ∧
      s'.dev.cmd cid = some x ∧ x.ph = .receipt ∧ x.rcptIdx = (s.dev.chain c.part).next ∧ s'.mem = s.mem)

/-- Collective resources are served in order or time out; digest passes check and then commit: the statements of AllocatorsServeInOrderAndTimeOut, DigestPassesCheckThenCommit together. -/
def Obligations.CollectiveAllocationAndDigestPasses : Prop :=
  AllocatorsServeInOrderAndTimeOut ∧ DigestPassesCheckThenCommit

/-- Nothing more to stage, to take up or to pull. -/
def Sys2Proof.Machine.Coll.quiet (x : Coll) : Prop :=
  x.chunks ≤ x.stage ∧ x.frames ≤ x.own.length ∧ (∀ o ∈ x.own, o.frame = true) ∧ ∀ o ∈ x.own, x.members.length ≤ o.pulled ∧ o.pulled ≤ o.added + 4

/-- R435 to R438, R443, R445: a collective stages up to four chunks of its input; a pull is answered with the staged contribution, whose place is then free; the
owner adds whole contributions in fixed member order, the first alone opening its accumulators, and takes no chunk of another signature. -/
def Obligations.CollectivesStageAndAddInMemberOrder : Prop :=
  (∀ (s : State) (cid : Nat) (host : HostData) (c : Cmd) (x : Coll), s.dev.cmd cid = some c → c.op = 5 → c.ph = .loaded → c.chk.zero = false →
    s.dev.coll cid = some x → x.landing = true → x.acts = false → x.own = [] → x.staged = [] → x.stage = 0 → s.dev.poison = [] → isHost x.inAddr = false →
    let n := min 4 x.chunks
    ∃ s', exec (.collective cid host) s = .next s' ∧ s'.dev.cmd cid = some { c with ph := .running } ∧
      s'.dev.coll cid = some { x with
        stage := n,
        staged := (List.range n).map (fun i => (i, readAny s.mem host (x.inAddr + i * x.per * x.width) (x.len i * x.width))) } ∧
      (∀ k, k ≠ cid → s'.dev.coll k = s.dev.coll k ∧ s'.dev.cmd k = s.dev.cmd k) ∧
      ({ s' with dev := { s'.dev with cmds := s.dev.cmds, net := s.dev.net, kiln := s.dev.kiln } } : State) = s) ∧
  (∀ (s : State) (port : Option (Fin 6)) (m : Msg) (x : Coll) (i : Nat) (bs : Bytes), let p := match port with
      | some q => q.val
      | none => 6
    let came := (s.dev.net.discards.contains (fieldAt m.hdr 6 2, fieldAt m.hdr 3 1 % 64))
    (came = true → exec (.pullMessage port m) s = .next (s.onDev (fun d => d.msgTaken p m))) ∧
    (came = false → s.dev.collAt (fieldAt m.hdr 6 2) (fieldAt m.hdr 4 1 / 16) = none → exec (.pullMessage port m) s = .next s) ∧
    (came = false → s.dev.collAt (fieldAt m.hdr 6 2) (fieldAt m.hdr 4 1 / 16) = some x → (∀ e ∈ x.staged, e.1 ≠ fieldAt m.hdr 8 8 % 2 ^ 27) →
      exec (.pullMessage port m) s = .next s) ∧
    (came = false → s.dev.net.colls = [x] → x.tag = fieldAt m.hdr 6 2 → x.code % 16 = fieldAt m.hdr 4 1 / 16 → x.staged = [(i, bs)] →
      i = fieldAt m.hdr 8 8 % 2 ^ 27 → x.quiet → x.own = [] → x.frames = 0 → fieldAt m.hdr 3 1 % 64 = s.dev.pkgId → 0 < bs.length → bs.length ≤ 208 →
      ∃ s' r, exec (.pullMessage port m) s = .next s' ∧ s'.dev.net.colls = [{ x with staged := [] }] ∧
        s'.dev.net.inbox = s.dev.net.inbox.erase (p, m) ++ [(6, r)] ∧ fieldAt r.hdr 0 1 = 3 ∧ fieldAt r.hdr 6 2 = x.tag % 2 ^ 16 ∧
        fieldAt r.hdr 8 4 = i ∧ r.data.take (bs.length + (if i = 0 then 16 else 0)) = (if i = 0 then x.lead else []) ++ bs ∧
        ({ s' with dev := { s'.dev with net := s.dev.net } } : State) = s)) ∧
  (∀ (x : Coll) (o : OwnChunk) (f : Nat → Bytes), x.members.Nodup → o.added = 0 →
    (∀ c ∈ x.members, o.whole c (x.len o.idx * x.width) = some (f c)) →
    let r := x.absorb x.members.length o
    r.added = x.members.length ∧ r.idx = o.idx ∧
      r.acc = (x.members.zip (List.range x.members.length)).foldl
        (fun a e => reduceStep x.fmt (decide (e.2 = 0)) a (elemsOf x.width (f e.1) (x.len o.idx))) o.acc) ∧
  ∀ (s : State) (port : Option (Fin 6)) (m : Msg) (x : Coll) (o : OwnChunk), let p := match port with
      | some q => q.val
      | none => 6
    let w := fieldAt m.hdr 8 8
    let i := w % 2 ^ 27
    let off := w / 2 ^ 48 % 2 ^ 12
    let came := s.dev.net.discards.contains (fieldAt m.hdr 6 2, fieldAt m.hdr 3 1 % 64)
    let head := i = 0 ∧ off = 0
    let part := (w / 2 ^ 32 % 2 ^ 16, off, if head then m.data.drop 16 else m.data)
    let next := x.absorb x.members.length { o with parts := o.parts ++ [part] }
    ((came = true ∨ s.dev.collOwner (fieldAt m.hdr 6 2) = none) → exec (.contributionMessage port m) s = .next (s.onDev (fun d => d.msgTaken p m))) ∧
    (came = false → s.dev.net.colls = [x] → x.tag = fieldAt m.hdr 6 2 → x.acts = true → x.own = [o] → o.idx = i → x.quiet →
      (head → m.data.take 16 ≠ x.lead → ∀ c, s.dev.cmd x.cid = some c → c.ph.fellable = true → ∃ s' y, exec (.contributionMessage port m) s = .next s' ∧
        s'.dev.cmd x.cid = some y ∧ y.ph = .felling ∧ y.fellEnd = .complete 4 5 ∧ s'.mem = s.mem) ∧
      (¬(head ∧ m.data.take 16 ≠ x.lead) → next.added < x.members.length → ∃ s', exec (.contributionMessage port m) s = .next s' ∧
        s'.dev.net.colls = [{ x with own := [next] }] ∧
        s'.dev.net.inbox = s.dev.net.inbox.erase (p, m) ∧ ({ s' with dev := { s'.dev with net := s.dev.net, kiln := s.dev.kiln } } : State) = s))

/-- R419, R440 to R442, R445: a write message is performed as a write of its stream, or discarded and counted; a collective's results count towards its
end; it commits once every member has passed and the coordinator says so, is felled by a fell notice, ends on a mismatch, and is timed out; a discard notice drops
what its source had sent. -/
def Obligations.ResultsAndNoticesEndCollectives : Prop :=
  (∀ (s : State) (port : Fin 6) (m : Msg) (t : Nat), let addr := fieldAt m.hdr 8 8
    let stream := fieldAt m.hdr 6 2 + 65536 * (fieldAt m.hdr 3 1 % 64)
    let lands (s' : State) (bs : Bytes) : Prop := exec (.writeMessage port m t) s = .next s' ∧
      s'.dev.landed (.hkl port) stream = s.dev.landed (.hkl port) stream + 1 ∧ (∀ a, readByte s'.mem a = withBytes (readByte s.mem) addr bs a) ∧
      s'.dev.net.inbox = s.dev.net.inbox.erase (port.val, m) ∧ s'.beat = s.beat ∧ s'.pending = s.pending
    (bitAt (fieldAt m.hdr 5 1) 0 = false → s.dev.net.colls = [] →
      ((isHost addr = true ∨ addr % 16 ≠ 0 ∨ m.data.length < 16 ∨ s.dev.homed addr = false ∨ s.dev.homed (addr + m.data.length - 1) = false) →
        ∃ s', exec (.writeMessage port m t) s = .next s' ∧ s'.mem = s.mem ∧ s'.dev.net.inbox = s.dev.net.inbox.erase (port.val, m) ∧
          (s.dev.reg 0xE0020 ≠ 0xFFFFFFFF → s'.dev.reg 0xE0020 = s.dev.reg 0xE0020 + 1) ∧
          ({ s' with dev := { s'.dev with regs := s.dev.regs, net := s.dev.net, now := s.dev.now } } : State) = s) ∧
      ((isHost addr = false ∧ addr % 16 = 0 ∧ 16 ≤ m.data.length ∧ s.dev.homed addr = true ∧ s.dev.homed (addr + m.data.length - 1) = true) →
        s.dev.finals = [] → s.dev.finalsQ = [] → (∀ n, (s.dev.dirEnt n).txn = none) → (∀ a, s.dev.sealedLine a = none) → ∃ s', lands s' m.data)) ∧
    ∀ x c, bitAt (fieldAt m.hdr 5 1) 0 = false → s.dev.net.colls = [x] → x.tag = fieldAt m.hdr 6 2 → x.code % 16 = fieldAt m.hdr 4 1 / 16 → x.outAddr ≤ addr →
      addr < x.outAddr + x.n * x.width → isHost addr = false → addr % 16 = 0 → 16 ≤ m.data.length →
      let bs := m.data.take (x.outAddr + x.n * x.width - addr)
      s.dev.homed addr = true → s.dev.homed (addr + bs.length - 1) = true → s.dev.cmd x.cid = some c → c.ph = .running →
      s.dev.finals = [] → s.dev.finalsQ = [] → (∀ n, (s.dev.dirEnt n).txn = none) → (∀ a, s.dev.sealedLine a = none) →
      ∃ s' y z, lands s' bs ∧ s'.dev.coll x.cid = some y ∧ y = { x with delivered := x.delivered + bs.length / max 1 x.width } ∧ s'.dev.cmd x.cid = some z ∧
        z.pos = min y.delivered x.n ∧ (z.ph = .digest ↔ x.n ≤ y.delivered ∧ min x.packages.length x.chunks ≤ x.shares.length)) ∧
  (∀ (s : State) (port : Option (Fin 6)) (m : Msg) (x : Coll) (c : Cmd), let p := match port with
      | some q => q.val
      | none => 6
    let taken : Host.Outcome State Fault Refusal := .next (s.onDev (fun d => d.msgTaken p m))
    let commits (o : Host.Outcome State Fault Refusal) : Prop := ∃ s' y, o = .next s' ∧ s'.dev.cmd x.cid = some y ∧ y.ph = .receipt ∧
      s'.dev.coll x.cid = none ∧ s'.mem = s.mem ∧ s'.beat = s.beat
    let member := 16 * (fieldAt m.hdr 3 1 % 64) + fieldAt m.hdr 4 1 % 16
    (s.dev.collAt (fieldAt m.hdr 9 2) (fieldAt m.hdr 4 1 / 16) = none → exec (.passNotice port m) s = taken ∧ exec (.commitNotice port m) s = taken ∧
      exec (.fellNotice port m) s = taken ∧ exec (.mismatchNotice port m) s = taken) ∧
    (s.dev.net.colls = [x] → x.tag = fieldAt m.hdr 9 2 → x.code % 16 = fieldAt m.hdr 4 1 / 16 → s.dev.cmd x.cid = some c → c.kind = .descriptor →
      ((∃ q ∈ x.members, q ≠ member ∧ q ∉ x.passes) → ∃ s', exec (.passNotice port m) s = .next s' ∧
        s'.dev.net.colls = [{ x with passes := x.passes ++ [member] }] ∧ ({ s' with dev := { s'.dev with net := s.dev.net } } : State) = s) ∧
      ((∀ q ∈ x.members, q = member ∨ q ∈ x.passes) → x.agreed = false → commits (exec (.passNotice port m) s)) ∧
      (x.passed = true → commits (exec (.commitNotice port m) s)) ∧
      (x.passed = false → ∃ s', exec (.commitNotice port m) s = .next s' ∧ s'.dev.net.colls = [{ x with agreed := true }] ∧
        ({ s' with dev := { s'.dev with net := s.dev.net } } : State) = s) ∧
      (c.ph.fellable = true → (∃ s' y, exec (.fellNotice port m) s = .next s' ∧ s'.dev.cmd x.cid = some y ∧ y.ph = .felling ∧ s'.dev.coll x.cid = none ∧
          gotEvent s.dev s'.dev c.part (event s.clk 0x65 0 1 (c.part % 16) (x.tag % 65536) c.tag) ∧
          (fld (s.dev.reg 0x80000) 0 3 ≤ c.retries → y.fellEnd = .complete 4 5) ∧
          (c.retries < fld (s.dev.reg 0x80000) 0 3 → y.fellEnd = .requeue ∧ y.retries = c.retries + 1 ∧ y.attempt = c.attempt + 1)) ∧
        ∃ s' y, exec (.mismatchNotice port m) s = .next s' ∧ s'.dev.cmd x.cid = some y ∧ y.ph = .felling ∧ y.fellEnd = .complete 4 5 ∧
          s'.dev.coll x.cid = none))) ∧
  (∀ (s : State) (cid : Nat) (x : Coll) (c : Cmd), let waits := (∃ o ∈ x.own, o.added < o.pulled) ∨ (x.passed = true ∧ x.agreed = false)
    (s.dev.coll cid = none → exec (.collectiveTimeout cid) s = .next s) ∧
    (s.dev.coll cid = some x → ¬waits → exec (.collectiveTimeout cid) s = .next s) ∧
    (s.dev.coll cid = some x → waits → s.dev.cmd cid = some c → c.ph.fellable = true → ∃ s' y, exec (.collectiveTimeout cid) s = .next s' ∧
      s'.dev.cmd cid = some y ∧ y.ph = .felling ∧ s'.dev.coll cid = none ∧ s'.mem = s.mem ∧
      (fld (s.dev.reg 0x80000) 0 3 ≤ c.retries → y.fellEnd = .complete 8 0) ∧ (c.retries < fld (s.dev.reg 0x80000) 0 3 → y.fellEnd = .requeue))) ∧
  ∀ (s : State),
    (∀ (port : Fin 6) (m : Msg) (t : Nat), let tag := fieldAt m.hdr 9 2
      let src := fieldAt m.hdr 3 1 % 64
      ∃ s', exec (.discardNotice port m t) s = .next s' ∧ (tag, src) ∈ s'.dev.net.discards ∧
        (∀ e, e ∈ s'.dev.net.discards ↔ e ∈ s.dev.net.discards ∨ e = (tag, src)) ∧
        s'.dev.finals = s.dev.finals.filter (fun x => x.stream ≠ tag + 65536 * src) ∧
        s'.dev.finalsQ = s.dev.finalsQ.filter (fun x => x.stream ≠ tag + 65536 * src) ∧
        (∀ e ∈ s'.dev.net.inbox, ¬(fieldAt e.2.hdr 6 2 = tag ∧ fieldAt e.2.hdr 3 1 % 64 = src ∧ (fieldAt e.2.hdr 0 1 = 2 ∨ fieldAt e.2.hdr 0 1 = 3))) ∧
        ({ s' with dev := { s'.dev with
          finals := s.dev.finals, finalsQ := s.dev.finalsQ, streams := s.dev.streams, net := s.dev.net, now := s.dev.now } } : State) = s) ∧
    ∀ (tag : BitVec 16) (src : BitVec 6), exec (.discardExpire tag src) s = .next { s with dev := { s.dev with
      net := { s.dev.net with discards := s.dev.net.discards.filter (fun x => x ≠ (tag.toNat, src.toNat)) } } }

/-! ### Links and the stand (R23 to R30, R413 to R433, R446, R447, R516 to R519) -/

/-- The writes of PORT_CTRL. -/
def portWrites : List (Path → Fin 6 → Word → Instr) := [.portEnable, .portRetrain]

/-- The last link of a member: this port is up or trains, and no other does. -/
def lastLink (s : State) (p : Nat) : Prop := s.beat.role = .member ∧ (s.dev.portSt p = 1 ∨ s.dev.portSt p = 2) ∧
  ∀ q : Fin 6, q.val ≠ p → s.dev.portSt q.val ≠ 1 ∧ s.dev.portSt q.val ≠ 2

/-- A port stops (log entry 68): the beat unit is as before, or the package runs as a stand of one where that was its last link. -/
def linkLost (s s' : State) (p : Nat) : Prop := (¬lastLink s p → s'.beat = s.beat) ∧ (lastLink s p → s'.beat.role = .alone)

/-- R25, R26, R29, R30, R413, R414: EN starts training and stops a port, RETRAIN trains it anew; a port that fails training stays down, the third failed retrain
within 1 s leaves it down; a far end that is not the one required holds it; a member that loses its last link runs as a stand of one (when a link counts as lost is
the model's choice, log entry 68); and of two leads that meet, the one of the higher ID joins the other's stand. -/
def PortsTrainRetrainAndMeetTheirNeighbour : Prop :=
  (∀ w ∈ portWrites, ∀ (s : State) (path : Path) (port : Fin 6) (v : Word), let p := port.val
    let off := 0xE0100 + 0x20 * p
    opens s.dev path off → let st := s.dev.portSt p
    let set : Prop := regNext (exec (w path port v) s) s (s.dev.withReg off (v &&& 1))
    let goes (n : Nat) (f : Port → Prop) : Prop := ∃ s', exec (w path port v) s = .next s' ∧ s'.dev.portSt p = n ∧ f (s'.dev.port p) ∧
      s'.dev.reg off = v &&& 1 ∧ s'.mem = s.mem ∧ (n = 1 → s'.beat = s.beat) ∧ (n = 0 → linkLost s s' p) ∧ s'.pending = s.pending
    (flag v 0 = false → st = 0 → set) ∧ (flag v 0 = false → st ≠ 0 → goes 0 (fun _ => True)) ∧
    (flag v 0 = true → s.dev.boot.links = false → set) ∧
    (flag v 0 = true → s.dev.boot.links = true → (flag (s.dev.reg off) 0 = false ∨ st = 4) → goes 1 (fun x => x.again = false ∧ x.fails = [])) ∧
    (flag v 0 = true → s.dev.boot.links = true → flag (s.dev.reg off) 0 = true → st ≠ 4 → flag v 1 = true →
      goes 1 (fun x => x.again = (decide (st = 2) || (s.dev.port p).again))) ∧
    (flag v 0 = true → s.dev.boot.links = true → flag (s.dev.reg off) 0 = true → st ≠ 4 → flag v 1 = false → set)) ∧
  (∀ (s : State) (port : Fin 6), let p := port.val
    let x := s.dev.port p
    let fails (t : Nat) := t :: x.fails.filter (fun f => decide (t < f + 1600000000))
    let failed (o : Host.Outcome State Fault Refusal) (t : Nat) : Prop := ∃ s', o = .next s' ∧
      (3 ≤ (fails t).length → s'.dev.portSt p = 4 ∧ (s'.dev.port p).fails = [] ∧ linkLost s s' p) ∧
      ((fails t).length < 3 → s'.dev.portSt p = 1 ∧ s'.dev.port p = { x with fails := fails t } ∧ s'.beat = s.beat) ∧ s'.mem = s.mem
    (s.dev.portSt p ≠ 1 → exec (.linkTrainingTimeout port) s = .next s) ∧
    (s.dev.portSt p = 1 → x.again = true → failed (exec (.linkTrainingTimeout port) s) s.dev.now) ∧
    (s.dev.portSt p = 1 → x.again = false → s.beat.role = .lead → s.dev.neighbour p = none →
      regNext (exec (.linkTrainingTimeout port) s) s (s.dev.withReg (0xE0104 + 0x20 * p) 0)) ∧
    (s.dev.portSt p = 1 → x.again = false → (s.beat.role ≠ .lead ∨ s.dev.neighbour p ≠ none) → ∃ s', exec (.linkTrainingTimeout port) s = .next s' ∧
      s'.dev.portSt p = 0 ∧ (¬lastLink s p → gotEvent s.dev s'.dev 16 (event s.clk 0x60 0 0 p 0 0)) ∧ s'.mem = s.mem ∧ linkLost s s' p) ∧
    ∀ t, (s.dev.portSt p = 2 → ∃ s', exec (.hklPortDown port t) s = .next s' ∧ s'.dev.portSt p = 1 ∧ (s'.dev.port p).again = true ∧
        (s'.dev.port p).sent = [] ∧ (s'.dev.port p).tx = 1 ∧ s'.mem = s.mem ∧ s'.beat = s.beat) ∧
      (s.dev.portSt p = 1 → x.again = true → failed (exec (.hklPortDown port t) s) t) ∧
      (s.dev.portSt p ≠ 2 → (s.dev.portSt p ≠ 1 ∨ x.again = false) → exec (.hklPortDown port t) s = .next { s with dev := s.dev.at t })) ∧
  ∀ (s : State) (port : Fin 6) (far : BitVec 6) (farPort : BitVec 3) (lanes : Nat) (lead : Bool), let p := port.val
    let o := exec (.hklIdentityExchange port far farPort lanes lead) s
    (s.dev.portSt p ≠ 1 → o = .next s) ∧
    (s.dev.portSt p = 1 → s.cabled p far.toNat farPort.toNat = false → ∃ s', o = .next s' ∧ s'.dev.portSt p = 3 ∧ s'.mem = s.mem ∧ linkLost s s' p) ∧
    (s.dev.portSt p = 1 → s.cabled p far.toNat farPort.toNat = true → lanes < 16 → ∃ s', o = .next s' ∧
      s'.dev.reg (0xE0104 + 0x20 * p) = BitVec.ofNat 32 (2 + 16 * lanes + 256 * far.toNat + 65536 * farPort.toNat) ∧ (s'.dev.port p).again = false ∧
      (lead = false → s'.beat = s.beat) ∧
      (lead = true → s.beat.role = .lead → far.toNat < s.dev.pkgId → s'.beat.role = .member ∧ s'.dev.leadId = far.toNat ∧ flag (s'.dev.reg 0xE000C) 2 = true) ∧
      (lead = true → s.beat.role = .lead → s.dev.pkgId ≤ far.toNat → s'.beat = s.beat) ∧
      (lead = true → s.beat.role ≠ .lead → s'.beat = s.beat ∧ s'.dev.leadId = far.toNat ∧ s'.dev.net.leadSeen = true) ∧
      s'.mem = s.mem ∧ s'.pending = s.pending)

/-- R415 to R419: a flit whose CRC is bad is answered with a NAK; acknowledged flits leave the replay buffer; a flit in order delivers its messages and is acknowledged,
another delivers nothing; a replay sends every flit of the buffer again, and one that has been sent again eight times takes the port down. -/
def Obligations.FlitsAreCheckedAcknowledgedAndReplayed : Prop :=
  (∀ (s : State) (port : Fin 6) (flit : Bytes), let p := port.val
    let x := s.dev.port p
    let good := fieldAt flit 248 8 = crc64 (flit.take 248)
    let w := fieldAt flit 0 2
    let a := fieldAt flit 2 2
    let sent := if x.sent.any (fun f => f.seq == a % 4096) then (x.sent.dropWhile (fun f => f.seq != a % 4096)).drop 1 else x.sent
    let frame (s' : State) : Prop := ({ s' with dev := { s'.dev with net := s.dev.net, toLink := s.dev.toLink, kiln := s.dev.kiln } } : State) = s
    (s.dev.portSt p ≠ 2 → exec (.hklFlitReceive port flit) s = .next s) ∧
    (s.dev.portSt p = 2 → ¬good → ∃ s', exec (.hklFlitReceive port flit) s = .next s' ∧
      s'.dev.toLink = s.dev.toLink ++ [.note p (flitOf 0 0 x.rx true [])] ∧ s'.dev.net = s.dev.net ∧ frame s') ∧
    (s.dev.portSt p = 2 → good → bitAt a 12 = false → x.queue = [] →
      (w / 4096 ≠ 1 → ∃ s', exec (.hklFlitReceive port flit) s = .next s' ∧ s'.dev.port p = { x with sent := sent } ∧ s'.dev.toLink = s.dev.toLink ∧
        s'.dev.net.inbox = s.dev.net.inbox ∧ frame s') ∧
      (w / 4096 = 1 → w % 4096 ≠ (x.rx + 1) % 4096 → ∃ s', exec (.hklFlitReceive port flit) s = .next s' ∧ s'.dev.port p = { x with sent := sent } ∧
        s'.dev.toLink = s.dev.toLink ++ [.note p (flitOf 0 0 x.rx (decide ((w % 4096 + 4096 - x.rx) % 4096 < 2048) && decide (w % 4096 ≠ x.rx)) [])] ∧
        s'.dev.net.inbox = s.dev.net.inbox ∧ frame s') ∧
      (w / 4096 = 1 → w % 4096 = (x.rx + 1) % 4096 → let r := messagesOf 15 ((flit.drop 8).take 240)
        r.2 = 0 → (∀ m ∈ r.1, fieldAt m.hdr 2 1 % 64 = s.dev.pkgId ∧ ¬(fieldAt m.hdr 0 1 = 4 ∧ (fieldAt m.hdr 8 1 = 0 ∨ 7 < fieldAt m.hdr 8 1))) →
        ∃ s', exec (.hklFlitReceive port flit) s = .next s' ∧ s'.dev.port p = { x with sent := sent, rx := w % 4096 } ∧
          s'.dev.toLink = s.dev.toLink ++ [.note p (flitOf 0 0 (w % 4096) false [])] ∧
          s'.dev.net.inbox = s.dev.net.inbox ++ r.1.map (fun m => (p, m)) ∧ frame s'))) ∧
  (∀ m : Msg, m.hdr.length = 16 → m.data.length = 16 * (fieldAt m.hdr 1 1 % 16) → 1 ≤ fieldAt m.hdr 0 1 → fieldAt m.hdr 0 1 ≤ 4 → m.data.length ≤ 224 →
    messagesOf 15 (padTo 240 (msgBytes m)) = ([m], 0)) ∧
  ∀ (s : State) (port : Fin 6), let p := port.val
    let x := s.dev.port p
    (s.dev.portSt p ≠ 2 → exec (.flitReplayTimeout port) s = .next s) ∧
    (s.dev.portSt p = 2 → (∃ f ∈ x.sent, 8 ≤ f.tries) → ∃ s', exec (.flitReplayTimeout port) s = .next s' ∧ s'.dev.portSt p = 1 ∧
      (s'.dev.port p).again = true ∧ (s'.dev.port p).sent = [] ∧ s'.mem = s.mem ∧ s'.beat = s.beat) ∧
    (s.dev.portSt p = 2 → (∀ f ∈ x.sent, f.tries < 8) → ∃ s', exec (.flitReplayTimeout port) s = .next s' ∧
      s'.dev.port p = { x with sent := x.sent.map (fun f => { f with tries := f.tries + 1 }) } ∧
      s'.dev.toLink = s.dev.toLink ++ x.sent.map (fun f => .note p f.bytes) ∧
      (∀ c y, s.dev.cmd c = some y → c ≠ 2 ^ 64 → ∃ z, s'.dev.cmd c = some z ∧
        z.chk.corrected = y.chk.corrected + (x.sent.filter (fun f => f.cid == some c)).length) ∧
      ({ s' with dev := { s'.dev with net := s.dev.net, toLink := s.dev.toLink, kiln := s.dev.kiln, cmds := s.dev.cmds, regs := s.dev.regs } } : State) = s)

/-- R420, R421: a probe is answered with an echo that carries its time and the turnaround; an echo of a probe sent adds a value to the hop latency, the mean of the
last 8 of half the round trip less the turnaround; and every up port sends probes. -/
def ProbesMeasureTheHopLatency : Prop :=
  ∀ (s : State) (port : Fin 6) (sym : Bytes) (t : Nat), let p := port.val
    let x := s.dev.port p
    let asked := symOk sym = true ∧ fieldAt sym 0 1 = 2 ∧ s.dev.portSt p = 2
    let known := symOk sym = true ∧ fieldAt sym 0 1 = 3 ∧ fieldAt sym 9 4 ∈ x.probes
    let lat := (((t % 2 ^ 32 + 2 ^ 32 - fieldAt sym 9 4) % 2 ^ 32 - fieldAt sym 13 1) :: x.lat).take 8
    (∀ depart, (asked → ∃ s' r, exec (.probe port sym t depart) s = .next s' ∧ s'.dev.toLink = s.dev.toLink ++ [.sym p r] ∧ symOk r = true ∧ fieldAt r 0 1 = 3 ∧
        fieldAt r 9 4 = fieldAt sym 9 4 ∧ fieldAt r 13 1 = (depart - t) % 256 ∧
        ({ s' with dev := { s'.dev with toLink := s.dev.toLink, now := s.dev.now } } : State) = s) ∧
      (¬asked → exec (.probe port sym t depart) s = .next { s with dev := s.dev.at t })) ∧
    (known → ∃ s', exec (.echo port sym t) s = .next s' ∧ s'.dev.port p = { x with lat := lat, probes := x.probes.filter (· != fieldAt sym 9 4) } ∧
      (∀ o, s'.dev.reg o = s.dev.withReg (0xE0108 + 0x20 * p) (BitVec.ofNat 32 (lat.sum / (2 * lat.length) % 2 ^ 24)) o) ∧
      ({ s' with dev := { s'.dev with net := s.dev.net, regs := s.dev.regs, now := s.dev.now } } : State) = s) ∧
    (¬known → exec (.echo port sym t) s = .next { s with dev := s.dev.at t }) ∧
    ∃ s', exec (.probeTimer t) s = .next s' ∧
      (∃ ms : List LinkOut, s'.dev.toLink = s.dev.toLink ++ ms ∧ ms.length = s.dev.upPorts.length ∧
        ∀ m ∈ ms, ∃ q r, m = .sym q r ∧ q ∈ s.dev.upPorts ∧ symOk r = true ∧ fieldAt r 0 1 = 2 ∧ fieldAt r 9 4 = t % 2 ^ 32) ∧
      (∀ q, s'.dev.port q = (if q ∈ s.dev.upPorts then { s.dev.port q with probes := (s.dev.port q).probes ++ [t % 2 ^ 32] } else s.dev.port q)) ∧
      ({ s' with dev := { s'.dev with net := s.dev.net, toLink := s.dev.toLink, now := s.dev.now } } : State) = s

/-- Ports train, retrain and meet their neighbour; probes measure the hop latency: the statements of PortsTrainRetrainAndMeetTheirNeighbour, ProbesMeasureTheHopLatency together. -/
def Obligations.PortsTrainAndMeasureTheirLinks : Prop :=
  PortsTrainRetrainAndMeetTheirNeighbour ∧ ProbesMeasureTheHopLatency

/-- R27, R30, R516 to R518: the lead admits a package of its shape that is not on the roster, and tells of another; without a lead a package goes on alone; a roster
message answers a round or departs on the lead, and on a member joins it or moves an entry. -/
def TheRosterFollowsItsMessages : Prop :=
  (∀ (s : State) (id : BitVec 6), let p := id.toNat
    ((s.beat.role ≠ .lead ∨ s.dev.net.swap.isSome = true ∨ p = s.dev.pkgId) → exec (.standAdmit id) s = .next s) ∧
    (s.beat.role = .lead → s.dev.net.swap = none → p ≠ s.dev.pkgId →
      (s.dev.inShape p = true → s.dev.pkgState p = 0 → ∃ s', exec (.standAdmit id) s = .next s' ∧ s'.dev.pkgState p = 1 ∧
        s'.dev.reg (0x160804 + 8 * p) = s.dev.reg (0x160804 + 8 * p) + 1 ∧ p ∈ s'.dev.net.answered ∧ s'.beat = s.beat ∧ s'.mem = s.mem ∧
        fld (s'.dev.reg 0xE000C) 16 7 = ((List.range 64).filter s'.dev.onRoster).length) ∧
      ((s.dev.inShape p = false ∨ s.dev.pkgState p ≠ 0) → ∃ s', exec (.standAdmit id) s = .next s' ∧ s'.dev.pkgState p = s.dev.pkgState p ∧
        (s.dev.inShape p = true → gotEvent s.dev s'.dev 16 (event s.clk 0x62 0 0 0 p 0)) ∧ s'.beat = s.beat ∧ s'.mem = s.mem ∧ s'.dev.net.answered = s.dev.net.answered))) ∧
  (∀ s : State, let alone := s.beat.role = .alone ∧ s.dev.net.leadSeen = false ∧ s.dev.upPorts ≠ [] ∧ flag (s.dev.reg 0xE000C) 1 = false
    (alone → ∃ s', exec .noLeadTimeout s = .next s' ∧ flag (s'.dev.reg 0xE000C) 1 = true ∧ gotEvent s.dev s'.dev 16 (event s.clk 0x63 0 1 0 0 0) ∧
      s'.beat = s.beat ∧ s'.mem = s.mem ∧ s'.dev.net = s.dev.net) ∧
    (¬alone → exec .noLeadTimeout s = .next s)) ∧
  ∀ (s : State) (port : Fin 6) (m : Msg) (q st : Nat), let src := fieldAt m.hdr 3 1 % 64
    let taken : Host.Outcome State Fault Refusal := .next (s.onDev (fun d => d.msgTaken port.val m))
    (s.beat.role = .lead → (src, 3) ∉ rosterEntries m → ((src, 1) ∉ rosterEntries m ∨ fieldAt m.hdr 9 1 % 4 ≠ 0) → exec (.rosterMessage port m) s = taken) ∧
    (s.beat.role = .lead → (src, 3) ∉ rosterEntries m → (src, 1) ∈ rosterEntries m → fieldAt m.hdr 9 1 % 4 = 0 → ∃ s', exec (.rosterMessage port m) s = .next s' ∧
      src ∈ s'.dev.net.answered ∧ s'.dev.net.inbox = s.dev.net.inbox.erase (port.val, m) ∧ ({ s' with dev := { s'.dev with net := s.dev.net } } : State) = s) ∧
    (s.beat.role = .lead → (src, 3) ∈ rosterEntries m → s.dev.pkgState src = 1 → ∃ s', exec (.rosterMessage port m) s = .next s' ∧
      s'.dev.pkgState src = 3 ∧ s'.dev.reg (0x160804 + 8 * src) = s.dev.reg (0x160804 + 8 * src) + 1 ∧ s'.beat = s.beat ∧ s'.mem = s.mem) ∧
    (s.beat.role ≠ .lead → rosterEntries m = [(q, st)] → q < 64 → bitAt (fieldAt m.hdr 9 1) 1 = false → q ≠ s.dev.pkgId → ∃ s', exec (.rosterMessage port m) s = .next s' ∧
      s'.dev.pkgState q = st ∧ s'.beat = s.beat ∧ s'.mem = s.mem ∧ s'.dev.net.inbox = s.dev.net.inbox.erase (port.val, m) ∧
      ({ s' with dev := { s'.dev with net := s.dev.net, regs := s.dev.regs } } : State) = s) ∧
    (s.beat.role ≠ .lead → rosterEntries m = [(q, 1)] → q = s.dev.pkgId → fieldAt m.hdr 9 1 % 4 = 1 → ∃ s', exec (.rosterMessage port m) s = .next s' ∧
      s'.beat.role = .member ∧ s'.dev.leadId = src ∧ s'.dev.pkgState q = 1 ∧ s'.dev.net.leadSeen = true ∧ s'.mem = s.mem)

/-- R426 to R428: a handover is asked for by the lead or of it, never two at once; the lead takes a beat's requests; the state goes over in parts and its digest comes back;
100 ms without it end the handover; and at the swap beat the roles change. -/
def Obligations.LeadHandoversFollowTheirSteps : Prop :=
  (∀ (s : State) (path : Path) (v : Word), opens s.dev path 0xE0010 → let q := fld v 0 6
    let busy := s.dev.net.swap.isSome = true ∨ fld (s.dev.reg 0xE0014) 0 3 = 1
    let bad := q = s.dev.pkgId ∨ s.dev.onRoster q = false ∨ (s.beat.role ≠ .lead ∧ (s.beat.role = .alone ∨ q ≠ s.dev.leadId))
    (flag v 8 = false → exec (.leadSwap path v) s = .next s) ∧
    (flag v 8 = true → busy → exec (.leadSwap path v) s = .next (s.onDev (fun d => d.refuse path 0xE0010 2))) ∧
    (flag v 8 = true → ¬busy → bad → exec (.leadSwap path v) s = .next (s.onDev (fun d => (d.setRegN 0xE0014 5).refuse path 0xE0010 2))) ∧
    (flag v 8 = true → ¬busy → ¬bad → ∃ s', exec (.leadSwap path v) s = .next s' ∧ s'.dev.reg 0xE0014 = 1 ∧ s'.beat = s.beat ∧ s'.mem = s.mem ∧
      (s.beat.role = .lead → s'.dev.net = { s.dev.net with requests := s.dev.net.requests ++ [(s.dev.pkgId, q)], reqBeat := s.beat.num }) ∧
      (s.beat.role ≠ .lead → s'.dev.net.requests = s.dev.net.requests))) ∧
  (∀ (s : State) (port : Option (Fin 6)) (m : Msg), let r := (fieldAt m.hdr 9 1 % 64, fieldAt m.hdr 10 1 % 64)
    let d := s.dev.msgTaken (match port with
      | some q => q.val
      | none => 6) m
    (s.beat.role = .lead → s.dev.net.swap = none → exec (.swapRequest port m) s =
      .next { s with dev := { d with net := { d.net with requests := d.net.requests ++ [r], reqBeat := s.beat.num } } }) ∧
    (∀ w, s.beat.role = .lead → s.dev.net.swap = some w → r = (s.dev.pkgId, w.other) → ∃ s', exec (.swapRequest port m) s = .next s' ∧
      s'.dev.net.swap = none ∧ s'.dev.reg 0xE0014 = 6 ∧ gotEvent s.dev s'.dev 16 (event s.clk 0x63 0 5 0 (w.other % 65536) 0)) ∧
    (∀ w, s.beat.role = .lead → s.dev.net.swap = some w → r.1 ≠ s.dev.pkgId → ∃ s', exec (.swapRequest port m) s = .next s' ∧
      s'.dev.net.swap = some w ∧ s'.dev.net.requests = s.dev.net.requests ∧ s'.beat = s.beat ∧ s'.mem = s.mem) ∧
    (s.beat.role ≠ .lead → r.1 = s.dev.pkgId → fld (s.dev.reg 0xE0014) 0 3 = 1 → s.dev.net.swap = none → ∃ s', exec (.swapRequest port m) s = .next s' ∧
      s'.dev.reg 0xE0014 = 3 ∧ gotEvent s.dev s'.dev 16 (event s.clk 0x63 0 3 0 r.2 0)) ∧
    (s.beat.role ≠ .lead → ¬(r.1 = s.dev.pkgId ∧ fld (s.dev.reg 0xE0014) 0 3 = 1 ∧ s.dev.net.swap = none) → exec (.swapRequest port m) s = .next { s with dev := d })) ∧
  (∀ (s : State) (port : Fin 6) (m : Msg), let src := fieldAt m.hdr 3 1 % 64
    ((s.beat.role ≠ .member ∨ src ≠ s.dev.leadId) → exec (.swapState port m) s = .next (s.onDev (fun d => d.msgTaken port.val m))) ∧
    (s.beat.role = .member → src = s.dev.leadId → s.dev.net.swap = none → ∃ s' w, exec (.swapState port m) s = .next s' ∧ s'.dev.net.swap = some w ∧
      w.isA = false ∧ w.other = src ∧ w.parts = [(fieldAt m.hdr 9 1, m.data)] ∧ (w.agreed = true ↔ fieldAt m.data 0 4 ≤ m.data.length) ∧
      s'.dev.reg 0xE0014 = 1 ∧ s'.beat = s.beat ∧ s'.mem = s.mem) ∧
    (∀ w, s.beat.role = .member → src = s.dev.leadId → s.dev.net.swap = some w → ∃ s' x, exec (.swapState port m) s = .next s' ∧ s'.dev.net.swap = some x ∧
      x.parts = w.parts ++ [(fieldAt m.hdr 9 1, m.data)] ∧ x.beat = w.beat ∧
      (x.agreed = true ↔ w.agreed = true ∨ fieldAt (x.parts.flatMap (·.2)) 0 4 ≤ (x.parts.flatMap (·.2)).length))) ∧
  (∀ (s : State), (∀ g, (s.dev.net.swap = none → exec (.swapStateDigest g) s = .next s) ∧
      ∀ w, s.dev.net.swap = some w → (w.isA = true ∧ digest w.sent = g.toNat → exec (.swapStateDigest g) s =
        .next { s with dev := { s.dev with net := { s.dev.net with swap := some { w with agreed := true } } } }) ∧
        (¬(w.isA = true ∧ digest w.sent = g.toNat) → exec (.swapStateDigest g) s = .next s)) ∧
    (∀ w, s.dev.net.swap = some w → (w.agreed = true → exec .swapTimeout s = .next s) ∧
      (w.agreed = false → ∃ s', exec .swapTimeout s = .next s' ∧ s'.dev.net.swap = none ∧ s'.dev.reg 0xE0014 = 4 ∧
        gotEvent s.dev s'.dev 16 (event s.clk 0x63 0 4 0 (w.other % 65536) 0))) ∧
    (s.dev.net.swap = none → fld (s.dev.reg 0xE0014) 0 3 ≠ 1 → exec .swapTimeout s = .next s) ∧
    (s.dev.net.swap = none → fld (s.dev.reg 0xE0014) 0 3 = 1 → ∃ s', exec .swapTimeout s = .next s' ∧ s'.dev.reg 0xE0014 = 4 ∧
      s'.dev.net = { s.dev.net with requests := [] } ∧ s'.beat = s.beat)) ∧
  ∀ (s : State) (t : Nat) (f : Fire) (w : Swap), let u := s.beat
    u.fired = some f → u.counted = true → 1023 ≤ u.notch → u.holdAt = none → u.skipTo = none → s.dev.net.swap = some w → w.agreed = true →
    w.beat = (u.num + 1) % 2 ^ 64 → s.dev.net.updates = [] → s.dev.net.requests = [] →
    (w.isA = true → ∃ s', exec (.notchBegin t) s = .next s' ∧ s'.beat.role = .member ∧ s'.dev.net.swap = none ∧ s'.beat.num = w.beat) ∧
    (w.isA = false → ∀ p16, w.p16 = some p16 → ∃ s', exec (.notchBegin t) s = .next s' ∧ s'.beat.role = .lead ∧ s'.beat.p16 = p16 ∧
      s'.dev.net.swap = none ∧ s'.beat.num = w.beat)

/-- R429, R432, R433, R447: the staged entry is written on the lead at the generation it names, whole and on the roster, to take effect 16 beats later; a read brings an
entry to staging; and a member gathers an update part by part. -/
def GroupEntriesAreWrittenReadAndUpdated : Prop :=
  (∀ (s : State) (path : Path), opens s.dev path 0xE1018 → let g := s.dev.stagedGroup
    let old := s.dev.grpLatest g.1
    let code := if s.beat.role ≠ .lead ∨ s.dev.net.swap.isSome = true then 2
      else if s.dev.groupFault g.1 g.2 = 5 ∨ s.dev.groupFault g.1 g.2 = 3 then s.dev.groupFault g.1 g.2
      else if s.dev.reg 0xE1004 ≠ BitVec.ofNat 32 old.gen then 1 else s.dev.groupFault g.1 g.2
    (code = 0 → ∃ s', exec (.groupWrite path) s = .next s' ∧ s'.dev.reg 0xE101C = 0 ∧ s'.beat = s.beat ∧ s'.mem = s.mem ∧
      s'.dev.net.updates = s.dev.net.updates ++ [(g.1, { g.2 with gen := (old.gen + 1) % 2 ^ 32 }, s.beat.num + 16)] ∧ s'.dev.net.groups = s.dev.net.groups) ∧
    (code ≠ 0 → let why := if code = 3 then 1 else if code = 5 ∨ (s.beat.role = .lead ∧ code = 2) then 2 else 4
      exec (.groupWrite path) s = .next (s.onDev (fun d => (d.setRegN 0xE101C code).refuse path 0xE1018 why))) ∧
    (320 ≤ g.1 → exec (.groupRead path) s = .next { s with dev := (s.dev.setRegN 0xE101C 3).refuse path 0xE1018 1 }) ∧
    (g.1 < 320 → ∃ s', exec (.groupRead path) s = .next s' ∧ s'.dev.reg 0xE101C = 0 ∧ s'.dev.reg 0xE1004 = BitVec.ofNat 32 old.gen ∧
      s'.dev.reg 0xE1008 = BitVec.ofNat 32 (groupFields old) ∧ s'.dev.reg 0xE100C = BitVec.ofNat 32 old.parts ∧
      (∀ i < old.members.length, Sparse.get (fun _ => 0) s'.dev.net.gmem i = old.members.getD i 0) ∧
      ({ s' with dev := { s'.dev with regs := s.dev.regs, net := s.dev.net } } : State) = s)) ∧
  ∀ (s : State) (port : Fin 6) (m : Msg), let key := fieldAt m.hdr 9 1 + 256 * (fieldAt m.hdr 10 1 % 2)
    let gen := fieldAt m.hdr 11 4
    let want := if key < 256 then bitsAt (fieldAt m.data 8 4) 6 8 + 1 else 0
    let ms := (List.range (min 104 (want - fieldAt m.data 14 2))).map (fun i => fieldAt m.data (16 + 2 * i) 2)
    let inbox := s.dev.net.inbox.erase (port.val, m)
    ((∀ u ∈ s.dev.net.updates, ¬(u.1 = key ∧ u.2.1.gen = gen)) → ∃ s' e, exec (.groupUpdate port m) s = .next s' ∧
      s'.dev.net = { s.dev.net with inbox := inbox, updates := s.dev.net.updates ++ [(key, e, fieldAt m.data 0 8)] } ∧ e.gen = gen ∧ e.members = ms ∧
      e.parts = fieldAt m.data 12 2 ∧ e.frames = bitsAt (fieldAt m.data 8 4) 1 5 + 1 ∧ (e.valid = true ↔ bitAt (fieldAt m.data 8 4) 0 = true) ∧
      ({ s' with dev := { s'.dev with net := s.dev.net } } : State) = s) ∧
    (∀ u, u ∈ s.dev.net.updates → u.1 = key → u.2.1.gen = gen → ∃ s', exec (.groupUpdate port m) s = .next s' ∧
      (u.1, { u.2.1 with members := u.2.1.members ++ ms }, u.2.2) ∈ s'.dev.net.updates ∧ s'.dev.net.updates.length = s.dev.net.updates.length ∧
      s'.dev.net.inbox = inbox ∧ ({ s' with dev := { s'.dev with net := s.dev.net } } : State) = s)

/-- The roster follows its messages; group entries are written, read and updated through the lead: the statements of TheRosterFollowsItsMessages, GroupEntriesAreWrittenReadAndUpdated together. -/
def Obligations.RosterAndGroupTable : Prop :=
  TheRosterFollowsItsMessages ∧ GroupEntriesAreWrittenReadAndUpdated

/-! ### Power: rails, floors, temperatures, power-down and wake (R286 to R289, R463 to R471, R484 to R491, R513) -/

/-- R464 to R466: a good rail is shown; a glitch is counted alone; a lost PG_SVC or PG_IO resets the whole device, another lost rail latches a power fault and gates
the domains; late rails are flagged; and with both good the service domain leaves reset. -/
def Obligations.RailsGuardTheirDomains : Prop :=
  ∀ (s : State) (rail : Fin 12) (t : Nat), let b : BitVec 12 := 1 <<< rail.val
    let good := s.dev.boot.pg.getLsbD rail.val
    (∃ s', exec (.pgGood rail) s = .next s' ∧ s'.dev.boot = { s.dev.boot with pg := s.dev.boot.pg ||| b } ∧
      (s.dev.boot.svcUp = false → s'.dev.regs = s.dev.regs) ∧
      (s.dev.boot.svcUp = true → fld (s'.dev.reg 0x12000C) 0 12 = 4095 - (s.dev.boot.pg ||| b).toNat ∧
        fld (s'.dev.reg 0x12000C) 12 20 = fld (s.dev.reg 0x12000C) 12 20 ∧ ∀ off, off ≠ 0x12000C → s'.dev.reg off = s.dev.reg off) ∧
      ({ s' with dev := { s'.dev with boot := s.dev.boot, regs := s.dev.regs } } : State) = s) ∧
    (good = false → exec (.pgGlitch rail) s = .next s ∧ exec (.pgLost rail t) s = .next { s with dev := s.dev.at t }) ∧
    (good = true → s.dev.reg 0x120408 ≠ 0xFFFFFFFF → regNext (exec (.pgGlitch rail) s) s (s.dev.withReg 0x120408 (s.dev.reg 0x120408 + 1))) ∧
    (good = true → rail.val < 2 → ∃ s', exec (.pgLost rail t) s = .next s' ∧ s'.beat = beatReset ∧ s'.mem = s.mem ∧ s'.pending = s.pending ∧
      s'.dev.boot = { bootReset with pg := s.dev.boot.pg &&& ~~~b, fwA := s.dev.boot.fwA, fwB := s.dev.boot.fwB, perst := s.dev.boot.perst } ∧
      s'.dev.cmds = [] ∧ s'.dev.cores = [] ∧ s'.dev.net = netReset ∧ s'.dev.reg 0x100 = regReset 0x100 ∧
      (∀ p < 16, s'.dev.reg (0x160380 + 4 * p) = s.dev.reg (0x160380 + 4 * p)) ∧ ∀ i < 576, s'.dev.reg (0x161000 + 8 * i) = s.dev.reg (0x161000 + 8 * i)) ∧
    (good = true → 2 ≤ rail.val → s.dev.boot.svcUp = true → ∃ s', exec (.pgLost rail t) s = .next s' ∧ s'.beat = beatReset ∧ s'.mem = s.mem ∧
      flag (s'.dev.reg 0x12000C) 13 = true ∧ flag (s'.dev.reg 0x12000C) (16 + rail.val) = true ∧ flag (s'.dev.reg 0x12000C) rail.val = true ∧
      s'.dev.boot.due = true ∧ s'.dev.boot.up = false ∧ s'.dev.boot.svcUp = true ∧ s'.dev.cmds = [] ∧ s'.dev.gated = true) ∧
    (good = true → 2 ≤ rail.val → s.dev.boot.svcUp = false → ∃ s', exec (.pgLost rail t) s = .next s' ∧
      s'.dev.boot = { s.dev.boot with pg := s.dev.boot.pg &&& ~~~b } ∧ ({ s' with dev := { s'.dev with boot := s.dev.boot, now := s.dev.now } } : State) = s) ∧
    ((s.dev.boot.svcUp = true ∧ s.dev.boot.pg ≠ BitVec.allOnes 12) →
      regNext (exec .railLateTimeout s) s (s.dev.withReg 0x12000C (s.dev.reg 0x12000C ||| 0x1000))) ∧
    (¬(s.dev.boot.svcUp = true ∧ s.dev.boot.pg ≠ BitVec.allOnes 12) → exec .railLateTimeout s = .next s) ∧
    let up := s.dev.boot.svcUp = false ∧ s.dev.boot.pg.getLsbD 0 = true ∧ s.dev.boot.pg.getLsbD 1 = true
    (up → ∃ s', exec (.serviceResetRelease t) s = .next s' ∧ s'.dev.boot = { s.dev.boot with svcUp := true } ∧ s'.dev.reg 0x100 = 1 ∧
      fld (s'.dev.reg 0x12000C) 0 12 = 4095 - s.dev.boot.pg.toNat ∧ s'.beat = s.beat ∧ s'.mem = s.mem ∧ s'.pending = s.pending) ∧
    (¬up → exec (.serviceResetRelease t) s = .next { s with dev := s.dev.at t })

/-- A floor of one die alone has changed, and DIE_STATE shows the state that follows. -/
def floorNow (s s' : State) (die kind : Nat) (f : Floor) : Prop :=
  s'.dev.floor die kind = f ∧ (∀ i k, k < 5 → (i, k) ≠ (die, kind) → s'.dev.floor i k = s.dev.floor i k) ∧
    ((∀ k < 5, (s'.dev.floor die k).ps ≤ 3) → fld (s'.dev.reg (0x120010 + 4 * die)) 20 3 = s'.dev.effState die) ∧ s'.mem = s.mem ∧ s'.beat = s.beat ∧ s'.pending = s.pending ∧ s'.dev.cmds = s.dev.cmds

/-- R469 to R471, R484: a die runs the highest of the requested state and its floors; an idle one enters PS4; a droop stretches its clock once, and raises the floor
where it was stretched for more than 5 % of 1 ms, which falls after 10 ms at 1 % or less. -/
def DiesRunTheHighestFloorAndDroopRaisesIt : Prop :=
  ∀ (s : State) (die : Fin 4) (t : Nat), let i := die.val
    let e := s.dev.effState i
    let x := s.dev.droop i
    let n := x.upTo t
    let f := s.dev.floor i 2
    (∃ s', exec (.clockSwitch die) s = .next s' ∧ s'.dev.clkState i = e ∧ (∀ j, j ≠ i → s'.dev.clkState j = s.dev.clkState j) ∧
      ({ s' with dev := { s'.dev with kiln := s.dev.kiln } } : State) = s ∧ fld (s.dev.reg 0x120004) 0 2 ≤ e ∧ (∀ k < 5, (s.dev.floor i k).ps ≤ e) ∧
      (e = fld (s.dev.reg 0x120004) 0 2 ∨ ∃ k < 5, e = (s.dev.floor i k).ps)) ∧
    ((s.dev.ready = true ∧ s.dev.dieIdle i = true) →
      regNext (exec (.ps4Entry die) s) s (s.dev.withReg (0x120010 + 4 * i) (s.dev.reg (0x120010 + 4 * i) ||| 0x1000000))) ∧
    (¬(s.dev.ready = true ∧ s.dev.dieIdle i = true) → exec (.ps4Entry die) s = .next s) ∧
    ((s.dev.ready = true ∧ x.on = none) → ∃ s', exec (.droopDetect die t) s = .next s' ∧ s'.dev.droop i = { x with on := some t } ∧
      (s.dev.reg 0x120404 ≠ 0xFFFFFFFF → s'.dev.reg 0x120404 = s.dev.reg 0x120404 + 1) ∧
      ({ s' with dev := { s'.dev with kiln := s.dev.kiln, regs := s.dev.regs, now := s.dev.now } } : State) = s) ∧
    (¬(s.dev.ready = true ∧ x.on = none) → exec (.droopDetect die t) s = .next { s with dev := s.dev.at t }) ∧
    (x.on ≠ none → ∃ s', exec (.droopRelease die t) s = .next s' ∧ s'.dev.droop i = { x with on := none, sum := n } ∧
      ({ s' with dev := { s'.dev with kiln := s.dev.kiln, now := s.dev.now } } : State) = s) ∧
    (x.on = none → exec (.droopRelease die t) s = .next { s with dev := s.dev.at t }) ∧
    (t < x.start + 1600000 → exec (.droopFloorStep die t) s = .next { s with dev := s.dev.at t }) ∧
    (x.start + 1600000 ≤ t → ∃ s', exec (.droopFloorStep die t) s = .next s' ∧ (s'.dev.droop i).start = t ∧ (s'.dev.droop i).sum = 0 ∧ (s'.dev.droop i).on = x.on ∧
      s'.mem = s.mem ∧ s'.beat = s.beat ∧
      (t - x.start < 20 * n → f.ps < 3 → floorNow s s' i 2 { f with ps := f.ps + 1 } ∧
        (s.dev.boot.up = true → gotEvent s.dev s'.dev 16 (event s.clk 0x80 0 4 i 0 0))) ∧
      (t - x.start < 20 * n → 3 ≤ f.ps → s'.dev.floors = s.dev.floors) ∧
      (20 * n ≤ t - x.start → x.runN < 9 → s'.dev.floors = s.dev.floors ∧ (s'.dev.droop i).run = x.run + n ∧ (s'.dev.droop i).runN = x.runN + 1) ∧
      (20 * n ≤ t - x.start → 9 ≤ x.runN → (s'.dev.droop i).runN = 0 ∧
        (100 * (x.run + n) ≤ 16000000 → 0 < f.ps → floorNow s s' i 2 { f with ps := f.ps - 1 }) ∧
        ((16000000 < 100 * (x.run + n) ∨ f.ps = 0) → s'.dev.floors = s.dev.floors)))

/-- R485, R486, R542: an alert input puts the floor of its dies at PS3 and asks for the status of its enabled rails; released, the floor stays for 10 ms and then falls one state
every 10 ms; an input asserted for 1 s is told once. -/
def RegulatorAlertsHoldTheirDies : Prop :=
  (∀ (s : State) (g : Fin 6) (t : Nat), let x := s.dev.vr g.val
    let rails := (vrRails g.val).filter (fun r => flag (s.dev.reg (0x140200 + 0x10 * r)) 7)
    ((s.dev.ready = false ∨ x.low = true) → exec (.vrAlertAssert g t) s = .next { s with dev := s.dev.at t }) ∧
    (s.dev.ready = true → x.low = false → ∃ s', exec (.vrAlertAssert g t) s = .next s' ∧ (s'.dev.vr g.val).low = true ∧ (s'.dev.vr g.val).said = false ∧
      (∀ i ∈ vrDies g.val, s'.dev.floor i 3 = ⟨3, true, none⟩ ∧ 3 ≤ s'.dev.effState i) ∧ (∀ i < 4, i ∉ vrDies g.val → s'.dev.floor i 3 = s.dev.floor i 3) ∧
      (s.dev.reg 0x120400 ≠ 0xFFFFFFFF → s'.dev.reg 0x120400 = s.dev.reg 0x120400 + 1) ∧
      (rails = [] → s.dev.boot.up = true → gotEvent s.dev s'.dev 16 (event s.clk 0x81 0 0 g.val 0 0)) ∧
      (∀ r rest, rails = r :: rest → s.dev.pmb.cur = none → s.dev.pmb.alerts = [] → s'.dev.pmb.cur = some ⟨.alert g.val, r, 0x79⟩ ∧
        s'.dev.pmb.alerts = rest.map (fun q => (g.val, q))) ∧ s'.mem = s.mem ∧ s'.beat = s.beat ∧ s'.pending = s.pending) ∧
    (x.low = false → exec (.vrAlertRelease g t) s = .next { s with dev := s.dev.at t }) ∧
    (x.low = true → ∃ s', exec (.vrAlertRelease g t) s = .next s' ∧ s'.dev.vr g.val = { x with low := false, released := t } ∧
      (∀ i ∈ vrDies g.val, (∀ h < 6, h ≠ g.val → (s.dev.vr h).low = true → i ∉ vrDies h) →
        s'.dev.floor i 3 = { s.dev.floor i 3 with since := some (t + 16000000) }) ∧
      (s.dev.boot.up = true → gotEvent s.dev s'.dev 16 (event s.clk 0x81 0 1 g.val 0 0)) ∧ s'.mem = s.mem ∧ s'.beat = s.beat) ∧
    ((x.low = true ∧ x.said = false) → ∃ s', exec (.vrAlertStuck g) s = .next s' ∧ s'.dev.vr g.val = { x with said := true } ∧
      (s.dev.boot.up = true → gotEvent s.dev s'.dev 16 (event s.clk 0x81 0 2 g.val 0 0)) ∧ s'.dev.floors = s.dev.floors) ∧
    (¬(x.low = true ∧ x.said = false) → exec (.vrAlertStuck g) s = .next s)) ∧
  ∀ (s : State) (die : Fin 4) (t : Nat), let f := s.dev.floor die.val 3
    (f.since = none → exec (.vrFloorStep die t) s = .next { s with dev := s.dev.at t }) ∧
    ∀ u, f.since = some u →
      ((t < u ∨ s.dev.vrHeld die.val = true) → exec (.vrFloorStep die t) s = .next { s with dev := s.dev.at t }) ∧
      (u ≤ t → s.dev.vrHeld die.val = false → ∃ s', exec (.vrFloorStep die t) s = .next s' ∧
        floorNow s s' die.val 3 (if f.ps ≤ 1 then ⟨0, false, none⟩ else { f with ps := f.ps - 1, since := some (u + 16000000) }))

/-- Dies run their highest floor; droop and regulator alerts raise, hold and release theirs: the statements of DiesRunTheHighestFloorAndDroopRaisesIt, RegulatorAlertsHoldTheirDies together. -/
def Obligations.FloorsFollowDroopAndAlerts : Prop :=
  DiesRunTheHighestFloorAndDroopRaisesIt ∧ RegulatorAlertsHoldTheirDies

/-- What a thermal trip leaves (R489). -/
def tripped (s s' : State) (t : Nat) : Prop :=
  s'.beat = beatReset ∧ s'.mem = s.mem ∧ s'.dev.boot.trip = true ∧ s'.dev.boot.up = false ∧ s'.dev.kiln.tripAt = some t ∧ flag (s'.dev.reg 0x120008) 2 = true ∧
    flag (s'.dev.reg 0x120008) 3 = true ∧ s'.dev.cmds = []

/-- R286 to R289, R487 to R489: layers and junctions are sampled, an invalid reading counting as hot; a hot layer or junction raises its die's floor, at once and then every 1 ms, and a
cool one lowers it every 10 ms; two samples in a row at the trip temperature trip the device. -/
def Obligations.TemperaturesThrottleAndTrip : Prop :=
  (∀ (f : Floor) (t : Nat) (was cooled cool : Bool),
    (f.active = false → f.sample t was cooled true cool = ⟨min 3 (f.ps + 1), true, some (t + 1600000)⟩) ∧
    (f.active = true → f.sample t true cooled true cool = f) ∧
    (f.active = true → f.sample t was false false true = { f with since := some (t + 16000000) }) ∧ f.sample t was cooled false false = { f with since := none } ∧
    ∀ u, f.since = some u → (t < u → ∀ h, f.step t h cool = f) ∧ (u ≤ t → f.step t true cool = { f with ps := min 3 (f.ps + 1), since := some (u + 1600000) }) ∧
      (u ≤ t → f.step t false true = (if f.ps ≤ 1 then ⟨0, false, none⟩ else { f with ps := f.ps - 1, since := some (u + 16000000) }))) ∧
  (∀ (s : State) (temps : List (Option Int)) (t : Nat),
    let read (die l : Nat) : Int := (hottest ((List.range 4).filterMap (fun i => validTemp ((temps[4 * (8 * die + l) + i]?).getD none)))).getD 1000
    let hot (die l : Nat) : Nat := if 1050 ≤ read die l then min 2 ((s.dev.heatOf (8 * die + l)).hot + 1) else 0
    (s.dev.ready = false → exec (.dramThermalSample temps t) s = .next { s with dev := s.dev.at t } ∧ exec (.junctionSample temps t) s = .next { s with dev := s.dev.at t }) ∧
    (s.dev.ready = true → (∀ die < 4, ∀ l < 8, hot die l < 2) → ∃ s', exec (.dramThermalSample temps t) s = .next s' ∧ s'.mem = s.mem ∧ s'.beat = s.beat ∧
      ∀ die < 4, (∀ l < 8, s'.dev.heatOf (8 * die + l) = ⟨read die l, hot die l, refreshMult (s.dev.heatOf (8 * die + l)).mult (read die l)⟩) ∧
        s'.dev.floor die 0 = (s.dev.floor die 0).sample t (s.dev.layerHot die) (s.dev.layerCool die) (s'.dev.layerHot die) (s'.dev.layerCool die) ∧
        (s'.dev.layerHot die = true ↔ ∃ l < 8, 1000 ≤ read die l) ∧ (s'.dev.layerCool die = true ↔ ∀ l < 8, read die l ≤ 970)) ∧
    (s.dev.ready = true → (∃ die < 4, ∃ l < 8, 2 ≤ hot die l) → ∃ s', exec (.dramThermalSample temps t) s = .next s' ∧ tripped s s' t) ∧
    let limit : Int := 10 * (fld (s.dev.reg 0x120034) 0 8 : Int)
    let at? (set i : Nat) : Int := (s.dev.junction temps (16 * set + i)).getD limit
    let again := ∃ set < 5, ∃ i < (if set < 4 then 16 else 8), 1100 ≤ at? set i ∧ (s.dev.heatOf (64 + set)).hot.testBit i = true
    (s.dev.ready = true → ¬again → ∃ s', exec (.junctionSample temps t) s = .next s' ∧ s'.mem = s.mem ∧ s'.beat = s.beat ∧
      (∀ set < 5, (∀ i < (if set < 4 then 16 else 8), at? set i ≤ (s'.dev.heatOf (64 + set)).temp ∧
          ((s'.dev.heatOf (64 + set)).hot.testBit i = true ↔ 1100 ≤ at? set i)) ∧
        ∃ i < (if set < 4 then 16 else 8), (s'.dev.heatOf (64 + set)).temp = at? set i) ∧
      ∀ die < 4, s'.dev.floor die 1 = (s.dev.floor die 1).sample t (s.dev.jHot die) (s.dev.jCool die) (s'.dev.jHot die) (s'.dev.jCool die)) ∧
    (s.dev.ready = true → again → ∃ s', exec (.junctionSample temps t) s = .next s' ∧ tripped s s' t)) ∧
  ∀ (s : State) (die : Fin 4) (t : Nat), let f := s.dev.floor die.val 0
    let j := s.dev.floor die.val 1
    let f' := f.step t (s.dev.layerHot die.val) (s.dev.layerCool die.val)
    let j' := j.step t (s.dev.jHot die.val) (s.dev.jCool die.val)
    (f' = f → exec (.dramThrottleStep die t) s = .next { s with dev := s.dev.at t }) ∧
    (f' ≠ f → ∃ s', exec (.dramThrottleStep die t) s = .next s' ∧ floorNow s s' die.val 0 f') ∧
    (j' = j → exec (.junctionFloorStep die t) s = .next { s with dev := s.dev.at t }) ∧
    (j' ≠ j → ∃ s', exec (.junctionFloorStep die t) s = .next s' ∧ floorNow s s' die.val 1 j')

/-- R490, R491, R513: a power-down ends the commands that are not granted, and at its budget the granted ones, with aborted; once all records are out, or its limit has passed, the
package enters PS5, which only WAKE through the service space leaves, 60 s after a trip at the earliest; a code that means nothing is refused. -/
def Obligations.PowerDownAndWakeFollowTheirSteps : Prop :=
  (∀ w : Path → Word → Nat → Instr, (w = (fun p v _ => .powerdown p v) ∨ w = .wake) → ∀ (s : State) (path : Path) (v : Word) (t : Nat), opens s.dev path 0x120000 → let ps5 := flag (s.dev.reg 0x120008) 3
    let is (d : Dev) : Prop := ∃ n, exec (w path v t) s = .next { s with dev := { d with now := n } }
    ((fld v 0 2 = 0 ∨ fld v 0 2 = 3) → is (s.dev.refuse path 0x120000 1)) ∧
    (fld v 0 2 = 1 → (s.dev.kiln.pd ≠ 0 ∨ ps5 = true) → is s.dev) ∧
    (fld v 0 2 = 1 → s.dev.kiln.pd = 0 → ps5 = false → ∃ s', exec (w path v t) s = .next s' ∧ s'.dev.kiln.pd = 1 ∧ flag (s'.dev.reg 0x120008) 0 = true ∧
      s'.mem = s.mem ∧ s'.beat = s.beat ∧ s'.pending = s.pending ∧
      ∀ c, s.dev.cmd c.cid = some c → c.part < 16 → c.kind = .descriptor → (∀ n, (s.dev.srv n).seqs = []) →
        (∀ x ∈ s.dev.cmds, ∀ par i, x.kind = .entry par i → par ≠ c.cid) → c.ph = .waiting →
        ∃ y, s'.dev.cmd c.cid = some y ∧ y.ph = .completion ∧ y.status = 0xB ∧ y.detail = 2) ∧
    (fld v 0 2 = 2 → path ≠ .svc → is (s.dev.refuse path 0x120000 3)) ∧
    (fld v 0 2 = 2 → path = .svc → ps5 = false → is (s.dev.refuse path 0x120000 2)) ∧
    (fld v 0 2 = 2 → path = .svc → ps5 = true → (∀ u, s.dev.kiln.tripAt = some u → u + 96000000000 ≤ s.dev.now ∧ u + 96000000000 ≤ t) → ∃ s', exec (w path v t) s = .next s' ∧
      s'.dev.reg 0x120008 = s.dev.reg 0x120008 &&& 4 ∧ (∀ p < 16, s'.dev.reg (0x160380 + 4 * p) = s.dev.reg (0x160380 + 4 * p) + 1) ∧
      (s.dev.boot.checked = true → ¬(flag (s.dev.reg 0x100) 9 = true ∧ fld (s.dev.reg 0x100) 12 4 = 1) → fld (s'.dev.reg 0x100) 0 4 = 2) ∧
      s'.beat = s.beat ∧ s'.mem = s.mem)) ∧
  (∀ (s : State) (u t : Nat), opens s.dev .svc 0x120000 → flag (s.dev.reg 0x120008) 3 = true → s.dev.kiln.tripAt = some u → t < u + 96000000000 →
    exec (.wake .svc 2 t) s = .next { s with dev := ({ s.dev with now := max s.dev.now t } : Dev).refuse .svc 0x120000 2 }) ∧
  ∀ s : State, let open? := ∃ p < 16, s.dev.unsealed p = true
    let asleep (o : Host.Outcome State Fault Refusal) (inc : Bool) : Prop := ∃ s', o = .next s' ∧ s'.beat = beatReset ∧ s'.mem = s.mem ∧ s'.pending = s.pending ∧
      flag (s'.dev.reg 0x120008) 3 = true ∧ flag (s'.dev.reg 0x120008) 1 = inc ∧ flag (s'.dev.reg 0x120008) 0 = false ∧ s'.dev.boot.up = false ∧ s'.dev.cmds = [] ∧
      ∀ i < 576, Sparse.get (fun _ => 0) s'.dev.fwSuspect i = s.dev.regN (0x166000 + 4 * i)
    (s.dev.kiln.pd ≠ 1 → exec .pdBudgetExpire s = .next s) ∧
    (s.dev.kiln.pd = 1 → ∃ s', exec .pdBudgetExpire s = .next s' ∧ s'.dev.kiln.pd = 2 ∧ s'.mem = s.mem ∧ s'.beat = s.beat ∧
      (∀ i < 576, Sparse.get (fun _ => 0) s'.dev.fwSuspect i = s.dev.regN (0x166000 + 4 * i)) ∧
      ∀ c, s.dev.cmd c.cid = some c → c.part < 16 → c.kind = .descriptor → c.op ≠ 1 → c.op ≠ 7 → (∀ n, (s.dev.srv n).seqs = []) →
        (∀ x ∈ s.dev.cmds, ∀ par i, x.kind = .entry par i → par ≠ c.cid) → c.ph.fellable = true →
        ∃ y, s'.dev.cmd c.cid = some y ∧ y.ph = .felling ∧ y.fellEnd = .complete 0xB 2) ∧
    ((s.dev.kiln.pd = 0 ∨ ∃ c ∈ s.dev.cmds, c.ph ≠ .completion) → exec .powerdownDrainDone s = .next s) ∧
    (s.dev.kiln.pd ≠ 0 → (∀ c ∈ s.dev.cmds, c.ph = .completion) → ¬open? →
      (s.dev.drained = true → asleep (exec .powerdownDrainDone s) (flag (s.dev.reg 0x120008) 1)) ∧ (s.dev.drained = false → exec .powerdownDrainDone s = .next s)) ∧
    (s.dev.kiln.pd ≠ 0 → (∀ c ∈ s.dev.cmds, c.ph = .completion) → open? → ∃ s', exec .powerdownDrainDone s = .next s' ∧ s'.dev.cmds = s.dev.cmds ∧
      (∀ p < 16, s.dev.unsealed p = true → s'.dev.unsealed p = false) ∧ s'.mem = s.mem ∧ s'.beat = s.beat) ∧
    ((s.dev.kiln.pd = 0 ∨ ∀ p < 16, s.dev.unwritten p = false) → exec .pdDrainTimeout s = .next s) ∧
    (s.dev.kiln.pd = 2 → (∃ p < 16, s.dev.unwritten p = true) → asleep (exec .pdDrainTimeout s) true)


/-! ### Energy: cones, caps, calibration and the PMBus controller (R467, R472 to R483, R539 to R542) -/

/-- The energy of an account over a control period, in 2⁻²⁸ fJ (R476): gain b times the dynamic part, the core's terms scaled by the factor of the die's
effective state, plus gain a times the static part; account 16 is the device's own. -/
def periodEnergy (d : Dev) (n : Nat) : Nat :=
  let k (off : Nat) : Nat := (d.reg off).toNat
  let core := ((List.range 8).map (fun i => d.activity n i * k (0x120100 + 4 * i))).sum + d.activity n 8 * k 0x120120
  let rest := d.activity n 9 * k 0x120124 + d.activity n 10 * k 0x120128 + d.activity n 11 * k 0x12012C + d.activity n 12 * k 0x120130
  let dyn := (if n = 16 then 256 else sigma (d.effState (n / 4))) * core + 256 * rest
  let stat := if n = 16 then 0 else sigma (d.dieState (n / 4)) * (4 * k 0x120134 + k 0x120138)
  16 * k 0x120148 * dyn + 100000000 * k 0x120144 * stat

/-- The whole cones of 1 µJ that an account gains in the period, and what it carries (R478). -/
def periodCones (d : Dev) (n : Nat) : Nat × Nat :=
  let e := Sparse.get (fun _ => 0) d.kiln.res n + periodEnergy d n
  (e / (1000000000 * 2 ^ 28), e % (1000000000 * 2 ^ 28))

/-- R472 to R474, R476 to R478: at the end of a control period each account's energy goes to its cone, what stays below 1 µJ being carried; above the
effective package cap the hottest die below PS3 slows, after ten periods at or below 0.95 of it the coolest slowed die speeds up; and a partition's duty
follows its own cap the same way. -/
def Obligations.ConesAndCapsFollowTheModel : Prop :=
  ∀ s : State, let d := s.dev
    let gain (n : Nat) : Nat := (periodCones d n).1
    let total := ((List.range 17).map gain).sum
    let pct := if fld (d.reg 0x120140) 0 2 = 0 ∨ fld (d.reg 0x120140) 0 2 = 3 then 92 else 100
    let lim := pct * (d.reg 0x120020).toNat
    let power (i : Nat) : Nat := gain (4 * i) + gain (4 * i + 1) + gain (4 * i + 2) + gain (4 * i + 3)
    (d.boot.up = false → exec .controlPeriod s = .next s) ∧
    (d.boot.up = true → ∃ s', exec .controlPeriod s = .next s' ∧ s'.mem = s.mem ∧ s'.beat = s.beat ∧ s'.pending = s.pending ∧ s'.dev.cmds = d.cmds ∧
      s'.dev.cores = d.cores ∧ s'.dev.kiln.cnt = [] ∧ s'.dev.kiln.periods = d.kiln.periods + 1 ∧
      s'.dev.kiln.quiet = (if d.quietNow = true ∧ d.kiln.quiet = none then some (d.kiln.periods + 1) else d.kiln.quiet) ∧
      (∀ n < 17, s'.dev.reg64 (0x120200 + 8 * n) = (d.reg64 (0x120200 + 8 * n) + gain n) % 2 ^ 64 ∧
        Sparse.get (fun _ => 0) s'.dev.kiln.res n = (periodCones d n).2) ∧
      (∀ i < 4, lim < total → (d.floor i 4).ps < 3 →
        (∀ j < 4, j ≠ i → (d.floor j 4).ps < 3 → power j < power i ∨ (power j = power i ∧ i < j)) →
        s'.dev.floor i 4 = { d.floor i 4 with ps := (d.floor i 4).ps + 1 } ∧ ∀ j < 4, ∀ k < 5, (j, k) ≠ (i, 4) → s'.dev.floor j k = d.floor j k) ∧
      (lim < total → (∀ i < 4, 3 ≤ (d.floor i 4).ps) → s'.dev.floors = d.floors) ∧
      ((100 * total ≤ 95 * lim ∧ 9 ≤ d.lowRun 16) → s'.dev.lowRun 16 = 0 ∧
        ∀ i < 4, 0 < (d.floor i 4).ps → (∀ j < 4, j ≠ i → 0 < (d.floor j 4).ps → power i < power j ∨ (power j = power i ∧ i < j)) →
          s'.dev.floor i 4 = { d.floor i 4 with ps := (d.floor i 4).ps - 1 } ∧ ∀ j < 4, ∀ k < 5, (j, k) ≠ (i, 4) → s'.dev.floor j k = d.floor j k) ∧
      ((100 * total ≤ 95 * lim ∧ d.lowRun 16 < 9) → s'.dev.lowRun 16 = d.lowRun 16 + 1 ∧ s'.dev.floors = d.floors) ∧
      ((95 * lim < 100 * total ∧ total ≤ lim) → s'.dev.lowRun 16 = 0 ∧ s'.dev.floors = d.floors) ∧
      ∀ p < 16, let cap := fld (d.reg (0x120040 + 4 * p)) 0 11
        let duty := (d.reg (0x120080 + 4 * p)).toNat
        let duty' := (s'.dev.reg (0x120080 + 4 * p)).toNat
        ((cap ≠ 0 ∧ pct * cap < gain p) → duty' = max 1 (duty - 1) ∧ s'.dev.lowRun p = 0 ∧
          (duty = 16 → gotEvent d s'.dev p (event s.clk 0x80 0 6 p 0 0))) ∧
        ((cap ≠ 0 ∧ 95 * (pct * cap) < 100 * gain p ∧ gain p ≤ pct * cap) → duty' = duty ∧ s'.dev.lowRun p = 0) ∧
        ((cap = 0 ∨ 100 * gain p ≤ 95 * (pct * cap)) → d.lowRun p < 9 → duty' = duty ∧ s'.dev.lowRun p = d.lowRun p + 1) ∧
        ((cap = 0 ∨ 100 * gain p ≤ 95 * (pct * cap)) → 9 ≤ d.lowRun p → duty' = min 16 (duty + 1) ∧ s'.dev.lowRun p = 0 ∧
          (duty = 15 → gotEvent d s'.dev p (event s.clk 0x80 0 7 p 0 0))))

/-- `g` is the quotient `num ÷ den` in 16.16, rounded to one of its two neighbours where it is not exact. -/
def isQuotient (g num den : Int) : Prop := -den < g * den - 65536 * num ∧ g * den - 65536 * num < den

/-- A fit lies from 0.5 to 2.0 (R480). -/
def fitLies (num den : Int) : Prop := den ≤ 2 * num ∧ num ≤ 2 * den

/-- A rejected fit is counted and told, and neither gain nor stage changes (R480). -/
def fitTurnedAway (s s' : State) : Prop :=
  (s.dev.reg 0x12040C ≠ 0xFFFFFFFF → s'.dev.reg 0x12040C = s.dev.reg 0x12040C + 1) ∧ (∀ off ∈ [0x120140, 0x120144, 0x120148], s'.dev.reg off = s.dev.reg off) ∧
    (s.dev.boot.up = true → gotEvent s.dev s'.dev 16 (event s.clk 0x82 0 1 (s.dev.regN 0x120140) s.dev.gainA s.dev.gainB))

/-- R479 to R483: a coefficient write returns calibration to stage 0 with both gains 1; a quiescent window moves a by a quarter of the way and enters stage 1; in stage 1 each
second moves b by a quarter of the way; in stages 2 and 3 a regression replaces both; a fit outside 0.5 to 2.0 is rejected; and stages end at their times. -/
def Obligations.CalibrationFollowsItsStages : Prop :=
  (∀ (s : State) (path : Path) (i : Fin 15) (v : Word), opens s.dev path (coefOff i.val) → ∃ s', exec (.coefficientWrite path i v) s = .next s' ∧
    s'.dev.reg (coefOff i.val) = v ∧ s'.dev.reg 0x120140 = 0 ∧ s'.dev.reg 0x120144 = 0x10000 ∧ s'.dev.reg 0x120148 = 0x10000 ∧
    (s.dev.reg 0x120140 = 0 → s'.sansRegs = s.sansRegs ∧ ∀ off ∉ [coefOff i.val, 0x120144, 0x120148], s'.dev.reg off = s.dev.reg off) ∧
    (s.dev.reg 0x120140 ≠ 0 → s.dev.boot.up = true → gotEvent s.dev s'.dev 16 (event s.clk 0x82 0 0 0 0x10000 0x10000))) ∧
  (∀ s : State, let d := s.dev
    let sum (rs : List Sample) (f : Sample → Int) : Int := (rs.map f).sum
    let kept (s' : State) : Prop := s'.mem = s.mem ∧ s'.beat = s.beat ∧ s'.pending = s.pending ∧ s'.dev.cmds = d.cmds ∧ s'.dev.floors = d.floors
    let rs := d.kiln.quietN
    let den := 65536 * sum rs (fun r => r.st)
    let num := sum rs (fun r => 65536 * (r.pm : Int) - (d.gainB : Int) * r.dy)
    let whole := rs ≠ [] ∧ 0 < den ∧ ∀ q, d.kiln.quiet = some q → q + 50 ≤ d.kiln.periods
    let okA := fitLies num den ∧ 0x8000 ≤ d.gainB ∧ d.gainB ≤ 0x20000
    (¬whole → exec .quiescentFit s = .next s) ∧
    (whole → okA → ∃ s', exec .quiescentFit s = .next s' ∧ kept s' ∧ s'.dev.reg 0x120140 = 1 ∧ s'.dev.reg 0x120148 = d.reg 0x120148 ∧
      isQuotient s'.dev.gainA (3 * d.gainA * den + 65536 * num) (65536 * (4 * den)) ∧ s'.dev.kiln = { d.kiln with quietN := [], quiet := none }) ∧
    (whole → ¬okA → ∃ s', exec .quiescentFit s = .next s' ∧ kept s' ∧ fitTurnedAway s s' ∧ s'.dev.kiln = { d.kiln with quietN := [], quiet := none }) ∧
    let rb := d.kiln.secN.filter (fun r => decide (r.st ≤ 10 * r.dy))
    let denB := 65536 * sum rb (fun r => r.dy)
    let numB := sum rb (fun r => 65536 * (r.pm : Int) - (d.gainA : Int) * r.st)
    let okB := fitLies numB denB ∧ 0x8000 ≤ d.gainA ∧ d.gainA ≤ 0x20000
    let empty := { d.kiln with secN := ([] : List Sample) }
    ((d.reg 0x120140 ≠ 1 ∨ denB ≤ 0) → exec .calBFit s = .next { s with dev := { d with kiln := empty } }) ∧
    (d.reg 0x120140 = 1 → 0 < denB → okB → ∃ s', exec .calBFit s = .next s' ∧ kept s' ∧ s'.dev.kiln = empty ∧ s'.dev.reg 0x120140 = 1 ∧
      s'.dev.reg 0x120144 = d.reg 0x120144 ∧ isQuotient s'.dev.gainB (3 * d.gainB * denB + 65536 * numB) (65536 * (4 * denB))) ∧
    (d.reg 0x120140 = 1 → 0 < denB → ¬okB → ∃ s', exec .calBFit s = .next s' ∧ kept s' ∧ s'.dev.kiln = empty ∧ fitTurnedAway s s') ∧
    let rw := d.kiln.winN
    let xx := sum rw (fun r => (r.st : Int) * r.st)
    let xy := sum rw (fun r => (r.st : Int) * r.dy)
    let yy := sum rw (fun r => (r.dy : Int) * r.dy)
    let xp := sum rw (fun r => (r.st : Int) * r.pm)
    let yp := sum rw (fun r => (r.dy : Int) * r.pm)
    let sy := sum rw (fun r => (r.dy : Int))
    let sp := sum rw (fun r => (r.pm : Int))
    let det := xx * yy - xy * xy
    let na := xp * yy - yp * xy
    let nb := yp * xx - xp * xy
    let spread := sy * sy ≤ 400 * ((rw.length : Int) * yy - sy * sy)
    let res := sum rw (fun r => ((r.pm : Int) * det - na * r.st - nb * r.dy) * ((r.pm : Int) * det - na * r.st - nb * r.dy))
    let close := 10000 * (rw.length : Int) * res ≤ 9 * sp * sp * det * det
    let fits := (d.reg 0x120140 = 2 ∨ d.reg 0x120140 = 3) ∧ 0 < det ∧ spread
    let gone := { d.kiln with winN := ([] : List Sample) }
    ((¬fits ∨ (fitLies na det ∧ fitLies nb det ∧ ¬close)) → exec .calRegression s = .next { s with dev := { d with kiln := gone } }) ∧
    (fits → fitLies na det → fitLies nb det → close → ∃ s', exec .calRegression s = .next s' ∧ kept s' ∧ s'.dev.kiln = gone ∧ s'.dev.reg 0x120140 = 2 ∧
      isQuotient s'.dev.gainA na det ∧ isQuotient s'.dev.gainB nb det) ∧
    (fits → ¬(fitLies na det ∧ fitLies nb det) → ∃ s', exec .calRegression s = .next s' ∧ kept s' ∧ s'.dev.kiln = gone ∧ fitTurnedAway s s') ∧
    ∀ n m : Word, (n, m) ∈ [((1, 2) : Word × Word), (0, 3), (2, 3)] → d.reg 0x120140 = n → ∃ s', exec .calStageTimeout s = .next s' ∧ kept s' ∧ s'.dev.reg 0x120140 = m ∧
      s'.dev.reg 0x120144 = d.reg 0x120144 ∧ s'.dev.reg 0x120148 = d.reg 0x120148 ∧
      (d.boot.up = true → gotEvent d s'.dev 16 (event s.clk 0x82 0 0 m.toNat d.gainA d.gainB))) ∧
  ∀ s : State, 2 < (s.dev.reg 0x120140).toNat → exec .calStageTimeout s = .next s

/-- R467, R475, R485, R540 to R542: a round reads VOUT and IOUT of every enabled rail in ascending order, then VIN and temperature of one in rotation; alert reads come first, then the one
command asked for; a failed reading is counted, spoils its round, and the third in a row of its rail is told once; a valid round gives P_m, and the third in a row above the
cap raises every die's cap floor. -/
def Obligations.PmbusRoundsReadTheirRails : Prop :=
  (∀ s : State, let d := s.dev
    let rails := (List.range 12).filter (fun r => flag (d.reg (0x140200 + 0x10 * r)) 7)
    let runs := flag (d.reg 0x140100) 0 = true ∧ d.pmb.round = none ∧ rails ≠ []
    (¬runs → exec .pmbusRoundStart s = .next s) ∧
    ∀ r, runs → r ∈ rails → (d.pmb.turn ≤ r ∨ (∀ x ∈ rails, x < d.pmb.turn)) → (∀ x ∈ rails, x < r → x < d.pmb.turn ∧ d.pmb.turn ≤ r) →
      let todo := rails.flatMap (fun x => [(x, 0x8B), (x, 0x8C)]) ++ [(r, 0x88), (r, 0x8D)]
      ∃ s', exec .pmbusRoundStart s = .next s' ∧ s'.dev.pmb.turn = r + 1 ∧ ({ s' with dev := { s'.dev with pmb := d.pmb } } : State) = s ∧
        (d.pmb.cur ≠ none → s'.dev.pmb.cur = d.pmb.cur ∧ s'.dev.pmb.round = some ⟨todo, true, d.kiln.periods, d.kiln.st, d.kiln.dy, 0, 0⟩) ∧
        (d.pmb.cur = none → d.pmb.alerts = [] → d.pmb.manual = none → s'.dev.pmb.cur = todo.head?.map (fun x => ⟨.round, x.1, x.2⟩) ∧
          s'.dev.pmb.round = some ⟨todo.tail, true, d.kiln.periods, d.kiln.st, d.kiln.dy, 0, 0⟩)) ∧
  (∀ op : Path → Word → Instr, (op = .readVin ∨ op = .readVout ∨ op = .readIout ∨ op = .readTemperature1 ∨ op = .statusWord ∨ op = .clearFaults) →
    ∀ (s : State) (path : Path) (v : Word), opens s.dev path 0x140108 → let d := s.dev
    let bad := 11 < fld v 0 4 ∨ 5 < fld v 8 3
    (bad → exec (op path v) s = .next { s with dev := d.refuse path 0x140108 1 }) ∧
    (¬bad → flag v 31 = false → exec (op path v) s = .next s) ∧
    (¬bad → flag v 31 = true → ∃ s', exec (op path v) s = .next s' ∧ s'.dev.reg 0x14010C = 0x10000 ∧ (∀ off, off ≠ 0x14010C → s'.dev.reg off = d.reg off) ∧
      ({ s' with dev := { s'.dev with pmb := d.pmb, regs := d.regs } } : State) = s ∧
      ((d.pmb.cur ≠ none ∨ d.pmb.alerts ≠ []) → s'.dev.pmb.manual = some (fld v 0 4, [0x88, 0x8B, 0x8C, 0x8D, 0x79, 0x03].getD (fld v 8 3) 0)) ∧
      (d.pmb.cur = none → d.pmb.alerts = [] → s'.dev.pmb = { d.pmb with manual := none, cur := some ⟨.manual, fld v 0 4, [0x88, 0x8B, 0x8C, 0x8D, 0x79, 0x03].getD (fld v 8 3) 0⟩ }))) ∧
  ∀ (s : State) (rp : PmbReply), let d := s.dev
    let ends (s' : State) : Prop := exec (.pmbusTransactionDone rp) s = .next s' ∧ s'.mem = s.mem ∧ s'.beat = s.beat ∧ s'.pending = s.pending ∧ s'.dev.cmds = d.cmds
    (d.pmb.cur = none → exec (.pmbusTransactionDone rp) s = .next s) ∧
    ∀ x, d.pmb.cur = some x → let failed := rp = .nack ∨ rp = .pec ∨ rp = .timeout
      let n := Sparse.get (fun _ => 0) d.pmb.fails x.rail
      (x.who = .manual → ∃ s', ends s' ∧ s'.dev.reg 0x14010C = (match rp with
          | .word w => w.zeroExtend 32 ||| 0x20000
          | .sent => 0x20000
          | .nack => 0x30000
          | .pec => 0x40000
          | .timeout => 0x50000) ∧ (∀ off, off ≠ 0x14010C → s'.dev.reg off = d.reg off) ∧
        (∀ g r rest, d.pmb.alerts = (g, r) :: rest → s'.dev.pmb.cur = some ⟨.alert g, r, 0x79⟩ ∧ s'.dev.pmb.alerts = rest)) ∧
      (∀ g w, x.who = .alert g → rp = .word w → w ≠ 0 → (d.vr g).due = true → ∃ s', ends s' ∧ (s'.dev.vr g).due = false ∧
        (d.boot.up = true → gotEvent d s'.dev 16 (event s.clk 0x81 0 0 g w.toNat 0))) ∧
      (∀ o, x.who = .round → d.pmb.round = some o → failed → x.code ∈ [0x8B, 0x8C, 0x88, 0x8D] → ∃ s', ends s' ∧
        (d.reg 0x140114 ≠ 0xFFFFFFFF → s'.dev.reg 0x140114 = d.reg 0x140114 + 1) ∧ Sparse.get (fun _ => 0) s'.dev.pmb.fails x.rail = min 3 (n + 1) ∧
        (2 ≤ n → x.rail ∉ d.pmb.said → d.boot.up = true → x.rail ∈ s'.dev.pmb.said ∧
          gotEvent d s'.dev 16 (event s.clk 0xA1 0 x.rail (if rp = .nack then 0 else if rp = .pec then 1 else 2) x.code 0)) ∧
        (2 ≤ n → x.rail ∈ d.pmb.said → (s'.dev.evQ 16).q = (d.evQ 16).q) ∧
        (∀ r c rest, o.todo = (r, c) :: rest → d.pmb.alerts = [] → d.pmb.manual = none → s'.dev.pmb.cur = some ⟨.round, r, c⟩ ∧
          s'.dev.pmb.round = some { o with ok := false, todo := rest })) ∧
      (∀ (o : PmbRound) (w : BitVec 16), x.who = .round → x.code = 0x8C → rp = .word w → d.inRange x.rail 0x8C w = true → d.pmb.round = some o → ∀ r c rest, o.todo = (r, c) :: rest →
        d.pmb.alerts = [] → d.pmb.manual = none → ∃ s', ends s' ∧ Sparse.get (fun _ => 0) s'.dev.pmb.fails x.rail = 0 ∧ x.rail ∉ s'.dev.pmb.said ∧
          s'.dev.pmb.round = some { o with sum := o.sum + (o.v16 : Int) * linear16th w, todo := rest } ∧ s'.dev.pmb.cur = some ⟨.round, r, c⟩ ∧
          ∃ i : Int, -65536 < 65536 * i - 10 * linear16th w ∧ 65536 * i - 10 * linear16th w < 65536 ∧
            (s'.dev.reg (0x140200 + 0x10 * x.rail + 0xC)).setWidth 16 = BitVec.ofInt 16 i) ∧
      ∀ (o : PmbRound) (w : BitVec 16), x.who = .round → x.code = 0x8D → rp = .word w → d.inRange x.rail 0x8D w = true → d.pmb.round = some o → o.todo = [] → d.pmb.alerts = [] →
        d.pmb.manual = none → let counts := o.ok = true ∧ 0 < d.kiln.periods - o.period ∧ d.kiln.periods - o.period ≤ 40 ∧ d.boot.up = true
        let pm := o.sum.toNat
        let above := (d.reg 0x120020).toNat * 2 ^ 32 < pm
        ∃ s', ends s' ∧ s'.dev.pmb.round = none ∧ s'.dev.pmb.cur = none ∧ (d.reg 0x140110 ≠ 0xFFFFFFFF → s'.dev.reg 0x140110 = d.reg 0x140110 + 1) ∧
          (¬counts → s'.dev.kiln = d.kiln ∧ s'.dev.floors = d.floors) ∧
          (counts → s'.dev.kiln.pm = pm ∧ s'.dev.kiln.overs = (if above ∧ d.kiln.overs < 2 then d.kiln.overs + 1 else 0) ∧
            s'.dev.reg64 0x120288 = (d.reg64 0x120288 + (Sparse.get (fun _ => 0) d.kiln.res 17 + pm * fld (d.reg 0x140104) 0 10 * 1000) / 2 ^ 32) % 2 ^ 64 ∧
            (∃ y, s'.dev.kiln.secN = d.kiln.secN ++ [y] ∧ s'.dev.kiln.winN = d.kiln.winN ++ [y] ∧ y.pm = pm) ∧
            (¬(above ∧ 2 ≤ d.kiln.overs) → s'.dev.floors = d.floors) ∧
            (above → 2 ≤ d.kiln.overs → ∀ i < 4, s'.dev.floor i 4 = { d.floor i 4 with ps := min 3 ((d.floor i 4).ps + 1) }))


/-! ### The service port, companion reads, indicators and background duties (R524 to R532, R537, R538, R543 to R547, R557 to R562) -/

/-- A discarded frame is counted and its error shown (R530): 1 a CRC mismatch, 2 a framing error; nothing of it is applied. -/
def frameDropped (s s' : State) (err : Nat) : Prop :=
  s'.sansRegs = s.sansRegs ∧ fld (s'.dev.reg 0x140004) 10 2 = err ∧ fld (s'.dev.reg 0x140004) 0 10 = fld (s.dev.reg 0x140004) 0 10 ∧
    (s.dev.reg 0x140010 ≠ 0xFFFFFFFF → s'.dev.reg 0x140010 = s.dev.reg 0x140010 + 1 ∧ ∀ off, off ≠ 0x140004 → off ≠ 0x140010 → s'.dev.reg off = s.dev.reg off)

/-- R526 to R532: a frame of a wrong length or CRC is dropped whole and counted; the words of a write frame are written in order, wrapping in the page, a refused one
being told without stopping those after it; a set-page frame sets the page; and a read frame drives its words, each followed by the CRC-8 of all so far where
RD_CRC is set. -/
def ServiceFramesApplyWholeOrNotAtAll : Prop :=
  (∀ s : State, (s.dev.boot.svcUp = false → ∀ cmd data n, exec (.svcWriteFrame cmd data n) s = .next s ∧ exec (.svcSetPage cmd data n) s = .next s ∧
      exec (.svcReadFrame cmd n) s = .next s ∧ exec (.svcReadStatus cmd) s = .next s ∧ exec .svcFrameTimeout s = .next s) ∧
    (s.dev.boot.svcUp = true → ∃ s', exec .svcFrameTimeout s = .next s' ∧ frameDropped s s' 2)) ∧
  (∀ (s : State) (cmd : Byte) (data : Bytes) (n most : Nat) (op : Byte → Bytes → Nat → Instr), s.dev.boot.svcUp = true →
    ((cmd.toNat / 64 = 0 ∧ op = .svcWriteFrame ∧ most = 64) ∨ (cmd.toNat = 192 ∧ op = .svcSetPage ∧ most = 1)) → data.length * 8 = n →
    let req := flag (s.dev.reg 0x140000) 0
    let good := (n % 32 = 8 ∨ (n % 32 = 0 ∧ req = false)) ∧ 1 ≤ n / 32 ∧ n / 32 ≤ most
    (¬good → ∃ s', exec (op cmd data n) s = .next s' ∧ frameDropped s s' 2) ∧
    (good → n % 32 = 8 → crc8 (cmd :: data.dropLast) ≠ (data.getLastD 0).toNat → ∃ s', exec (op cmd data n) s = .next s' ∧ frameDropped s s' 1)) ∧
  (∀ (s : State) (cmd : Byte) (ws : List Word) (crc : Bool), s.dev.boot.svcUp = true → (crc = false → flag (s.dev.reg 0x140000) 0 = false) →
    let body := ws.flatMap (fun w => be 4 w.toNat)
    let data := if crc then body ++ le 1 (crc8 (cmd :: body)) else body
    let page := fld (s.dev.reg 0x140004) 0 10
    let tail (s' : State) : Prop := s.dev.reg 0x14000C ≠ 0xFFFFFFFF → s'.dev.reg 0x14000C = s.dev.reg 0x14000C + 1
    (∀ w : Word, ws = [w] → cmd.toNat = 192 →
      (w.toNat < 1024 → ∃ s', exec (.svcSetPage cmd data (8 * data.length)) s = .next s' ∧ s'.sansRegs = s.sansRegs ∧ fld (s'.dev.reg 0x140004) 0 10 = w.toNat ∧
        fld (s'.dev.reg 0x140004) 10 2 = 0 ∧ tail s') ∧
      (1024 ≤ w.toNat → ∃ s', exec (.svcSetPage cmd data (8 * data.length)) s = .next s' ∧ frameDropped s s' 2)) ∧
    (1 ≤ ws.length → ws.length ≤ 64 → cmd.toNat < 64 →
      exec (.svcWriteFrame cmd data (8 * data.length)) s = .next (((List.range ws.length).zip ws).foldl (fun a x => State.frameWrite page a (cmd.toNat + x.1, x.2))
        (s.onDev (fun d => d.frameTaken.setRefused false)))) ∧
    ∀ (w : Word) (m : Nat), ws = [w] → cmd.toNat < 64 → m ∈ [0x160000, 0x160100, 0x160104] → 64 * page + cmd.toNat = 0xC000 + (m - 0x160000) / 4 →
      ∃ s', exec (.svcWriteFrame cmd data (8 * data.length)) s = .next s' ∧ s'.sansRegs = s.sansRegs ∧ tail s' ∧ fld (s'.dev.reg 0x140004) 10 2 = 0 ∧
        (inLims (regRule m).lims w = true → s'.dev.reg m = w &&& BitVec.ofNat 32 (regRule m).mask ∧ flag (s'.dev.reg 0x140004) 12 = false) ∧
        (inLims (regRule m).lims w = false → s'.dev.reg m = s.dev.reg m ∧ flag (s'.dev.reg 0x140004) 12 = true)) ∧
  ∀ (s : State) (cmd : Byte) (units : Nat), s.dev.boot.svcUp = true → let crc := flag (s.dev.reg 0x140000) 1
    let wire (w : Word) : Bytes := be 4 w.toNat
    let kept (s' : State) : Prop := ({ s' with dev := { s'.dev with regs := s.dev.regs, shadow := s.dev.shadow, resp := s.dev.resp, svc := s.dev.svc } } : State) = s
    (cmd.toNat / 64 = 1 → ∃ s', exec (.svcReadFrame cmd units) s = .next s' ∧ kept s' ∧ s'.dev.resp.length = units ∧
      (∀ i < units, ∀ m ∈ [0x160000, 0x160100, 0x160104],
        64 * fld (s.dev.reg 0x140004) 0 10 + (cmd.toNat % 64 + i) % 64 = 0xC000 + (m - 0x160000) / 4 → s'.dev.resp[i]? = some (s.dev.reg m)) ∧
      (crc = false → s'.dev.svc.out = s'.dev.resp.flatMap wire) ∧
      (crc = true → s'.dev.svc.out.length = 5 * units ∧ ∀ i < units, (s'.dev.svc.out.drop (5 * i)).take 4 = wire (s'.dev.resp.getD i 0) ∧
        ((s'.dev.svc.out[5 * i + 4]?).getD 0).toNat = crc8 (cmd :: (s'.dev.resp.take (i + 1)).flatMap wire))) ∧
    (cmd.toNat = 128 → ∃ s', exec (.svcReadStatus cmd) s = .next s' ∧ kept s' ∧ s'.dev.regs = s.dev.regs ∧ s'.dev.resp = [BitVec.ofNat 32 s.dev.pstat] ∧
      s'.dev.svc.out = wire (BitVec.ofNat 32 s.dev.pstat) ++ (if crc then le 1 (crc8 (cmd :: wire (BitVec.ofNat 32 s.dev.pstat))) else [])) ∧
    (128 < cmd.toNat → cmd.toNat < 192 → ∃ s', exec (.svcReadStatus cmd) s = .next s' ∧ s'.dev.svc.out = [] ∧ s'.mem = s.mem ∧
      fld (s'.dev.reg 0x140004) 10 2 = 2)

/-- R537, R538: a companion read is refused while one is busy or for companion 3; once the wires are free the device drives them; its words land in COMP_DATA, a CRC mismatch ending it
with its own status; and a master that asserts select ends it as a collision, which is told. -/
def CompanionReadsLandOrCollide : Prop :=
  (∀ (s : State) (path : Path) (v : Word), opens s.dev path 0x140020 → let d := s.dev
    let busy := fld (d.reg 0x140024) 0 3 = 1
    (busy → exec (.compCmd path v) s = .next { s with dev := d.refuse path 0x140020 2 }) ∧
    (¬busy → fld v 0 2 = 3 → exec (.compCmd path v) s = .next { s with dev := d.refuse path 0x140020 1 }) ∧
    (¬busy → fld v 0 2 ≠ 3 → flag v 31 = false → exec (.compCmd path v) s = .next s) ∧
    (¬busy → fld v 0 2 ≠ 3 → flag v 31 = true → ∃ s', exec (.compCmd path v) s = .next s' ∧ s'.dev.svc = { d.svc with comp := some v } ∧
      s'.dev.reg 0x140024 = 1 ∧ (∀ off, off ≠ 0x140024 → s'.dev.reg off = d.reg off) ∧ ({ s' with dev := { s'.dev with regs := d.regs, svc := d.svc } } : State) = s)) ∧
  ∀ s : State, let d := s.dev
    let drives := flag (d.reg 0x140004) 14 = true
    let ended (s' : State) (n : Word) : Prop := s'.dev.svc = { d.svc with comp := none } ∧ s'.dev.reg 0x140024 = n ∧ flag (s'.dev.reg 0x140004) 14 = false ∧
      s'.mem = s.mem ∧ s'.beat = s.beat ∧ s'.pending = s.pending ∧ s'.dev.cmds = d.cmds
    (d.svc.comp = none → exec .compMasterStart s = .next s) ∧
    (d.svc.comp ≠ none → ∃ s', exec .compMasterStart s = .next s' ∧ flag (s'.dev.reg 0x140004) 14 = true ∧ (∀ off, off ≠ 0x140004 → s'.dev.reg off = d.reg off) ∧
      s'.sansRegs = s.sansRegs) ∧
    ((d.svc.comp = none ∨ ¬drives) → exec .masterCollision s = .next s ∧ ∀ ws ok, exec (.compTransferDone ws ok) s = .next s) ∧
    ∀ v, d.svc.comp = some v → drives →
      (∃ s', exec .masterCollision s = .next s' ∧ ended s' 3 ∧ flag (s'.dev.reg 0x140008) 0 = true ∧
        (d.boot.up = true → gotEvent d s'.dev 16 (event s.clk 0xA0 0 (fld v 0 2) 0 0 0))) ∧
      ∀ ws ok, ∃ s', exec (.compTransferDone ws ok) s = .next s' ∧ ended s' (if ok then 2 else 4) ∧
        (∀ i < 16, s'.dev.reg (0x140040 + 4 * i) = if i < ws.length ∧ i ≤ fld v 18 4 then ws.getD i 0 else d.reg (0x140040 + 4 * i)) ∧
        ∀ off, off < 0x140004 ∨ 0x140080 ≤ off → s'.dev.reg off = d.reg off

/-- Service port frames apply whole or not at all; companion reads land or collide: the statements of ServiceFramesApplyWholeOrNotAtAll, CompanionReadsLandOrCollide together. -/
def Obligations.ServiceFramesAndCompanionReads : Prop :=
  ServiceFramesApplyWholeOrNotAtAll ∧ CompanionReadsLandOrCollide

/-- R543 to R547: each 1 ms period pulses a sink by its mode and duty, or by the automatic pattern, and stretches the first pulse of a second where asked; off and undiagnosed sinks say so at
once; and three diagnostic samples that agree decide the rest, each change being told. -/
def IndicatorsPulseAndAreDiagnosed : Prop :=
  ∀ (s : State) (n : Fin 18) (found : Bool), let d := s.dev
    let cfg := d.reg (0x140400 + 4 * n.val)
    let auto := flag (d.reg 0x140488) 0 = true ∧ ((n.val < 16 ∧ (d.partSt n.val = 2 ∨ d.partSt n.val = 4)) ∨
      (n.val = 16 ∧ (flag (d.reg 0x12000C) 13 = true ∨ flag (d.reg 0x120008) 2 = true)))
    let y := if auto then 256 else fld cfg 0 9
    let mode := if auto then 1 else fld cfg 16 2
    let x := d.sind n.val
    let lit := y ≠ 0 ∧ fld cfg 12 4 ≠ 0 ∧ (mode = 1 → x.ms < 500) ∧ (mode = 2 → x.ms < 125)
    let used := x.used = true ∧ x.ms ≠ 0
    let wide := lit ∧ y ≤ 5 ∧ flag cfg 18 = true ∧ ¬used
    let status (e : Dev) : Nat := fld (e.reg (0x140480 + 4 * (n.val / 16))) (2 * (n.val % 16)) 2
    let blind := fld cfg 12 4 = 0 ∨ (y ≤ 5 ∧ flag cfg 18 = false)
    let told (s' : State) (v : Nat) : Prop := status s'.dev = v ∧ (status d ≠ v → d.boot.up = true → gotEvent d s'.dev 16 (event s.clk 0xA2 0 n.val v (status d) 0)) ∧
      (status d = v → s'.dev.evq = d.evq)
    let kept (s' : State) : Prop := s'.mem = s.mem ∧ s'.beat = s.beat ∧ s'.pending = s.pending ∧ s'.dev.cmds = d.cmds ∧ ∀ j < 18, j ≠ n.val → s'.dev.sind j = d.sind j
    (d.boot.svcUp = false → exec (.sindPeriod n) s = .next s) ∧
    (d.boot.svcUp = true → ∃ s', exec (.sindPeriod n) s = .next s' ∧ kept s' ∧ (s'.dev.sind n.val).ms = (x.ms + 1) % 1000 ∧
      (lit → (s'.dev.sind n.val).on = y) ∧ (¬lit → (s'.dev.sind n.val).on = 0) ∧ ((s'.dev.sind n.val).wide = true ↔ wide) ∧
      ((s'.dev.sind n.val).used = true ↔ used ∨ wide) ∧
      (y = 0 → told s' 3) ∧ (y ≠ 0 → blind → told s' 2) ∧ (y ≠ 0 → ¬blind → s'.dev.regs = d.regs ∧ s'.dev.evq = d.evq ∧ (s'.dev.sind n.val).hist = x.hist)) ∧
    ((x.on < 6 ∧ x.wide = false) → exec (.sindDiagSample n found) s = .next s) ∧
    ((6 ≤ x.on ∨ x.wide = true) → ∃ s', exec (.sindDiagSample n found) s = .next s' ∧ kept s' ∧
      s'.dev.sind n.val = { x with on := 0, wide := false, hist := (found :: x.hist).take 3 } ∧
      ((found :: x.hist).take 3 = [found, found, found] → told s' (if found then 0 else 1)) ∧
      ((found :: x.hist).take 3 ≠ [found, found, found] → s'.dev.regs = d.regs ∧ s'.dev.evq = d.evq))

/-- R557 to R562: a duty's window opens at its notch of its beats and closes after its length; a calibration pass retrains its 133 units one after another, a failed channel being counted, a
sensor's trim moving by at most 2 °C; and at each telemetry opening the snapshot with the next sequence number goes to host memory. -/
def DutiesFollowTheirWindows : Prop :=
  (∀ (s : State) (k : Fin 4), let d := s.dev
    let P := fld (d.reg (0x200 + 0x10 * k.val)) 0 24
    let OFF := fld (d.reg (0x204 + 0x10 * k.val)) 0 24
    let START := fld (d.reg (0x208 + 0x10 * k.val)) 0 10
    let LEN := fld (d.reg (0x208 + 0x10 * k.val)) 10 22
    OFF < P → s.beat.notch < 1024 →
    let due := s.beat.counting = true ∧ s.beat.num % P = OFF ∧ s.beat.notch = START
    let pos := (s.beat.num + P - OFF) % P * 1024 + s.beat.notch
    let inside := s.beat.counting = true ∧ START ≤ pos ∧ pos < START + LEN
    (¬due → exec (.bgWindowOpen k) s = .next s) ∧
    (due → ∃ s', exec (.bgWindowOpen k) s = .next s' ∧ (∀ j, j ∈ s'.dev.bgOpen ↔ j = k.val ∨ j ∈ d.bgOpen) ∧ s'.beat = s.beat ∧ s'.mem = s.mem ∧ s'.pending = s.pending ∧
      ((k.val = 0 ∨ k.val = 2) → ({ s' with dev := { s'.dev with bgOpen := d.bgOpen } } : State) = s) ∧
      (k.val = 1 → s'.dev.svc = { d.svc with calBusy := d.svc.calBusy || d.svc.calRun } ∧ s'.dev.regs = d.regs) ∧
      (k.val = 3 → (isHost (d.reg64 0x250) = false ∨ d.ready = false) → s'.dev.toHost = d.toHost ∧ s'.dev.regs = d.regs) ∧
      (k.val = 3 → isHost (d.reg64 0x250) = true → d.ready = true → (d.reg 0x258).toNat + 1 < 2 ^ 32 →
        s'.dev.reg 0x258 = d.reg 0x258 + 1 ∧ ∃ bs, bs.length = 256 ∧ s'.dev.toHost = d.toHost ++ hostRequests 0 d.mps 256 (d.reg64 0x250) bs ∧
          bs.take 8 = le 8 ((d.reg 0x258).toNat + 1) ∧ bs.drop 248 = le 8 ((d.reg 0x258).toNat + 1) ∧
          ∀ i < 18, (bs.drop (32 + 8 * i)).take 8 = le 8 (d.reg64 (0x120200 + 8 * i)))) ∧
    (inside → exec (.bgWindowClose k) s = .next s) ∧
    (¬inside → ∃ s', exec (.bgWindowClose k) s = .next s' ∧ (∀ j, j ∈ s'.dev.bgOpen ↔ j ≠ k.val ∧ j ∈ d.bgOpen) ∧
      ({ s' with dev := { s'.dev with bgOpen := d.bgOpen } } : State) = s)) ∧
  (∀ s : State, let d := s.dev
    (d.ready = false → exec .calPassStart s = .next s) ∧
    (d.ready = true → d.svc.calRun = true → exec .calPassStart s = .next { s with dev := { d with svc := { d.svc with calDue := true } } }) ∧
    (d.ready = true → d.svc.calRun = false → ∃ s', exec .calPassStart s = .next s' ∧
      s'.dev.svc = { d.svc with calRun := true, calDue := false, calBusy := s.winOpen 1 } ∧ s'.dev.reg 0x244 = 0 ∧ (∀ off, off ≠ 0x244 → s'.dev.reg off = d.reg off) ∧
      ({ s' with dev := { s'.dev with svc := d.svc, regs := d.regs } } : State) = s)) ∧
  ∀ s : State, let d := s.dev
    let at? (u : Nat) : Prop := d.svc.calRun = true ∧ fld (d.reg 0x244) 0 8 = u ∧ (d.svc.calBusy = true ∨ s.winOpen 1 = true)
    let kept (s' : State) : Prop := ({ s' with dev := { s'.dev with svc := d.svc, regs := d.regs } } : State) = s
    (∀ (die : Fin 4) (ch : Fin 32) (ok : Bool), let u := 32 * die.val + ch.val
      (¬at? u → exec (.channelRetrainDone die ch ok) s = .next s) ∧
      (at? u → ∃ s', exec (.channelRetrainDone die ch ok) s = .next s' ∧ kept s' ∧ s'.dev.svc = { d.svc with calBusy := s.winOpen 1 } ∧
        (s'.dev.reg 0x244).toNat = u + 1 ∧ (ok = true → ∀ off, off ≠ 0x244 → s'.dev.reg off = d.reg off) ∧
        (ok = false → d.reg 0x248 ≠ 0xFFFFFFFF → s'.dev.reg 0x248 = d.reg 0x248 + 1))) ∧
    ∀ (set : Fin 5) (diff : List Int), let u := 128 + set.val
      let trim (e : Dev) (i : Nat) : Int := Sparse.get (fun _ => 0) e.svc.trim i
      let last := set.val = 4
      (¬at? u → exec (.sensorTrimDone set diff) s = .next s) ∧
      (at? u → ∃ s', exec (.sensorTrimDone set diff) s = .next s' ∧ kept s' ∧
        (∀ i < (if set.val < 4 then 16 else 8), ∀ x, diff[i]? = some x → trim s'.dev (16 * set.val + i) = trim d (16 * set.val + i) + max (-20) (min 20 x)) ∧
        (∀ i, (i < 16 * set.val ∨ 16 * set.val + (if set.val < 4 then 16 else 8) ≤ i) → trim s'.dev i = trim d i) ∧
        (¬last → (s'.dev.reg 0x244).toNat = u + 1 ∧ s'.dev.svc.calRun = true ∧ s'.dev.svc.calBusy = s.winOpen 1) ∧
        (last → d.svc.calDue = false → s'.dev.svc.calRun = false ∧ (s'.dev.reg 0x244).toNat = 133) ∧
        (last → d.svc.calDue = true → s'.dev.svc.calRun = true ∧ s'.dev.svc.calDue = false ∧ s'.dev.reg 0x244 = 0 ∧ s'.dev.svc.calBusy = s.winOpen 1))

/-- Indicators pulse and are diagnosed; background duties follow their windows: the statements of IndicatorsPulseAndAreDiagnosed, DutiesFollowTheirWindows together. -/
def Obligations.IndicatorsAndBackgroundDuties : Prop :=
  IndicatorsPulseAndAreDiagnosed ∧ DutiesFollowTheirWindows


/-! ### Bring-up, firmware, reset pins and the test access port (R23, R28, R464, R549 to R555, R586 to R588, R594 to R596) -/

/-- Bring-up is in a stage and has not failed (R549). -/
def atStage (d : Dev) (n : Nat) : Prop := d.boot.svcUp = true ∧ flag (d.reg 0x100) 9 = false ∧ fld (d.reg 0x100) 0 4 = n

/-- BOOT_STATUS alone has changed, and shows the stage. -/
def stageIs (s s' : State) (n : Nat) : Prop := fld (s'.dev.reg 0x100) 0 4 = n ∧ ∀ off, off ≠ 0x100 → s'.dev.reg off = s.dev.reg off

/-- The outcome is a next state in which BOOT_STATUS alone has changed, and shows a failure with its cause, die and channel. -/
def bringUpFails (o : Host.Outcome State Fault Refusal) (s : State) (cause die ch : Nat) : Prop :=
  ∃ s', o = .next s' ∧ s'.sansRegs = s.sansRegs ∧ stageIs s s' (fld (s.dev.reg 0x100) 0 4) ∧ flag (s'.dev.reg 0x100) 9 = true ∧ fld (s'.dev.reg 0x100) 12 4 = cause ∧
    fld (s'.dev.reg 0x100) 16 2 = die ∧ fld (s'.dev.reg 0x100) 18 5 = ch

/-- R552: bytes that pass the check with version `v`, where `sig` says whether the signature verifies. -/
def passesCheck (sig : Bool) (c : Option Bytes) (v : Nat) : Prop :=
  ∃ b, c = some b ∧ sig = true ∧ b.take 4 = [0x55, 0x4C, 0x46, 0x57] ∧ fieldAt b 4 4 = v ∧ Config.fuseVersion.toNat ≤ v ∧ fieldAt b 8 4 % 4 = 0 ∧ 4 ≤ fieldAt b 8 4 ∧
    fieldAt b 8 4 ≤ 4194304 - 256 ∧ 256 + fieldAt b 8 4 ≤ b.length ∧ zeroAt b 12 52 = true ∧ zeroAt b 208 48 = true ∧
    sha384 (sub b 256 (fieldAt b 8 4)) = sub b 64 48

/-- What the release of internal reset leaves (R23, R28, R588). -/
def released (s s' : State) (x : Straps) : Prop :=
  s'.dev.boot.up = true ∧ s'.dev.boot.due = false ∧ fld (s'.dev.reg 0x100) 0 4 = 3 ∧ s'.dev.strapId = x.x.toNat + 4 * x.y.toNat + 16 * x.z.toNat ∧
    s'.dev.strapLead = !x.leadN ∧ s'.beat.role = (if x.leadN then .alone else .lead) ∧ s'.mem = s.mem ∧ s'.pending = s.pending ∧
    (s.dev.boot.due = false → (∀ off, off ≠ 0x100 → s'.dev.reg off = s.dev.reg off) ∧ s'.dev.cmds = s.dev.cmds ∧ ({ s'.beat with role := s.beat.role } : BeatUnit) = s.beat) ∧
    (s.dev.boot.due = true → s'.dev.cmds = [] ∧ ∀ p < 16, s'.dev.reg (0x160380 + 4 * p) = s.dev.reg (0x160380 + 4 * p) + 1)

/-- R464, R549, R552, R588, R596: the accepted copy of the higher version boots, A on a tie, and without one bring-up fails with cause 1; internal reset is released with every rail
good and three equal readings of the straps, or with the last after its timeout; and the clocks, training, memory and self-test follow, each failing with
its own cause. -/
def BringUpPassesItsStages : Prop :=
  (∀ (s : State) (sigA sigB : Bool), let A := FwCopy.bytes false s.dev.boot.fwA
    let B := FwCopy.bytes true s.dev.boot.fwB
    let boots (copyB : Bool) (v : Nat) : Prop := ∃ s', exec (.firmwareCheckDone sigA sigB) s = .next s' ∧ fld (s'.dev.reg 0x100) 0 4 = 2 ∧ flag (s'.dev.reg 0x100) 24 = copyB ∧
      s'.dev.reg 0x10 = BitVec.ofNat 32 v ∧ s'.dev.boot = { s.dev.boot with checked := true } ∧ ({ s' with dev := { s'.dev with boot := s.dev.boot, regs := s.dev.regs } } : State) = s ∧
      (flag (s'.dev.reg 0x100) 25 = true ↔ ¬∃ x, passesCheck sigA A x) ∧ (flag (s'.dev.reg 0x100) 26 = true ↔ ¬∃ x, passesCheck sigB B x)
    (¬atStage s.dev 1 → exec (.firmwareCheckDone sigA sigB) s = .next s) ∧
    (atStage s.dev 1 → ∀ v, passesCheck sigA A v → (∀ w, passesCheck sigB B w → w ≤ v) → boots false v) ∧
    (atStage s.dev 1 → ∀ v, passesCheck sigB B v → (∀ w, passesCheck sigA A w → w < v) → boots true v) ∧
    (atStage s.dev 1 → (¬∃ v, passesCheck sigA A v) → (¬∃ v, passesCheck sigB B v) → bringUpFails (exec (.firmwareCheckDone sigA sigB) s) s 1 0 0)) ∧
  (∀ (s : State) (r1 r2 r3 : Straps) (t : Nat),
    let may := atStage s.dev 2 ∧ s.dev.boot.checked = true ∧ s.dev.boot.up = false ∧ s.dev.boot.pg = BitVec.allOnes 12 ∧
      flag (s.dev.reg 0x120008) 3 = false ∧ s.dev.boot.tap ∉ ([0x00, 0x03, 0x04, 0x05, 0x06] : List (BitVec 8))
    ((¬may ∨ r1 ≠ r2 ∨ r2 ≠ r3) → exec (.internalResetRelease r1 r2 r3 t) s = .next { s with dev := s.dev.at t }) ∧
    (may → r1 = r2 → r2 = r3 → ∃ s', exec (.internalResetRelease r1 r2 r3 t) s = .next s' ∧ released s s' r1) ∧
    (¬may → exec (.strapDisagreeTimeout r3 t) s = .next { s with dev := s.dev.at t }) ∧
    (may → ∃ s', exec (.strapDisagreeTimeout r3 t) s = .next s' ∧ released s s' r3)) ∧
  (∀ s : State, let b := s.dev.boot
    let only (s' : State) : Prop := ({ s' with dev := { s'.dev with boot := b, regs := s.dev.regs } } : State) = s
    (¬atStage s.dev 3 → exec .clocksLocked s = .next s) ∧
    (atStage s.dev 3 → b.perst = true → exec .clocksLocked s = .next { s with dev := { s.dev with boot := { b with locked := true } } }) ∧
    (atStage s.dev 3 → b.perst = false → ∃ s', exec .clocksLocked s = .next s' ∧ only s' ∧ stageIs s s' 4 ∧ s'.dev.boot = { b with locked := true, pcie := true }) ∧
    (∀ fails, ¬atStage s.dev 4 → exec (.dramTrainingDone fails) s = .next s) ∧
    (atStage s.dev 4 → ∃ s', exec (.dramTrainingDone []) s = .next s' ∧ s'.sansRegs = s.sansRegs ∧ stageIs s s' 5) ∧
    (∀ fails, atStage s.dev 4 → fails ≠ [] → b.tries = 0 → exec (.dramTrainingDone fails) s = .next { s with dev := { s.dev with boot := { b with tries := 1 } } }) ∧
    (∀ fails c, atStage s.dev 4 → c ∈ fails → (∀ x ∈ fails, c ≤ x) → c < 128 → b.tries ≠ 0 → bringUpFails (exec (.dramTrainingDone fails) s) s 3 (c / 32) (c % 32)) ∧
    (¬atStage s.dev 5 → exec .memInitDone s = .next s) ∧
    (atStage s.dev 5 → ∃ s', exec .memInitDone s = .next s' ∧ s'.mem = [] ∧ s'.dev.poison = [] ∧ stageIs s s' 6 ∧
      ({ s' with mem := s.mem, dev := { s'.dev with regs := s.dev.regs, poison := s.dev.poison } } : State) = s) ∧
    let still := b.svcUp = false ∨ flag (s.dev.reg 0x100) 9 = true ∨ s.dev.ready = true
    let st := fld (s.dev.reg 0x100) 0 4
    (∀ total, still → exec (.bringupStageTimeout total) s = .next s) ∧
    (¬still → 3 ≤ st → bringUpFails (exec (.bringupStageTimeout true) s) s 5 0 0) ∧ (¬still → st < 3 → exec (.bringupStageTimeout true) s = .next s) ∧
    (¬still → st = 1 → bringUpFails (exec (.bringupStageTimeout false) s) s 1 0 0) ∧
    (¬still → st = 3 → b.locked = false → bringUpFails (exec (.bringupStageTimeout false) s) s 2 0 0) ∧
    (¬still → ((st = 4 ∧ b.tries ≠ 0) ∨ st = 5) → bringUpFails (exec (.bringupStageTimeout false) s) s 3 0 0) ∧
    (¬still → st = 4 → b.tries = 0 → exec (.bringupStageTimeout false) s = .next { s with dev := { s.dev with boot := { b with tries := 1 } } }) ∧
    (¬still → st = 6 → bringUpFails (exec (.bringupStageTimeout false) s) s 4 0 0) ∧
    ((¬still → st ∉ [1, 3, 4, 5, 6] → exec (.bringupStageTimeout false) s = .next s) ∧ (¬still → st = 3 → b.locked = true → exec (.bringupStageTimeout false) s = .next s))) ∧
  ∀ (s : State) (cores : List (Nat × Nat)) (routers : List Nat) (iodOk : Bool) (t : Nat), let s0 : State := { s with dev := s.dev.at t }
    (¬atStage s.dev 6 → exec (.selfTestComplete cores routers iodOk t) s = .next s0) ∧
    (atStage s.dev 6 → iodOk = false → bringUpFails (exec (.selfTestComplete cores routers iodOk t) s) s0 4 0 0) ∧
    (atStage s.dev 6 → iodOk = true → ∃ s', exec (.selfTestComplete cores routers iodOk t) s = .next s' ∧ fld (s'.dev.reg 0x100) 0 4 = 7 ∧ s'.dev.ready = true ∧
      s'.beat.powered = true ∧ s'.beat.num = s.beat.num ∧ s'.mem = s.mem ∧ s'.pending = s.pending ∧
      (∀ p < 16, (s'.dev.chain p).gen = (s.dev.chain p).gen + 1 ∧ (s'.dev.chain p).next = 1 ∧ (s'.dev.chain p).sealNext = 1) ∧
      (flag (s.dev.reg 0x104) 0 = true → s'.dev.boot.links = true) ∧ (flag (s.dev.reg 0x104) 0 = false → s'.dev.boot.links = s.dev.boot.links) ∧
      ∀ e < 576, let st (d : Dev) : Nat := fld (d.reg (0x161000 + 8 * e)) 0 2
        (2 ≤ st s.dev → st s'.dev = st s.dev) ∧
        (∀ r, cores.find? (fun x => x.1 == e) = some (e, r) → (r ≠ 2 ∨ flag (s.dev.reg 0x80000) 4 = false) → 2 ≤ st s'.dev) ∧
        (e ∈ routers → 2 ≤ st s'.dev ∧ flag (s'.dev.reg (0x161000 + 8 * e)) 2 = true))

/-- R553, R555, R566: the service space alone opens, writes and closes the copy that did not boot, a word beyond 4 MiB or with no copy open being refused; and LINK_GO releases link training
once, after READY. -/
def FirmwareIsWrittenThroughTheServiceSpaceAlone : Prop :=
  (∀ op : Path → Word → Instr, (op = .fwOpen ∨ op = .fwCommit) → ∀ (s : State) (path : Path) (v : Word), opens s.dev path 0x110 → let d := s.dev
    let aIsSpare := flag (d.reg 0x100) 24 = true
    let spare (e : Dev) : FwCopy := if aIsSpare then e.boot.fwA else e.boot.fwB
    let ends (c : FwCopy) : Prop := ∃ s', exec (op path v) s = .next s' ∧ spare s'.dev = c ∧ (∀ off, off ≠ 0x118 → s'.dev.reg off = d.reg off) ∧
      (s'.dev.boot = if aIsSpare then { d.boot with fwA := c } else { d.boot with fwB := c }) ∧ ({ s' with dev := { s'.dev with boot := d.boot, regs := d.regs } } : State) = s ∧
      fld (s'.dev.reg 0x118) 0 2 = (if flag v 1 then 2 else 1)
    (path ≠ .svc → exec (op path v) s = .next { s with dev := d.refuse path 0x110 3 }) ∧
    (path = .svc → flag v 0 = true → ends (.written [] (flag v 1))) ∧
    (path = .svc → flag v 0 = false → ∀ ws, spare d = .written ws false → flag v 1 = true → ends (.written ws true)) ∧
    (path = .svc → flag v 0 = false → (flag v 1 = false ∨ ∀ ws, spare d ≠ .written ws false) → exec (op path v) s = .next s)) ∧
  (∀ (s : State) (path : Path) (v : Word), opens s.dev path 0x114 → let d := s.dev
    let aIsSpare := flag (d.reg 0x100) 24 = true
    let spare (e : Dev) : FwCopy := if aIsSpare then e.boot.fwA else e.boot.fwB
    let refused (n : Nat) : Prop := ∃ s', exec (.fwData path v) s = .next s' ∧ s'.sansRegs = s.sansRegs ∧ fld (s'.dev.reg 0x118) 0 2 = 3 ∧
      (s'.dev.reg (werrKey .svc)).toNat = 0x45 + n * 2 ^ 24 + 2 ^ 31
    (path ≠ .svc → exec (.fwData path v) s = .next { s with dev := d.refuse path 0x114 3 }) ∧
    (path = .svc → (∀ ws, spare d ≠ .written ws false) → refused 2) ∧
    ∀ ws, path = .svc → spare d = .written ws false →
      (1048576 ≤ ws.length → refused 1) ∧
      (ws.length < 1048576 → ∃ s', exec (.fwData path v) s = .next s' ∧ spare s'.dev = .written (ws ++ [v]) false ∧
        (s'.dev.reg 0x118).toNat = 1 + 256 * (ws.length + 1) ∧ (∀ off, off ≠ 0x118 → s'.dev.reg off = d.reg off) ∧
        ({ s' with dev := { s'.dev with boot := d.boot, regs := d.regs } } : State) = s)) ∧
  ∀ (s : State) (path : Path) (v : Word), opens s.dev path 0x104 → let go := flag v 1 = true ∧ s.dev.ready = true ∧ s.dev.boot.links = false
    (¬go → regNext (exec (.linkGo path v) s) s (s.dev.withReg 0x104 (v &&& 1))) ∧
    (go → ∃ s', exec (.linkGo path v) s = .next s' ∧ s'.dev.reg 0x104 = v &&& 1 ∧ s'.dev.boot = { s.dev.boot with links := true } ∧
      (∀ p < 6, flag (s.dev.reg (0xE0100 + 0x20 * p)) 0 = true → s'.dev.portSt p = 1) ∧ s'.mem = s.mem ∧ s'.beat = s.beat ∧ s'.pending = s.pending)

/-- Bring-up passes its stages or fails with its cause; firmware is written through the service space alone: the statements of BringUpPassesItsStages, FirmwareIsWrittenThroughTheServiceSpaceAlone together. -/
def Obligations.BringUpAndFirmware : Prop :=
  BringUpPassesItsStages ∧ FirmwareIsWrittenThroughTheServiceSpaceAlone

/-- R317, R464, R586, R587, R594 to R596: PERST_N asserted and a lost reference clock reset the device, but for a latched power fault, and the clock in PS5; released, PERST_N lets bring-up
pass stage 3; an instruction that drives the pins resets the device as it is entered; and the data registers capture the IDCODE or 0. -/
def PinsAndTestInstructionsReset : Prop :=
  ∀ s : State, let d := s.dev
    let reset (s' : State) : Prop := resetLeaves s s' ∧ s'.dev.vfs = false ∧ s'.dev.mps = 128 ∧ s'.dev.mrrs = 512
    (d.boot.perst = true → exec .perstAssert s = .next s) ∧
    (d.boot.perst = false → d.boot.due = true → exec .perstAssert s = .next { s with dev := { d with boot := { d.boot with perst := true } } }) ∧
    (d.boot.perst = false → d.boot.due = false → d.boot.svcUp = true → ∃ s', exec .perstAssert s = .next s' ∧ reset s' ∧ s'.dev.boot.perst = true) ∧
    ((d.boot.locked = true ∧ atStage d 3) → ∃ s', exec .perstRelease s = .next s' ∧ stageIs s s' 4 ∧ s'.dev.boot = { d.boot with perst := false, pcie := true } ∧
      ({ s' with dev := { s'.dev with boot := d.boot, regs := d.regs } } : State) = s) ∧
    (¬(d.boot.locked = true ∧ atStage d 3) → exec .perstRelease s = .next { s with dev := { d with boot := { d.boot with perst := false } } }) ∧
    ((flag (d.reg 0x120008) 3 = true ∨ d.boot.due = true) → exec .refclkLoss s = .next s) ∧
    (flag (d.reg 0x120008) 3 = false → d.boot.due = false → d.boot.svcUp = true → ∃ s', exec .refclkLoss s = .next s' ∧ reset s' ∧ s'.dev.boot.perst = d.boot.perst) ∧
    let drives (c : BitVec 8) : Prop := c ∈ ([0x00, 0x03, 0x04, 0x05, 0x06] : List (BitVec 8))
    (∀ (i : Instr) (c : BitVec 8), ((i = .extest ∧ c = 0x00) ∨ (i = .samplePreload ∧ c = 0x01) ∨ (i = .clamp ∧ c = 0x03) ∨ (i = .highz ∧ c = 0x04) ∨
        (i = .extestPulse ∧ c = 0x05) ∨ (i = .extestTrain ∧ c = 0x06)) →
      ((¬drives c ∨ drives d.boot.tap) → exec i s = .next { s with dev := { d with boot := { d.boot with tap := c } } }) ∧
      (drives c → ¬drives d.boot.tap → d.boot.svcUp = true → ∃ s', exec i s = .next s' ∧ reset s' ∧ s'.dev.boot.tap = c)) ∧
    (∀ i : Instr, (i = .idcode ∨ i = .tapReset) →
      exec i s = .next { s with dev := { d with boot := { d.boot with tap := 0x02, tdr := 0x051165AF + 2 ^ 28 * fld (d.reg 0) 20 4 } } }) ∧
    ∀ code : BitVec 8, (code.toNat < 7 → exec (.bypass code) s = .next s) ∧
      (7 ≤ code.toNat → exec (.bypass code) s = .next { s with dev := { d with boot := { d.boot with tap := code, tdr := 0 } } })

/-- Device resets, reset pins and test instructions keep only what survives a reset: the statements of DeviceResetsKeepOnlyWhatSurvives, PinsAndTestInstructionsReset together. -/
def Obligations.ResetsAndPinsKeepOnlyWhatSurvives : Prop :=
  DeviceResetsKeepOnlyWhatSurvives ∧ PinsAndTestInstructionsReset


/-! ### Decode faults, the queue, and what every step keeps (R10, R91, R145, R167, R168, R172 to R175, R188, R207, R243, R244, R343, R471) -/

/-- R145, R167, R168, R172 to R175, R188, R207: an integer instruction outside the code ends its command with fault pc-range; with a guard that cannot be, a reserved field set or a misaligned
register, with illegal-instruction; with a register at or beyond REGS, with register-range, whatever the guard; and one that a wait holds does nothing. -/
def Obligations.UndecodableInstructionsEndTheirKernel : Prop :=
  ∀ o ∈ intRows, ∀ (s : State) (g : At) (f : RForm), let i := o.instr g f
    let c := o.chk f
    (s.thr g = none → exec i s = .next s) ∧
    ∀ x, s.thr g = some x →
      ((x.grp.blocked = true ∨ x.grp.hazard c.uses = true ∨ x.cmd.ph.fellable = false) → exec i s = .next s) ∧
      (x.grp.blocked = false → x.grp.hazard c.uses = false → x.cmd.ph.fellable = true →
        (x.cmd.run.codeLen ≤ x.grp.pc → kernelFaults (exec i s) s x 0x13) ∧
        (x.grp.pc < x.cmd.run.codeLen →
          let illegal := (f.gn = true ∧ f.gp = 0) ∨ f.fmt ≠ 9 ∨ f.rm ≠ 0 ∨ c.illegal = true ∨ ∃ u ∈ c.uses, u.uni = true ∧ 64 ≤ u.reg
          let beyond := ∃ u ∈ c.uses, u.uni = false ∧ u.reg ≠ 255 ∧ x.cmd.run.regs ≤ u.reg
          (illegal → kernelFaults (exec i s) s x 0x10) ∧ (¬illegal → beyond → kernelFaults (exec i s) s x 0x01)))

/-- The step rule: the command at the front of the queue runs on the queue's rest; with nothing in its queue the block idles. -/
def Obligations.AStepRunsTheFrontOfTheQueue : Prop :=
  (∀ (c : Instr) (s : State), step { s with pending := c :: s.pending } = exec c s) ∧ ∀ s : State, s.pending = [] → step s = .next s

/-- No command takes from the queue or adds to it: a step takes the one at the front, and a next state holds the rest. -/
def Obligations.CommandsLeaveTheQueueAlone : Prop :=
  (∀ (i : Instr) (s s' : State), exec i s = .next s' → s'.pending = s.pending) ∧
    ∀ s s' : State, step s = .next s' → s'.pending = s.pending.tail

/-- The address that a request names at its home: the requests, replies and timeouts of coherence, and writes that land at a home. -/
def homeAddr : Instr → Option Nat
  | .rds a _ _ | .rdu a _ _ | .upg a _ _ | .evc a _ | .wb a _ | .pkr a _ _ | .invw a _ _ _ _ | .atm a _ _ _ | .snoop a _ | .snoopReply a _ | .homeTimeout a _ => some a
  | .writeLand p _ a _ _ | .finalWriteArrive p _ _ _ a _ _ _ => match p with
    | .core _ _ => none
    | _ => some a
  | _ => none

/-- R243, R245: every command has an effect in every state, but for a request of an address that no home serves, which stops by that name. -/
def Obligations.EveryCommandRunsWhereItsHomeExists : Prop :=
  ∀ (i : Instr) (s : State),
    ((∀ a, homeAddr i = some a → s.dev.place a ≠ none) → Safe (exec i s)) ∧
    ∀ a, homeAddr i = some a → s.dev.place a = none → exec i s = .fault (.notHomed a)

/-- What every step keeps: device memory in its canonical form, no more than 64 events held for a ring (R343), and every floor of a die at a state from PS0 to PS3 (R471). -/
def Kept (s : State) : Prop :=
  Memory.wf s.mem = true ∧ (∀ r, (s.dev.evQ r).q.length ≤ 64) ∧ ∀ die < 4, ∀ k < 5, (s.dev.floor die k).ps ≤ 3

/-- R343, R471: every step of the block keeps the canonical form of device memory, the 64 events of a holding queue, and the floors' range. -/
def Obligations.EveryStepKeepsMemoryQueuesAndFloors : Prop := ∀ s s' : State, Kept s → step s = .next s' → Kept s'

/-- What reset leaves (R58, R109, R350, R479, R512, R523): nothing in flight, nothing written, and the reset values of the register tables. -/
def Obligations.ResetLeavesTheStatedValues : Prop :=
  Kept State.reset ∧ State.reset.pending = [] ∧ State.reset.mem = [] ∧ State.reset.dev.cmds = [] ∧ State.reset.dev.cores = [] ∧ State.reset.dev.boot.svcUp = false ∧
    State.reset.dev.boot.up = false ∧ State.reset.dev.ready = false ∧ State.reset.beat.num = 0 ∧ State.reset.beat.st = .unlocked ∧
    (∀ e ∈ [(0x120100, 200), (0x120104, 220), (0x120108, 330), (0x12010C, 300), (0x120110, 350), (0x120114, 350), (0x120118, 700), (0x12011C, 700), (0x120120, 40000),
        (0x120124, 4000), (0x120128, 12000), (0x12012C, 200000), (0x120130, 10240000), (0x120134, 60000), (0x120138, 80000), (0x240, 600), (0x104, 1), (0x10028, 2000)],
      State.reset.dev.reg e.1 = BitVec.ofNat 32 e.2) ∧
    ∀ p < 16, State.reset.dev.reg (0x20000 + 0x1000 * p) = BitVec.ofNat 32 p ∧ State.reset.dev.reg (0x20110 + 0x1000 * p) = 1024
end

