-- ==== Sys2Proof/Laws/Sparse.lean ====
section
/-! SUPPORT. Laws of keyed stores and of device memory: a read after a write, and the canonical form that every write keeps. -/

namespace Sys2Proof.Machine

variable {α : Type}

theorem Sparse.get_drop (d : Nat → α) (m : Sparse α) (k j : Nat) :
    Sparse.get d (Sparse.drop m k) j = if j = k then d j else Sparse.get d m j := by
  induction m with
  | nil => simp [Sparse.drop, Sparse.get]
  | cons e r ih =>
    obtain ⟨a, v⟩ := e
    by_cases h : k = a
    · subst h; by_cases h' : j = k <;> simp_all [Sparse.drop, Sparse.get]
    · by_cases h' : j = a
      · subst h'; simp [Sparse.drop, Sparse.get, h, Ne.symm h]
      · simp [Sparse.drop, Sparse.get, h, h', ih]

theorem Sparse.get_ins (d : Nat → α) (m : Sparse α) (k : Nat) (v : α) (j : Nat) :
    Sparse.get d (Sparse.ins m k v) j = if j = k then v else Sparse.get d m j := by
  induction m with
  | nil => simp [Sparse.ins, Sparse.get]
  | cons e r ih =>
    obtain ⟨a, w⟩ := e
    by_cases h : k < a
    · simp [Sparse.ins, h, Sparse.get]
    · by_cases h' : k = a
      · subst h'; by_cases hj : j = k <;> simp [Sparse.ins, Sparse.get, hj]
      · by_cases hj : j = a
        · have : j ≠ k := by omega
          simp [Sparse.ins, h, h', Sparse.get, hj]; omega
        · simp [Sparse.ins, h, h', Sparse.get, hj, ih]

/-- A read after a write: the value written at its key, the old value elsewhere. -/
theorem Sparse.get_put [DecidableEq α] (d : Nat → α) (m : Sparse α) (k : Nat) (v : α) (j : Nat) :
    Sparse.get d (Sparse.put d m k v) j = if j = k then v else Sparse.get d m j := by
  unfold Sparse.put
  split
  · next h => rw [Sparse.get_drop]; split <;> simp_all
  · exact Sparse.get_ins d m k v j

@[simp] theorem Sparse.get_put_same [DecidableEq α] (d : Nat → α) (m : Sparse α) (k : Nat) (v : α) :
    Sparse.get d (Sparse.put d m k v) k = v := by simp [Sparse.get_put]

theorem Sparse.get_put_other [DecidableEq α] (d : Nat → α) (m : Sparse α) (v : α) {k j : Nat} (h : j ≠ k) :
    Sparse.get d (Sparse.put d m k v) j = Sparse.get d m j := by simp [Sparse.get_put, h]

theorem Sparse.above_drop (n : Nat) (m : Sparse α) (k : Nat) (h : Sparse.above n m = true) :
    Sparse.above n (Sparse.drop m k) = true := by
  induction m with
  | nil => exact h
  | cons e r ih =>
    obtain ⟨a, v⟩ := e
    simp only [Sparse.above, List.all_cons, Bool.and_eq_true, decide_eq_true_eq] at h ih ⊢
    simp only [Sparse.drop]
    split
    · exact ih h.2
    · simp only [List.all_cons, Bool.and_eq_true, decide_eq_true_eq]; exact ⟨h.1, ih h.2⟩

theorem Sparse.above_ins (n : Nat) (m : Sparse α) (k : Nat) (v : α) (h : Sparse.above n m = true) (hk : n < k) :
    Sparse.above n (Sparse.ins m k v) = true := by
  induction m with
  | nil => simp [Sparse.ins, Sparse.above, hk]
  | cons e r ih =>
    obtain ⟨a, w⟩ := e
    simp only [Sparse.above, List.all_cons, Bool.and_eq_true, decide_eq_true_eq] at h ih ⊢
    simp only [Sparse.ins]
    split
    · simp [hk, h.1]; simpa using h.2
    · split
      · simp [hk]; simpa using h.2
      · simp only [List.all_cons, Bool.and_eq_true, decide_eq_true_eq]; exact ⟨h.1, ih h.2⟩

theorem Sparse.above_trans {n k : Nat} (m : Sparse α) (h : Sparse.above k m = true) (hk : n < k) : Sparse.above n m = true := by
  simp only [Sparse.above, List.all_eq_true, decide_eq_true_eq] at h ⊢
  intro e he; have := h e he; omega

theorem Sparse.wf_drop [DecidableEq α] (d : Nat → α) (m : Sparse α) (k : Nat) (h : Sparse.wf d m = true) :
    Sparse.wf d (Sparse.drop m k) = true := by
  induction m with
  | nil => exact h
  | cons e r ih =>
    obtain ⟨a, v⟩ := e
    simp only [Sparse.wf, Bool.and_eq_true] at h
    simp only [Sparse.drop]
    split
    · exact ih h.2
    · simp only [Sparse.wf, Bool.and_eq_true]
      exact ⟨⟨Sparse.above_drop a r k h.1.1, h.1.2⟩, ih h.2⟩

theorem Sparse.wf_ins [DecidableEq α] (d : Nat → α) (m : Sparse α) (k : Nat) (v : α) (hv : v ≠ d k) (h : Sparse.wf d m = true) :
    Sparse.wf d (Sparse.ins m k v) = true := by
  induction m with
  | nil => simp [Sparse.ins, Sparse.wf, Sparse.above, hv]
  | cons e r ih =>
    obtain ⟨a, w⟩ := e
    have h0 := h
    simp only [Sparse.wf, Bool.and_eq_true] at h
    simp only [Sparse.ins]
    split
    · next hk =>
      have hab : Sparse.above k ((a, w) :: r) = true := by
        have := Sparse.above_trans r h.1.1 hk
        simp only [Sparse.above, List.all_cons, Bool.and_eq_true, decide_eq_true_eq] at this ⊢
        exact ⟨hk, this⟩
      rw [Sparse.wf, hab, h0]; simp [hv]
    · split
      · next hk => subst hk; simp [Sparse.wf, h.1.1, hv, h.2]
      · next h1 h2 =>
        simp only [Sparse.wf, Bool.and_eq_true]
        exact ⟨⟨Sparse.above_ins a r k v h.1.1 (by omega), h.1.2⟩, ih h.2⟩

/-- Every write keeps the canonical form. -/
theorem Sparse.wf_put [DecidableEq α] (d : Nat → α) (m : Sparse α) (k : Nat) (v : α) (h : Sparse.wf d m = true) :
    Sparse.wf d (Sparse.put d m k v) = true := by
  unfold Sparse.put
  split
  · exact Sparse.wf_drop d m k h
  · next hv => exact Sparse.wf_ins d m k v hv h

/-! ### Device memory -/

theorem readByte_writeByte (m : Sparse Byte) (a : Nat) (b : Byte) (x : Nat) :
    readByte (writeByte m a b) x = if x = a then b else readByte m x := Sparse.get_put memReset m a b x

theorem writeByte_wf (m : Sparse Byte) (a : Nat) (b : Byte) (h : Memory.wf m = true) : Memory.wf (writeByte m a b) = true :=
  Sparse.wf_put memReset m a b h

theorem writeMem_wf (bs : Bytes) (m : Sparse Byte) (a : Nat) (h : Memory.wf m = true) : Memory.wf (writeMem m a bs) = true := by
  induction bs generalizing m a with
  | nil => exact h
  | cons b r ih => exact ih _ _ (writeByte_wf m a b h)

theorem writeMasked_wf (bs : Bytes) (m : Sparse Byte) (a k : Nat) (h : Memory.wf m = true) :
    Memory.wf (writeMasked m a k bs) = true := by
  induction bs generalizing m a k with
  | nil => exact h
  | cons b r ih =>
    refine ih _ _ _ ?_
    split
    · exact writeByte_wf m a b h
    · exact h

/-- A byte outside the string written reads as before. -/
theorem readByte_writeMem_other (bs : Bytes) (m : Sparse Byte) (a x : Nat) (h : x < a ∨ a + bs.length ≤ x) :
    readByte (writeMem m a bs) x = readByte m x := by
  induction bs generalizing m a with
  | nil => rfl
  | cons b r ih =>
    simp only [List.length_cons] at h
    rw [writeMem, ih _ _ (by omega), readByte_writeByte, if_neg (by omega)]

/-- A byte of the string written reads as written. -/
theorem readByte_writeMem (bs : Bytes) (m : Sparse Byte) (a i : Nat) (h : i < bs.length) :
    readByte (writeMem m a bs) (a + i) = bs[i] := by
  induction bs generalizing m a i with
  | nil => simp at h
  | cons b r ih =>
    cases i with
    | zero => rw [writeMem, readByte_writeMem_other _ _ _ _ (by omega), readByte_writeByte]; simp
    | succ j =>
      have := ih (writeByte m a b) (a + 1) j (by simpa using h)
      rw [writeMem, show a + (j + 1) = a + 1 + j by omega, this]; simp

theorem State.reset_mem_wf : Memory.wf State.reset.mem = true := rfl

end Sys2Proof.Machine
end

