-- ==== Sys2Proof/Laws/State.lean ====
section
/-! SUPPORT. One lemma per field per update: what an update of one field leaves of each other field, and what it leaves of its own. -/

namespace Sys2Proof.Machine

section
variable (s : State) (f : Dev → Dev) (g : Sparse Byte → Sparse Byte)

@[simp] theorem State.onDev_pending : (s.onDev f).pending = s.pending := rfl
@[simp] theorem State.onDev_beat : (s.onDev f).beat = s.beat := rfl
@[simp] theorem State.onDev_mem : (s.onDev f).mem = s.mem := rfl
@[simp] theorem State.onDev_dev : (s.onDev f).dev = f s.dev := rfl
@[simp] theorem State.onMem_pending : (s.onMem g).pending = s.pending := rfl
@[simp] theorem State.onMem_beat : (s.onMem g).beat = s.beat := rfl
@[simp] theorem State.onMem_mem : (s.onMem g).mem = g s.mem := rfl
@[simp] theorem State.onMem_dev : (s.onMem g).dev = s.dev := rfl

end

section
variable (d : Dev) (t : Nat)

@[simp] theorem Dev.at_fresh : (d.at t).fresh = d.fresh := rfl
@[simp] theorem Dev.at_resp : (d.at t).resp = d.resp := rfl
@[simp] theorem Dev.at_regs : (d.at t).regs = d.regs := rfl
@[simp] theorem Dev.at_shadow : (d.at t).shadow = d.shadow := rfl
@[simp] theorem Dev.at_vfs : (d.at t).vfs = d.vfs := rfl
@[simp] theorem Dev.at_mps : (d.at t).mps = d.mps := rfl
@[simp] theorem Dev.at_mrrs : (d.at t).mrrs = d.mrrs := rfl
@[simp] theorem Dev.at_relaxed : (d.at t).relaxed = d.relaxed := rfl
@[simp] theorem Dev.at_hostRate : (d.at t).hostRate = d.hostRate := rfl
@[simp] theorem Dev.at_hostWidth : (d.at t).hostWidth = d.hostWidth := rfl
@[simp] theorem Dev.at_evq : (d.at t).evq = d.evq := rfl
@[simp] theorem Dev.at_dr : (d.at t).dr = d.dr := rfl
@[simp] theorem Dev.at_sr : (d.at t).sr = d.sr := rfl
@[simp] theorem Dev.at_toHost : (d.at t).toHost = d.toHost := rfl
@[simp] theorem Dev.at_msix : (d.at t).msix = d.msix := rfl
@[simp] theorem Dev.at_toLink : (d.at t).toLink = d.toLink := rfl
@[simp] theorem Dev.at_wakes : (d.at t).wakes = d.wakes := rfl
@[simp] theorem Dev.at_bufs : (d.at t).bufs = d.bufs := rfl
@[simp] theorem Dev.at_tally : (d.at t).tally = d.tally := rfl
@[simp] theorem Dev.at_client : (d.at t).client = d.client := rfl
@[simp] theorem Dev.at_cmds : (d.at t).cmds = d.cmds := rfl
@[simp] theorem Dev.at_nextCid : (d.at t).nextCid = d.nextCid := rfl
@[simp] theorem Dev.at_grants : (d.at t).grants = d.grants := rfl
@[simp] theorem Dev.at_lastRing : (d.at t).lastRing = d.lastRing := rfl
@[simp] theorem Dev.at_held : (d.at t).held = d.held := rfl
@[simp] theorem Dev.at_chains : (d.at t).chains = d.chains := rfl
@[simp] theorem Dev.at_serve : (d.at t).serve = d.serve := rfl
@[simp] theorem Dev.at_strapId : (d.at t).strapId = d.strapId := rfl
@[simp] theorem Dev.at_strapLead : (d.at t).strapLead = d.strapLead := rfl
@[simp] theorem Dev.at_cores : (d.at t).cores = d.cores := rfl
@[simp] theorem Dev.at_saveImg : (d.at t).saveImg = d.saveImg := rfl
@[simp] theorem Dev.at_poison : (d.at t).poison = d.poison := rfl
@[simp] theorem Dev.at_dir : (d.at t).dir = d.dir := rfl
@[simp] theorem Dev.at_l2 : (d.at t).l2 = d.l2 := rfl
@[simp] theorem Dev.at_stores : (d.at t).stores = d.stores := rfl
@[simp] theorem Dev.at_streams : (d.at t).streams = d.streams := rfl
@[simp] theorem Dev.at_finals : (d.at t).finals = d.finals := rfl
@[simp] theorem Dev.at_finalsQ : (d.at t).finalsQ = d.finalsQ := rfl
@[simp] theorem Dev.at_staged : (d.at t).staged = d.staged := rfl
@[simp] theorem Dev.at_reasons : (d.at t).reasons = d.reasons := rfl
@[simp] theorem Dev.at_testing : (d.at t).testing = d.testing := rfl
@[simp] theorem Dev.at_fwStress : (d.at t).fwStress = d.fwStress := rfl
@[simp] theorem Dev.at_fwSuspect : (d.at t).fwSuspect = d.fwSuspect := rfl
@[simp] theorem Dev.at_swaps : (d.at t).swaps = d.swaps := rfl
@[simp] theorem Dev.at_bgOpen : (d.at t).bgOpen = d.bgOpen := rfl
@[simp] theorem Dev.at_linkRetry : (d.at t).linkRetry = d.linkRetry := rfl
@[simp] theorem Dev.at_suspects : (d.at t).suspects = d.suspects := rfl
@[simp] theorem Dev.at_resetting : (d.at t).resetting = d.resetting := rfl
@[simp] theorem Dev.at_rowCe : (d.at t).rowCe = d.rowCe := rfl
@[simp] theorem Dev.at_rowBusy : (d.at t).rowBusy = d.rowBusy := rfl
@[simp] theorem Dev.at_rowMap : (d.at t).rowMap = d.rowMap := rfl
@[simp] theorem Dev.at_bankUsed : (d.at t).bankUsed = d.bankUsed := rfl
@[simp] theorem Dev.at_bankSaid : (d.at t).bankSaid = d.bankSaid := rfl
@[simp] theorem Dev.at_narrow : (d.at t).narrow = d.narrow := rfl
@[simp] theorem Dev.at_slots : (d.at t).slots = d.slots := rfl
@[simp] theorem Dev.at_heat : (d.at t).heat = d.heat := rfl
@[simp] theorem Dev.at_sensorSaid : (d.at t).sensorSaid = d.sensorSaid := rfl
@[simp] theorem Dev.at_floors : (d.at t).floors = d.floors := rfl
@[simp] theorem Dev.at_rgn : (d.at t).rgn = d.rgn := rfl
@[simp] theorem Dev.at_allocs : (d.at t).allocs = d.allocs := rfl
@[simp] theorem Dev.at_sealedDone : (d.at t).sealedDone = d.sealedDone := rfl
@[simp] theorem Dev.at_sealedDue : (d.at t).sealedDue = d.sealedDue := rfl
@[simp] theorem Dev.at_lateSaid : (d.at t).lateSaid = d.lateSaid := rfl
@[simp] theorem Dev.at_net : (d.at t).net = d.net := rfl
@[simp] theorem Dev.at_lyr0 : (d.at t).lyr0 = d.lyr0 := rfl
@[simp] theorem Dev.at_lyr1 : (d.at t).lyr1 = d.lyr1 := rfl
@[simp] theorem Dev.at_kiln : (d.at t).kiln = d.kiln := rfl
@[simp] theorem Dev.at_pmb : (d.at t).pmb = d.pmb := rfl
@[simp] theorem Dev.at_sinds : (d.at t).sinds = d.sinds := rfl
@[simp] theorem Dev.at_boot : (d.at t).boot = d.boot := rfl
@[simp] theorem Dev.at_svc : (d.at t).svc = d.svc := rfl

end

section
variable (d : Dev) (o : Nat) (w : Word)

@[simp] theorem Dev.setReg_now : (d.setReg o w).now = d.now := rfl
@[simp] theorem Dev.setReg_fresh : (d.setReg o w).fresh = d.fresh := rfl
@[simp] theorem Dev.setReg_resp : (d.setReg o w).resp = d.resp := rfl
@[simp] theorem Dev.setReg_shadow : (d.setReg o w).shadow = d.shadow := rfl
@[simp] theorem Dev.setReg_vfs : (d.setReg o w).vfs = d.vfs := rfl
@[simp] theorem Dev.setReg_mps : (d.setReg o w).mps = d.mps := rfl
@[simp] theorem Dev.setReg_mrrs : (d.setReg o w).mrrs = d.mrrs := rfl
@[simp] theorem Dev.setReg_relaxed : (d.setReg o w).relaxed = d.relaxed := rfl
@[simp] theorem Dev.setReg_hostRate : (d.setReg o w).hostRate = d.hostRate := rfl
@[simp] theorem Dev.setReg_hostWidth : (d.setReg o w).hostWidth = d.hostWidth := rfl
@[simp] theorem Dev.setReg_evq : (d.setReg o w).evq = d.evq := rfl
@[simp] theorem Dev.setReg_dr : (d.setReg o w).dr = d.dr := rfl
@[simp] theorem Dev.setReg_sr : (d.setReg o w).sr = d.sr := rfl
@[simp] theorem Dev.setReg_toHost : (d.setReg o w).toHost = d.toHost := rfl
@[simp] theorem Dev.setReg_msix : (d.setReg o w).msix = d.msix := rfl
@[simp] theorem Dev.setReg_toLink : (d.setReg o w).toLink = d.toLink := rfl
@[simp] theorem Dev.setReg_wakes : (d.setReg o w).wakes = d.wakes := rfl
@[simp] theorem Dev.setReg_bufs : (d.setReg o w).bufs = d.bufs := rfl
@[simp] theorem Dev.setReg_tally : (d.setReg o w).tally = d.tally := rfl
@[simp] theorem Dev.setReg_client : (d.setReg o w).client = d.client := rfl
@[simp] theorem Dev.setReg_cmds : (d.setReg o w).cmds = d.cmds := rfl
@[simp] theorem Dev.setReg_nextCid : (d.setReg o w).nextCid = d.nextCid := rfl
@[simp] theorem Dev.setReg_grants : (d.setReg o w).grants = d.grants := rfl
@[simp] theorem Dev.setReg_lastRing : (d.setReg o w).lastRing = d.lastRing := rfl
@[simp] theorem Dev.setReg_held : (d.setReg o w).held = d.held := rfl
@[simp] theorem Dev.setReg_chains : (d.setReg o w).chains = d.chains := rfl
@[simp] theorem Dev.setReg_serve : (d.setReg o w).serve = d.serve := rfl
@[simp] theorem Dev.setReg_strapId : (d.setReg o w).strapId = d.strapId := rfl
@[simp] theorem Dev.setReg_strapLead : (d.setReg o w).strapLead = d.strapLead := rfl
@[simp] theorem Dev.setReg_cores : (d.setReg o w).cores = d.cores := rfl
@[simp] theorem Dev.setReg_saveImg : (d.setReg o w).saveImg = d.saveImg := rfl
@[simp] theorem Dev.setReg_poison : (d.setReg o w).poison = d.poison := rfl
@[simp] theorem Dev.setReg_dir : (d.setReg o w).dir = d.dir := rfl
@[simp] theorem Dev.setReg_l2 : (d.setReg o w).l2 = d.l2 := rfl
@[simp] theorem Dev.setReg_stores : (d.setReg o w).stores = d.stores := rfl
@[simp] theorem Dev.setReg_streams : (d.setReg o w).streams = d.streams := rfl
@[simp] theorem Dev.setReg_finals : (d.setReg o w).finals = d.finals := rfl
@[simp] theorem Dev.setReg_finalsQ : (d.setReg o w).finalsQ = d.finalsQ := rfl
@[simp] theorem Dev.setReg_staged : (d.setReg o w).staged = d.staged := rfl
@[simp] theorem Dev.setReg_reasons : (d.setReg o w).reasons = d.reasons := rfl
@[simp] theorem Dev.setReg_testing : (d.setReg o w).testing = d.testing := rfl
@[simp] theorem Dev.setReg_fwStress : (d.setReg o w).fwStress = d.fwStress := rfl
@[simp] theorem Dev.setReg_fwSuspect : (d.setReg o w).fwSuspect = d.fwSuspect := rfl
@[simp] theorem Dev.setReg_swaps : (d.setReg o w).swaps = d.swaps := rfl
@[simp] theorem Dev.setReg_bgOpen : (d.setReg o w).bgOpen = d.bgOpen := rfl
@[simp] theorem Dev.setReg_linkRetry : (d.setReg o w).linkRetry = d.linkRetry := rfl
@[simp] theorem Dev.setReg_suspects : (d.setReg o w).suspects = d.suspects := rfl
@[simp] theorem Dev.setReg_resetting : (d.setReg o w).resetting = d.resetting := rfl
@[simp] theorem Dev.setReg_rowCe : (d.setReg o w).rowCe = d.rowCe := rfl
@[simp] theorem Dev.setReg_rowBusy : (d.setReg o w).rowBusy = d.rowBusy := rfl
@[simp] theorem Dev.setReg_rowMap : (d.setReg o w).rowMap = d.rowMap := rfl
@[simp] theorem Dev.setReg_bankUsed : (d.setReg o w).bankUsed = d.bankUsed := rfl
@[simp] theorem Dev.setReg_bankSaid : (d.setReg o w).bankSaid = d.bankSaid := rfl
@[simp] theorem Dev.setReg_narrow : (d.setReg o w).narrow = d.narrow := rfl
@[simp] theorem Dev.setReg_slots : (d.setReg o w).slots = d.slots := rfl
@[simp] theorem Dev.setReg_heat : (d.setReg o w).heat = d.heat := rfl
@[simp] theorem Dev.setReg_sensorSaid : (d.setReg o w).sensorSaid = d.sensorSaid := rfl
@[simp] theorem Dev.setReg_floors : (d.setReg o w).floors = d.floors := rfl
@[simp] theorem Dev.setReg_rgn : (d.setReg o w).rgn = d.rgn := rfl
@[simp] theorem Dev.setReg_allocs : (d.setReg o w).allocs = d.allocs := rfl
@[simp] theorem Dev.setReg_sealedDone : (d.setReg o w).sealedDone = d.sealedDone := rfl
@[simp] theorem Dev.setReg_sealedDue : (d.setReg o w).sealedDue = d.sealedDue := rfl
@[simp] theorem Dev.setReg_lateSaid : (d.setReg o w).lateSaid = d.lateSaid := rfl
@[simp] theorem Dev.setReg_net : (d.setReg o w).net = d.net := rfl
@[simp] theorem Dev.setReg_lyr0 : (d.setReg o w).lyr0 = d.lyr0 := rfl
@[simp] theorem Dev.setReg_lyr1 : (d.setReg o w).lyr1 = d.lyr1 := rfl
@[simp] theorem Dev.setReg_kiln : (d.setReg o w).kiln = d.kiln := rfl
@[simp] theorem Dev.setReg_pmb : (d.setReg o w).pmb = d.pmb := rfl
@[simp] theorem Dev.setReg_sinds : (d.setReg o w).sinds = d.sinds := rfl
@[simp] theorem Dev.setReg_boot : (d.setReg o w).boot = d.boot := rfl
@[simp] theorem Dev.setReg_svc : (d.setReg o w).svc = d.svc := rfl

end

section
variable (d : Dev) (o n : Nat)

@[simp] theorem Dev.setRegN_now : (d.setRegN o n).now = d.now := rfl
@[simp] theorem Dev.setRegN_fresh : (d.setRegN o n).fresh = d.fresh := rfl
@[simp] theorem Dev.setRegN_resp : (d.setRegN o n).resp = d.resp := rfl
@[simp] theorem Dev.setRegN_shadow : (d.setRegN o n).shadow = d.shadow := rfl
@[simp] theorem Dev.setRegN_vfs : (d.setRegN o n).vfs = d.vfs := rfl
@[simp] theorem Dev.setRegN_mps : (d.setRegN o n).mps = d.mps := rfl
@[simp] theorem Dev.setRegN_mrrs : (d.setRegN o n).mrrs = d.mrrs := rfl
@[simp] theorem Dev.setRegN_relaxed : (d.setRegN o n).relaxed = d.relaxed := rfl
@[simp] theorem Dev.setRegN_hostRate : (d.setRegN o n).hostRate = d.hostRate := rfl
@[simp] theorem Dev.setRegN_hostWidth : (d.setRegN o n).hostWidth = d.hostWidth := rfl
@[simp] theorem Dev.setRegN_evq : (d.setRegN o n).evq = d.evq := rfl
@[simp] theorem Dev.setRegN_dr : (d.setRegN o n).dr = d.dr := rfl
@[simp] theorem Dev.setRegN_sr : (d.setRegN o n).sr = d.sr := rfl
@[simp] theorem Dev.setRegN_toHost : (d.setRegN o n).toHost = d.toHost := rfl
@[simp] theorem Dev.setRegN_msix : (d.setRegN o n).msix = d.msix := rfl
@[simp] theorem Dev.setRegN_toLink : (d.setRegN o n).toLink = d.toLink := rfl
@[simp] theorem Dev.setRegN_wakes : (d.setRegN o n).wakes = d.wakes := rfl
@[simp] theorem Dev.setRegN_bufs : (d.setRegN o n).bufs = d.bufs := rfl
@[simp] theorem Dev.setRegN_tally : (d.setRegN o n).tally = d.tally := rfl
@[simp] theorem Dev.setRegN_client : (d.setRegN o n).client = d.client := rfl
@[simp] theorem Dev.setRegN_cmds : (d.setRegN o n).cmds = d.cmds := rfl
@[simp] theorem Dev.setRegN_nextCid : (d.setRegN o n).nextCid = d.nextCid := rfl
@[simp] theorem Dev.setRegN_grants : (d.setRegN o n).grants = d.grants := rfl
@[simp] theorem Dev.setRegN_lastRing : (d.setRegN o n).lastRing = d.lastRing := rfl
@[simp] theorem Dev.setRegN_held : (d.setRegN o n).held = d.held := rfl
@[simp] theorem Dev.setRegN_chains : (d.setRegN o n).chains = d.chains := rfl
@[simp] theorem Dev.setRegN_serve : (d.setRegN o n).serve = d.serve := rfl
@[simp] theorem Dev.setRegN_strapId : (d.setRegN o n).strapId = d.strapId := rfl
@[simp] theorem Dev.setRegN_strapLead : (d.setRegN o n).strapLead = d.strapLead := rfl
@[simp] theorem Dev.setRegN_cores : (d.setRegN o n).cores = d.cores := rfl
@[simp] theorem Dev.setRegN_saveImg : (d.setRegN o n).saveImg = d.saveImg := rfl
@[simp] theorem Dev.setRegN_poison : (d.setRegN o n).poison = d.poison := rfl
@[simp] theorem Dev.setRegN_dir : (d.setRegN o n).dir = d.dir := rfl
@[simp] theorem Dev.setRegN_l2 : (d.setRegN o n).l2 = d.l2 := rfl
@[simp] theorem Dev.setRegN_stores : (d.setRegN o n).stores = d.stores := rfl
@[simp] theorem Dev.setRegN_streams : (d.setRegN o n).streams = d.streams := rfl
@[simp] theorem Dev.setRegN_finals : (d.setRegN o n).finals = d.finals := rfl
@[simp] theorem Dev.setRegN_finalsQ : (d.setRegN o n).finalsQ = d.finalsQ := rfl
@[simp] theorem Dev.setRegN_staged : (d.setRegN o n).staged = d.staged := rfl
@[simp] theorem Dev.setRegN_reasons : (d.setRegN o n).reasons = d.reasons := rfl
@[simp] theorem Dev.setRegN_testing : (d.setRegN o n).testing = d.testing := rfl
@[simp] theorem Dev.setRegN_fwStress : (d.setRegN o n).fwStress = d.fwStress := rfl
@[simp] theorem Dev.setRegN_fwSuspect : (d.setRegN o n).fwSuspect = d.fwSuspect := rfl
@[simp] theorem Dev.setRegN_swaps : (d.setRegN o n).swaps = d.swaps := rfl
@[simp] theorem Dev.setRegN_bgOpen : (d.setRegN o n).bgOpen = d.bgOpen := rfl
@[simp] theorem Dev.setRegN_linkRetry : (d.setRegN o n).linkRetry = d.linkRetry := rfl
@[simp] theorem Dev.setRegN_suspects : (d.setRegN o n).suspects = d.suspects := rfl
@[simp] theorem Dev.setRegN_resetting : (d.setRegN o n).resetting = d.resetting := rfl
@[simp] theorem Dev.setRegN_rowCe : (d.setRegN o n).rowCe = d.rowCe := rfl
@[simp] theorem Dev.setRegN_rowBusy : (d.setRegN o n).rowBusy = d.rowBusy := rfl
@[simp] theorem Dev.setRegN_rowMap : (d.setRegN o n).rowMap = d.rowMap := rfl
@[simp] theorem Dev.setRegN_bankUsed : (d.setRegN o n).bankUsed = d.bankUsed := rfl
@[simp] theorem Dev.setRegN_bankSaid : (d.setRegN o n).bankSaid = d.bankSaid := rfl
@[simp] theorem Dev.setRegN_narrow : (d.setRegN o n).narrow = d.narrow := rfl
@[simp] theorem Dev.setRegN_slots : (d.setRegN o n).slots = d.slots := rfl
@[simp] theorem Dev.setRegN_heat : (d.setRegN o n).heat = d.heat := rfl
@[simp] theorem Dev.setRegN_sensorSaid : (d.setRegN o n).sensorSaid = d.sensorSaid := rfl
@[simp] theorem Dev.setRegN_floors : (d.setRegN o n).floors = d.floors := rfl
@[simp] theorem Dev.setRegN_rgn : (d.setRegN o n).rgn = d.rgn := rfl
@[simp] theorem Dev.setRegN_allocs : (d.setRegN o n).allocs = d.allocs := rfl
@[simp] theorem Dev.setRegN_sealedDone : (d.setRegN o n).sealedDone = d.sealedDone := rfl
@[simp] theorem Dev.setRegN_sealedDue : (d.setRegN o n).sealedDue = d.sealedDue := rfl
@[simp] theorem Dev.setRegN_lateSaid : (d.setRegN o n).lateSaid = d.lateSaid := rfl
@[simp] theorem Dev.setRegN_net : (d.setRegN o n).net = d.net := rfl
@[simp] theorem Dev.setRegN_lyr0 : (d.setRegN o n).lyr0 = d.lyr0 := rfl
@[simp] theorem Dev.setRegN_lyr1 : (d.setRegN o n).lyr1 = d.lyr1 := rfl
@[simp] theorem Dev.setRegN_kiln : (d.setRegN o n).kiln = d.kiln := rfl
@[simp] theorem Dev.setRegN_pmb : (d.setRegN o n).pmb = d.pmb := rfl
@[simp] theorem Dev.setRegN_sinds : (d.setRegN o n).sinds = d.sinds := rfl
@[simp] theorem Dev.setRegN_boot : (d.setRegN o n).boot = d.boot := rfl
@[simp] theorem Dev.setRegN_svc : (d.setRegN o n).svc = d.svc := rfl

end

section
variable (d : Dev) (o n : Nat)

@[simp] theorem Dev.setReg64_now : (d.setReg64 o n).now = d.now := rfl
@[simp] theorem Dev.setReg64_fresh : (d.setReg64 o n).fresh = d.fresh := rfl
@[simp] theorem Dev.setReg64_resp : (d.setReg64 o n).resp = d.resp := rfl
@[simp] theorem Dev.setReg64_shadow : (d.setReg64 o n).shadow = d.shadow := rfl
@[simp] theorem Dev.setReg64_vfs : (d.setReg64 o n).vfs = d.vfs := rfl
@[simp] theorem Dev.setReg64_mps : (d.setReg64 o n).mps = d.mps := rfl
@[simp] theorem Dev.setReg64_mrrs : (d.setReg64 o n).mrrs = d.mrrs := rfl
@[simp] theorem Dev.setReg64_relaxed : (d.setReg64 o n).relaxed = d.relaxed := rfl
@[simp] theorem Dev.setReg64_hostRate : (d.setReg64 o n).hostRate = d.hostRate := rfl
@[simp] theorem Dev.setReg64_hostWidth : (d.setReg64 o n).hostWidth = d.hostWidth := rfl
@[simp] theorem Dev.setReg64_evq : (d.setReg64 o n).evq = d.evq := rfl
@[simp] theorem Dev.setReg64_dr : (d.setReg64 o n).dr = d.dr := rfl
@[simp] theorem Dev.setReg64_sr : (d.setReg64 o n).sr = d.sr := rfl
@[simp] theorem Dev.setReg64_toHost : (d.setReg64 o n).toHost = d.toHost := rfl
@[simp] theorem Dev.setReg64_msix : (d.setReg64 o n).msix = d.msix := rfl
@[simp] theorem Dev.setReg64_toLink : (d.setReg64 o n).toLink = d.toLink := rfl
@[simp] theorem Dev.setReg64_wakes : (d.setReg64 o n).wakes = d.wakes := rfl
@[simp] theorem Dev.setReg64_bufs : (d.setReg64 o n).bufs = d.bufs := rfl
@[simp] theorem Dev.setReg64_tally : (d.setReg64 o n).tally = d.tally := rfl
@[simp] theorem Dev.setReg64_client : (d.setReg64 o n).client = d.client := rfl
@[simp] theorem Dev.setReg64_cmds : (d.setReg64 o n).cmds = d.cmds := rfl
@[simp] theorem Dev.setReg64_nextCid : (d.setReg64 o n).nextCid = d.nextCid := rfl
@[simp] theorem Dev.setReg64_grants : (d.setReg64 o n).grants = d.grants := rfl
@[simp] theorem Dev.setReg64_lastRing : (d.setReg64 o n).lastRing = d.lastRing := rfl
@[simp] theorem Dev.setReg64_held : (d.setReg64 o n).held = d.held := rfl
@[simp] theorem Dev.setReg64_chains : (d.setReg64 o n).chains = d.chains := rfl
@[simp] theorem Dev.setReg64_serve : (d.setReg64 o n).serve = d.serve := rfl
@[simp] theorem Dev.setReg64_strapId : (d.setReg64 o n).strapId = d.strapId := rfl
@[simp] theorem Dev.setReg64_strapLead : (d.setReg64 o n).strapLead = d.strapLead := rfl
@[simp] theorem Dev.setReg64_cores : (d.setReg64 o n).cores = d.cores := rfl
@[simp] theorem Dev.setReg64_saveImg : (d.setReg64 o n).saveImg = d.saveImg := rfl
@[simp] theorem Dev.setReg64_poison : (d.setReg64 o n).poison = d.poison := rfl
@[simp] theorem Dev.setReg64_dir : (d.setReg64 o n).dir = d.dir := rfl
@[simp] theorem Dev.setReg64_l2 : (d.setReg64 o n).l2 = d.l2 := rfl
@[simp] theorem Dev.setReg64_stores : (d.setReg64 o n).stores = d.stores := rfl
@[simp] theorem Dev.setReg64_streams : (d.setReg64 o n).streams = d.streams := rfl
@[simp] theorem Dev.setReg64_finals : (d.setReg64 o n).finals = d.finals := rfl
@[simp] theorem Dev.setReg64_finalsQ : (d.setReg64 o n).finalsQ = d.finalsQ := rfl
@[simp] theorem Dev.setReg64_staged : (d.setReg64 o n).staged = d.staged := rfl
@[simp] theorem Dev.setReg64_reasons : (d.setReg64 o n).reasons = d.reasons := rfl
@[simp] theorem Dev.setReg64_testing : (d.setReg64 o n).testing = d.testing := rfl
@[simp] theorem Dev.setReg64_fwStress : (d.setReg64 o n).fwStress = d.fwStress := rfl
@[simp] theorem Dev.setReg64_fwSuspect : (d.setReg64 o n).fwSuspect = d.fwSuspect := rfl
@[simp] theorem Dev.setReg64_swaps : (d.setReg64 o n).swaps = d.swaps := rfl
@[simp] theorem Dev.setReg64_bgOpen : (d.setReg64 o n).bgOpen = d.bgOpen := rfl
@[simp] theorem Dev.setReg64_linkRetry : (d.setReg64 o n).linkRetry = d.linkRetry := rfl
@[simp] theorem Dev.setReg64_suspects : (d.setReg64 o n).suspects = d.suspects := rfl
@[simp] theorem Dev.setReg64_resetting : (d.setReg64 o n).resetting = d.resetting := rfl
@[simp] theorem Dev.setReg64_rowCe : (d.setReg64 o n).rowCe = d.rowCe := rfl
@[simp] theorem Dev.setReg64_rowBusy : (d.setReg64 o n).rowBusy = d.rowBusy := rfl
@[simp] theorem Dev.setReg64_rowMap : (d.setReg64 o n).rowMap = d.rowMap := rfl
@[simp] theorem Dev.setReg64_bankUsed : (d.setReg64 o n).bankUsed = d.bankUsed := rfl
@[simp] theorem Dev.setReg64_bankSaid : (d.setReg64 o n).bankSaid = d.bankSaid := rfl
@[simp] theorem Dev.setReg64_narrow : (d.setReg64 o n).narrow = d.narrow := rfl
@[simp] theorem Dev.setReg64_slots : (d.setReg64 o n).slots = d.slots := rfl
@[simp] theorem Dev.setReg64_heat : (d.setReg64 o n).heat = d.heat := rfl
@[simp] theorem Dev.setReg64_sensorSaid : (d.setReg64 o n).sensorSaid = d.sensorSaid := rfl
@[simp] theorem Dev.setReg64_floors : (d.setReg64 o n).floors = d.floors := rfl
@[simp] theorem Dev.setReg64_rgn : (d.setReg64 o n).rgn = d.rgn := rfl
@[simp] theorem Dev.setReg64_allocs : (d.setReg64 o n).allocs = d.allocs := rfl
@[simp] theorem Dev.setReg64_sealedDone : (d.setReg64 o n).sealedDone = d.sealedDone := rfl
@[simp] theorem Dev.setReg64_sealedDue : (d.setReg64 o n).sealedDue = d.sealedDue := rfl
@[simp] theorem Dev.setReg64_lateSaid : (d.setReg64 o n).lateSaid = d.lateSaid := rfl
@[simp] theorem Dev.setReg64_net : (d.setReg64 o n).net = d.net := rfl
@[simp] theorem Dev.setReg64_lyr0 : (d.setReg64 o n).lyr0 = d.lyr0 := rfl
@[simp] theorem Dev.setReg64_lyr1 : (d.setReg64 o n).lyr1 = d.lyr1 := rfl
@[simp] theorem Dev.setReg64_kiln : (d.setReg64 o n).kiln = d.kiln := rfl
@[simp] theorem Dev.setReg64_pmb : (d.setReg64 o n).pmb = d.pmb := rfl
@[simp] theorem Dev.setReg64_sinds : (d.setReg64 o n).sinds = d.sinds := rfl
@[simp] theorem Dev.setReg64_boot : (d.setReg64 o n).boot = d.boot := rfl
@[simp] theorem Dev.setReg64_svc : (d.setReg64 o n).svc = d.svc := rfl

end

section
variable (d : Dev) (o n : Nat)

@[simp] theorem Dev.orReg_now : (d.orReg o n).now = d.now := rfl
@[simp] theorem Dev.orReg_fresh : (d.orReg o n).fresh = d.fresh := rfl
@[simp] theorem Dev.orReg_resp : (d.orReg o n).resp = d.resp := rfl
@[simp] theorem Dev.orReg_shadow : (d.orReg o n).shadow = d.shadow := rfl
@[simp] theorem Dev.orReg_vfs : (d.orReg o n).vfs = d.vfs := rfl
@[simp] theorem Dev.orReg_mps : (d.orReg o n).mps = d.mps := rfl
@[simp] theorem Dev.orReg_mrrs : (d.orReg o n).mrrs = d.mrrs := rfl
@[simp] theorem Dev.orReg_relaxed : (d.orReg o n).relaxed = d.relaxed := rfl
@[simp] theorem Dev.orReg_hostRate : (d.orReg o n).hostRate = d.hostRate := rfl
@[simp] theorem Dev.orReg_hostWidth : (d.orReg o n).hostWidth = d.hostWidth := rfl
@[simp] theorem Dev.orReg_evq : (d.orReg o n).evq = d.evq := rfl
@[simp] theorem Dev.orReg_dr : (d.orReg o n).dr = d.dr := rfl
@[simp] theorem Dev.orReg_sr : (d.orReg o n).sr = d.sr := rfl
@[simp] theorem Dev.orReg_toHost : (d.orReg o n).toHost = d.toHost := rfl
@[simp] theorem Dev.orReg_msix : (d.orReg o n).msix = d.msix := rfl
@[simp] theorem Dev.orReg_toLink : (d.orReg o n).toLink = d.toLink := rfl
@[simp] theorem Dev.orReg_wakes : (d.orReg o n).wakes = d.wakes := rfl
@[simp] theorem Dev.orReg_bufs : (d.orReg o n).bufs = d.bufs := rfl
@[simp] theorem Dev.orReg_tally : (d.orReg o n).tally = d.tally := rfl
@[simp] theorem Dev.orReg_client : (d.orReg o n).client = d.client := rfl
@[simp] theorem Dev.orReg_cmds : (d.orReg o n).cmds = d.cmds := rfl
@[simp] theorem Dev.orReg_nextCid : (d.orReg o n).nextCid = d.nextCid := rfl
@[simp] theorem Dev.orReg_grants : (d.orReg o n).grants = d.grants := rfl
@[simp] theorem Dev.orReg_lastRing : (d.orReg o n).lastRing = d.lastRing := rfl
@[simp] theorem Dev.orReg_held : (d.orReg o n).held = d.held := rfl
@[simp] theorem Dev.orReg_chains : (d.orReg o n).chains = d.chains := rfl
@[simp] theorem Dev.orReg_serve : (d.orReg o n).serve = d.serve := rfl
@[simp] theorem Dev.orReg_strapId : (d.orReg o n).strapId = d.strapId := rfl
@[simp] theorem Dev.orReg_strapLead : (d.orReg o n).strapLead = d.strapLead := rfl
@[simp] theorem Dev.orReg_cores : (d.orReg o n).cores = d.cores := rfl
@[simp] theorem Dev.orReg_saveImg : (d.orReg o n).saveImg = d.saveImg := rfl
@[simp] theorem Dev.orReg_poison : (d.orReg o n).poison = d.poison := rfl
@[simp] theorem Dev.orReg_dir : (d.orReg o n).dir = d.dir := rfl
@[simp] theorem Dev.orReg_l2 : (d.orReg o n).l2 = d.l2 := rfl
@[simp] theorem Dev.orReg_stores : (d.orReg o n).stores = d.stores := rfl
@[simp] theorem Dev.orReg_streams : (d.orReg o n).streams = d.streams := rfl
@[simp] theorem Dev.orReg_finals : (d.orReg o n).finals = d.finals := rfl
@[simp] theorem Dev.orReg_finalsQ : (d.orReg o n).finalsQ = d.finalsQ := rfl
@[simp] theorem Dev.orReg_staged : (d.orReg o n).staged = d.staged := rfl
@[simp] theorem Dev.orReg_reasons : (d.orReg o n).reasons = d.reasons := rfl
@[simp] theorem Dev.orReg_testing : (d.orReg o n).testing = d.testing := rfl
@[simp] theorem Dev.orReg_fwStress : (d.orReg o n).fwStress = d.fwStress := rfl
@[simp] theorem Dev.orReg_fwSuspect : (d.orReg o n).fwSuspect = d.fwSuspect := rfl
@[simp] theorem Dev.orReg_swaps : (d.orReg o n).swaps = d.swaps := rfl
@[simp] theorem Dev.orReg_bgOpen : (d.orReg o n).bgOpen = d.bgOpen := rfl
@[simp] theorem Dev.orReg_linkRetry : (d.orReg o n).linkRetry = d.linkRetry := rfl
@[simp] theorem Dev.orReg_suspects : (d.orReg o n).suspects = d.suspects := rfl
@[simp] theorem Dev.orReg_resetting : (d.orReg o n).resetting = d.resetting := rfl
@[simp] theorem Dev.orReg_rowCe : (d.orReg o n).rowCe = d.rowCe := rfl
@[simp] theorem Dev.orReg_rowBusy : (d.orReg o n).rowBusy = d.rowBusy := rfl
@[simp] theorem Dev.orReg_rowMap : (d.orReg o n).rowMap = d.rowMap := rfl
@[simp] theorem Dev.orReg_bankUsed : (d.orReg o n).bankUsed = d.bankUsed := rfl
@[simp] theorem Dev.orReg_bankSaid : (d.orReg o n).bankSaid = d.bankSaid := rfl
@[simp] theorem Dev.orReg_narrow : (d.orReg o n).narrow = d.narrow := rfl
@[simp] theorem Dev.orReg_slots : (d.orReg o n).slots = d.slots := rfl
@[simp] theorem Dev.orReg_heat : (d.orReg o n).heat = d.heat := rfl
@[simp] theorem Dev.orReg_sensorSaid : (d.orReg o n).sensorSaid = d.sensorSaid := rfl
@[simp] theorem Dev.orReg_floors : (d.orReg o n).floors = d.floors := rfl
@[simp] theorem Dev.orReg_rgn : (d.orReg o n).rgn = d.rgn := rfl
@[simp] theorem Dev.orReg_allocs : (d.orReg o n).allocs = d.allocs := rfl
@[simp] theorem Dev.orReg_sealedDone : (d.orReg o n).sealedDone = d.sealedDone := rfl
@[simp] theorem Dev.orReg_sealedDue : (d.orReg o n).sealedDue = d.sealedDue := rfl
@[simp] theorem Dev.orReg_lateSaid : (d.orReg o n).lateSaid = d.lateSaid := rfl
@[simp] theorem Dev.orReg_net : (d.orReg o n).net = d.net := rfl
@[simp] theorem Dev.orReg_lyr0 : (d.orReg o n).lyr0 = d.lyr0 := rfl
@[simp] theorem Dev.orReg_lyr1 : (d.orReg o n).lyr1 = d.lyr1 := rfl
@[simp] theorem Dev.orReg_kiln : (d.orReg o n).kiln = d.kiln := rfl
@[simp] theorem Dev.orReg_pmb : (d.orReg o n).pmb = d.pmb := rfl
@[simp] theorem Dev.orReg_sinds : (d.orReg o n).sinds = d.sinds := rfl
@[simp] theorem Dev.orReg_boot : (d.orReg o n).boot = d.boot := rfl
@[simp] theorem Dev.orReg_svc : (d.orReg o n).svc = d.svc := rfl

end

section
variable (d : Dev) (pa : Path) (o : Nat) (w : Word)

@[simp] theorem Dev.latch_now : (d.latch pa o w).now = d.now := rfl
@[simp] theorem Dev.latch_fresh : (d.latch pa o w).fresh = d.fresh := rfl
@[simp] theorem Dev.latch_resp : (d.latch pa o w).resp = d.resp := rfl
@[simp] theorem Dev.latch_regs : (d.latch pa o w).regs = d.regs := rfl
@[simp] theorem Dev.latch_vfs : (d.latch pa o w).vfs = d.vfs := rfl
@[simp] theorem Dev.latch_mps : (d.latch pa o w).mps = d.mps := rfl
@[simp] theorem Dev.latch_mrrs : (d.latch pa o w).mrrs = d.mrrs := rfl
@[simp] theorem Dev.latch_relaxed : (d.latch pa o w).relaxed = d.relaxed := rfl
@[simp] theorem Dev.latch_hostRate : (d.latch pa o w).hostRate = d.hostRate := rfl
@[simp] theorem Dev.latch_hostWidth : (d.latch pa o w).hostWidth = d.hostWidth := rfl
@[simp] theorem Dev.latch_evq : (d.latch pa o w).evq = d.evq := rfl
@[simp] theorem Dev.latch_dr : (d.latch pa o w).dr = d.dr := rfl
@[simp] theorem Dev.latch_sr : (d.latch pa o w).sr = d.sr := rfl
@[simp] theorem Dev.latch_toHost : (d.latch pa o w).toHost = d.toHost := rfl
@[simp] theorem Dev.latch_msix : (d.latch pa o w).msix = d.msix := rfl
@[simp] theorem Dev.latch_toLink : (d.latch pa o w).toLink = d.toLink := rfl
@[simp] theorem Dev.latch_wakes : (d.latch pa o w).wakes = d.wakes := rfl
@[simp] theorem Dev.latch_bufs : (d.latch pa o w).bufs = d.bufs := rfl
@[simp] theorem Dev.latch_tally : (d.latch pa o w).tally = d.tally := rfl
@[simp] theorem Dev.latch_client : (d.latch pa o w).client = d.client := rfl
@[simp] theorem Dev.latch_cmds : (d.latch pa o w).cmds = d.cmds := rfl
@[simp] theorem Dev.latch_nextCid : (d.latch pa o w).nextCid = d.nextCid := rfl
@[simp] theorem Dev.latch_grants : (d.latch pa o w).grants = d.grants := rfl
@[simp] theorem Dev.latch_lastRing : (d.latch pa o w).lastRing = d.lastRing := rfl
@[simp] theorem Dev.latch_held : (d.latch pa o w).held = d.held := rfl
@[simp] theorem Dev.latch_chains : (d.latch pa o w).chains = d.chains := rfl
@[simp] theorem Dev.latch_serve : (d.latch pa o w).serve = d.serve := rfl
@[simp] theorem Dev.latch_strapId : (d.latch pa o w).strapId = d.strapId := rfl
@[simp] theorem Dev.latch_strapLead : (d.latch pa o w).strapLead = d.strapLead := rfl
@[simp] theorem Dev.latch_cores : (d.latch pa o w).cores = d.cores := rfl
@[simp] theorem Dev.latch_saveImg : (d.latch pa o w).saveImg = d.saveImg := rfl
@[simp] theorem Dev.latch_poison : (d.latch pa o w).poison = d.poison := rfl
@[simp] theorem Dev.latch_dir : (d.latch pa o w).dir = d.dir := rfl
@[simp] theorem Dev.latch_l2 : (d.latch pa o w).l2 = d.l2 := rfl
@[simp] theorem Dev.latch_stores : (d.latch pa o w).stores = d.stores := rfl
@[simp] theorem Dev.latch_streams : (d.latch pa o w).streams = d.streams := rfl
@[simp] theorem Dev.latch_finals : (d.latch pa o w).finals = d.finals := rfl
@[simp] theorem Dev.latch_finalsQ : (d.latch pa o w).finalsQ = d.finalsQ := rfl
@[simp] theorem Dev.latch_staged : (d.latch pa o w).staged = d.staged := rfl
@[simp] theorem Dev.latch_reasons : (d.latch pa o w).reasons = d.reasons := rfl
@[simp] theorem Dev.latch_testing : (d.latch pa o w).testing = d.testing := rfl
@[simp] theorem Dev.latch_fwStress : (d.latch pa o w).fwStress = d.fwStress := rfl
@[simp] theorem Dev.latch_fwSuspect : (d.latch pa o w).fwSuspect = d.fwSuspect := rfl
@[simp] theorem Dev.latch_swaps : (d.latch pa o w).swaps = d.swaps := rfl
@[simp] theorem Dev.latch_bgOpen : (d.latch pa o w).bgOpen = d.bgOpen := rfl
@[simp] theorem Dev.latch_linkRetry : (d.latch pa o w).linkRetry = d.linkRetry := rfl
@[simp] theorem Dev.latch_suspects : (d.latch pa o w).suspects = d.suspects := rfl
@[simp] theorem Dev.latch_resetting : (d.latch pa o w).resetting = d.resetting := rfl
@[simp] theorem Dev.latch_rowCe : (d.latch pa o w).rowCe = d.rowCe := rfl
@[simp] theorem Dev.latch_rowBusy : (d.latch pa o w).rowBusy = d.rowBusy := rfl
@[simp] theorem Dev.latch_rowMap : (d.latch pa o w).rowMap = d.rowMap := rfl
@[simp] theorem Dev.latch_bankUsed : (d.latch pa o w).bankUsed = d.bankUsed := rfl
@[simp] theorem Dev.latch_bankSaid : (d.latch pa o w).bankSaid = d.bankSaid := rfl
@[simp] theorem Dev.latch_narrow : (d.latch pa o w).narrow = d.narrow := rfl
@[simp] theorem Dev.latch_slots : (d.latch pa o w).slots = d.slots := rfl
@[simp] theorem Dev.latch_heat : (d.latch pa o w).heat = d.heat := rfl
@[simp] theorem Dev.latch_sensorSaid : (d.latch pa o w).sensorSaid = d.sensorSaid := rfl
@[simp] theorem Dev.latch_floors : (d.latch pa o w).floors = d.floors := rfl
@[simp] theorem Dev.latch_rgn : (d.latch pa o w).rgn = d.rgn := rfl
@[simp] theorem Dev.latch_allocs : (d.latch pa o w).allocs = d.allocs := rfl
@[simp] theorem Dev.latch_sealedDone : (d.latch pa o w).sealedDone = d.sealedDone := rfl
@[simp] theorem Dev.latch_sealedDue : (d.latch pa o w).sealedDue = d.sealedDue := rfl
@[simp] theorem Dev.latch_lateSaid : (d.latch pa o w).lateSaid = d.lateSaid := rfl
@[simp] theorem Dev.latch_net : (d.latch pa o w).net = d.net := rfl
@[simp] theorem Dev.latch_lyr0 : (d.latch pa o w).lyr0 = d.lyr0 := rfl
@[simp] theorem Dev.latch_lyr1 : (d.latch pa o w).lyr1 = d.lyr1 := rfl
@[simp] theorem Dev.latch_kiln : (d.latch pa o w).kiln = d.kiln := rfl
@[simp] theorem Dev.latch_pmb : (d.latch pa o w).pmb = d.pmb := rfl
@[simp] theorem Dev.latch_sinds : (d.latch pa o w).sinds = d.sinds := rfl
@[simp] theorem Dev.latch_boot : (d.latch pa o w).boot = d.boot := rfl
@[simp] theorem Dev.latch_svc : (d.latch pa o w).svc = d.svc := rfl

end

section
variable (d : Dev) (ws : List Word)

@[simp] theorem Dev.answer_now : (d.answer ws).now = d.now := rfl
@[simp] theorem Dev.answer_fresh : (d.answer ws).fresh = d.fresh := rfl
@[simp] theorem Dev.answer_regs : (d.answer ws).regs = d.regs := rfl
@[simp] theorem Dev.answer_shadow : (d.answer ws).shadow = d.shadow := rfl
@[simp] theorem Dev.answer_vfs : (d.answer ws).vfs = d.vfs := rfl
@[simp] theorem Dev.answer_mps : (d.answer ws).mps = d.mps := rfl
@[simp] theorem Dev.answer_mrrs : (d.answer ws).mrrs = d.mrrs := rfl
@[simp] theorem Dev.answer_relaxed : (d.answer ws).relaxed = d.relaxed := rfl
@[simp] theorem Dev.answer_hostRate : (d.answer ws).hostRate = d.hostRate := rfl
@[simp] theorem Dev.answer_hostWidth : (d.answer ws).hostWidth = d.hostWidth := rfl
@[simp] theorem Dev.answer_evq : (d.answer ws).evq = d.evq := rfl
@[simp] theorem Dev.answer_dr : (d.answer ws).dr = d.dr := rfl
@[simp] theorem Dev.answer_sr : (d.answer ws).sr = d.sr := rfl
@[simp] theorem Dev.answer_toHost : (d.answer ws).toHost = d.toHost := rfl
@[simp] theorem Dev.answer_msix : (d.answer ws).msix = d.msix := rfl
@[simp] theorem Dev.answer_toLink : (d.answer ws).toLink = d.toLink := rfl
@[simp] theorem Dev.answer_wakes : (d.answer ws).wakes = d.wakes := rfl
@[simp] theorem Dev.answer_bufs : (d.answer ws).bufs = d.bufs := rfl
@[simp] theorem Dev.answer_tally : (d.answer ws).tally = d.tally := rfl
@[simp] theorem Dev.answer_client : (d.answer ws).client = d.client := rfl
@[simp] theorem Dev.answer_cmds : (d.answer ws).cmds = d.cmds := rfl
@[simp] theorem Dev.answer_nextCid : (d.answer ws).nextCid = d.nextCid := rfl
@[simp] theorem Dev.answer_grants : (d.answer ws).grants = d.grants := rfl
@[simp] theorem Dev.answer_lastRing : (d.answer ws).lastRing = d.lastRing := rfl
@[simp] theorem Dev.answer_held : (d.answer ws).held = d.held := rfl
@[simp] theorem Dev.answer_chains : (d.answer ws).chains = d.chains := rfl
@[simp] theorem Dev.answer_serve : (d.answer ws).serve = d.serve := rfl
@[simp] theorem Dev.answer_strapId : (d.answer ws).strapId = d.strapId := rfl
@[simp] theorem Dev.answer_strapLead : (d.answer ws).strapLead = d.strapLead := rfl
@[simp] theorem Dev.answer_cores : (d.answer ws).cores = d.cores := rfl
@[simp] theorem Dev.answer_saveImg : (d.answer ws).saveImg = d.saveImg := rfl
@[simp] theorem Dev.answer_poison : (d.answer ws).poison = d.poison := rfl
@[simp] theorem Dev.answer_dir : (d.answer ws).dir = d.dir := rfl
@[simp] theorem Dev.answer_l2 : (d.answer ws).l2 = d.l2 := rfl
@[simp] theorem Dev.answer_stores : (d.answer ws).stores = d.stores := rfl
@[simp] theorem Dev.answer_streams : (d.answer ws).streams = d.streams := rfl
@[simp] theorem Dev.answer_finals : (d.answer ws).finals = d.finals := rfl
@[simp] theorem Dev.answer_finalsQ : (d.answer ws).finalsQ = d.finalsQ := rfl
@[simp] theorem Dev.answer_staged : (d.answer ws).staged = d.staged := rfl
@[simp] theorem Dev.answer_reasons : (d.answer ws).reasons = d.reasons := rfl
@[simp] theorem Dev.answer_testing : (d.answer ws).testing = d.testing := rfl
@[simp] theorem Dev.answer_fwStress : (d.answer ws).fwStress = d.fwStress := rfl
@[simp] theorem Dev.answer_fwSuspect : (d.answer ws).fwSuspect = d.fwSuspect := rfl
@[simp] theorem Dev.answer_swaps : (d.answer ws).swaps = d.swaps := rfl
@[simp] theorem Dev.answer_bgOpen : (d.answer ws).bgOpen = d.bgOpen := rfl
@[simp] theorem Dev.answer_linkRetry : (d.answer ws).linkRetry = d.linkRetry := rfl
@[simp] theorem Dev.answer_suspects : (d.answer ws).suspects = d.suspects := rfl
@[simp] theorem Dev.answer_resetting : (d.answer ws).resetting = d.resetting := rfl
@[simp] theorem Dev.answer_rowCe : (d.answer ws).rowCe = d.rowCe := rfl
@[simp] theorem Dev.answer_rowBusy : (d.answer ws).rowBusy = d.rowBusy := rfl
@[simp] theorem Dev.answer_rowMap : (d.answer ws).rowMap = d.rowMap := rfl
@[simp] theorem Dev.answer_bankUsed : (d.answer ws).bankUsed = d.bankUsed := rfl
@[simp] theorem Dev.answer_bankSaid : (d.answer ws).bankSaid = d.bankSaid := rfl
@[simp] theorem Dev.answer_narrow : (d.answer ws).narrow = d.narrow := rfl
@[simp] theorem Dev.answer_slots : (d.answer ws).slots = d.slots := rfl
@[simp] theorem Dev.answer_heat : (d.answer ws).heat = d.heat := rfl
@[simp] theorem Dev.answer_sensorSaid : (d.answer ws).sensorSaid = d.sensorSaid := rfl
@[simp] theorem Dev.answer_floors : (d.answer ws).floors = d.floors := rfl
@[simp] theorem Dev.answer_rgn : (d.answer ws).rgn = d.rgn := rfl
@[simp] theorem Dev.answer_allocs : (d.answer ws).allocs = d.allocs := rfl
@[simp] theorem Dev.answer_sealedDone : (d.answer ws).sealedDone = d.sealedDone := rfl
@[simp] theorem Dev.answer_sealedDue : (d.answer ws).sealedDue = d.sealedDue := rfl
@[simp] theorem Dev.answer_lateSaid : (d.answer ws).lateSaid = d.lateSaid := rfl
@[simp] theorem Dev.answer_net : (d.answer ws).net = d.net := rfl
@[simp] theorem Dev.answer_lyr0 : (d.answer ws).lyr0 = d.lyr0 := rfl
@[simp] theorem Dev.answer_lyr1 : (d.answer ws).lyr1 = d.lyr1 := rfl
@[simp] theorem Dev.answer_kiln : (d.answer ws).kiln = d.kiln := rfl
@[simp] theorem Dev.answer_pmb : (d.answer ws).pmb = d.pmb := rfl
@[simp] theorem Dev.answer_sinds : (d.answer ws).sinds = d.sinds := rfl
@[simp] theorem Dev.answer_boot : (d.answer ws).boot = d.boot := rfl
@[simp] theorem Dev.answer_svc : (d.answer ws).svc = d.svc := rfl

end

section
variable (d : Dev) (n o : Nat) (bs : Bytes)

@[simp] theorem Dev.toHostMem_now : (d.toHostMem n o bs).now = d.now := rfl
@[simp] theorem Dev.toHostMem_fresh : (d.toHostMem n o bs).fresh = d.fresh := rfl
@[simp] theorem Dev.toHostMem_resp : (d.toHostMem n o bs).resp = d.resp := rfl
@[simp] theorem Dev.toHostMem_regs : (d.toHostMem n o bs).regs = d.regs := rfl
@[simp] theorem Dev.toHostMem_shadow : (d.toHostMem n o bs).shadow = d.shadow := rfl
@[simp] theorem Dev.toHostMem_vfs : (d.toHostMem n o bs).vfs = d.vfs := rfl
@[simp] theorem Dev.toHostMem_mps : (d.toHostMem n o bs).mps = d.mps := rfl
@[simp] theorem Dev.toHostMem_mrrs : (d.toHostMem n o bs).mrrs = d.mrrs := rfl
@[simp] theorem Dev.toHostMem_relaxed : (d.toHostMem n o bs).relaxed = d.relaxed := rfl
@[simp] theorem Dev.toHostMem_hostRate : (d.toHostMem n o bs).hostRate = d.hostRate := rfl
@[simp] theorem Dev.toHostMem_hostWidth : (d.toHostMem n o bs).hostWidth = d.hostWidth := rfl
@[simp] theorem Dev.toHostMem_evq : (d.toHostMem n o bs).evq = d.evq := rfl
@[simp] theorem Dev.toHostMem_dr : (d.toHostMem n o bs).dr = d.dr := rfl
@[simp] theorem Dev.toHostMem_sr : (d.toHostMem n o bs).sr = d.sr := rfl
@[simp] theorem Dev.toHostMem_msix : (d.toHostMem n o bs).msix = d.msix := rfl
@[simp] theorem Dev.toHostMem_toLink : (d.toHostMem n o bs).toLink = d.toLink := rfl
@[simp] theorem Dev.toHostMem_wakes : (d.toHostMem n o bs).wakes = d.wakes := rfl
@[simp] theorem Dev.toHostMem_bufs : (d.toHostMem n o bs).bufs = d.bufs := rfl
@[simp] theorem Dev.toHostMem_tally : (d.toHostMem n o bs).tally = d.tally := rfl
@[simp] theorem Dev.toHostMem_client : (d.toHostMem n o bs).client = d.client := rfl
@[simp] theorem Dev.toHostMem_cmds : (d.toHostMem n o bs).cmds = d.cmds := rfl
@[simp] theorem Dev.toHostMem_nextCid : (d.toHostMem n o bs).nextCid = d.nextCid := rfl
@[simp] theorem Dev.toHostMem_grants : (d.toHostMem n o bs).grants = d.grants := rfl
@[simp] theorem Dev.toHostMem_lastRing : (d.toHostMem n o bs).lastRing = d.lastRing := rfl
@[simp] theorem Dev.toHostMem_held : (d.toHostMem n o bs).held = d.held := rfl
@[simp] theorem Dev.toHostMem_chains : (d.toHostMem n o bs).chains = d.chains := rfl
@[simp] theorem Dev.toHostMem_serve : (d.toHostMem n o bs).serve = d.serve := rfl
@[simp] theorem Dev.toHostMem_strapId : (d.toHostMem n o bs).strapId = d.strapId := rfl
@[simp] theorem Dev.toHostMem_strapLead : (d.toHostMem n o bs).strapLead = d.strapLead := rfl
@[simp] theorem Dev.toHostMem_cores : (d.toHostMem n o bs).cores = d.cores := rfl
@[simp] theorem Dev.toHostMem_saveImg : (d.toHostMem n o bs).saveImg = d.saveImg := rfl
@[simp] theorem Dev.toHostMem_poison : (d.toHostMem n o bs).poison = d.poison := rfl
@[simp] theorem Dev.toHostMem_dir : (d.toHostMem n o bs).dir = d.dir := rfl
@[simp] theorem Dev.toHostMem_l2 : (d.toHostMem n o bs).l2 = d.l2 := rfl
@[simp] theorem Dev.toHostMem_stores : (d.toHostMem n o bs).stores = d.stores := rfl
@[simp] theorem Dev.toHostMem_streams : (d.toHostMem n o bs).streams = d.streams := rfl
@[simp] theorem Dev.toHostMem_finals : (d.toHostMem n o bs).finals = d.finals := rfl
@[simp] theorem Dev.toHostMem_finalsQ : (d.toHostMem n o bs).finalsQ = d.finalsQ := rfl
@[simp] theorem Dev.toHostMem_staged : (d.toHostMem n o bs).staged = d.staged := rfl
@[simp] theorem Dev.toHostMem_reasons : (d.toHostMem n o bs).reasons = d.reasons := rfl
@[simp] theorem Dev.toHostMem_testing : (d.toHostMem n o bs).testing = d.testing := rfl
@[simp] theorem Dev.toHostMem_fwStress : (d.toHostMem n o bs).fwStress = d.fwStress := rfl
@[simp] theorem Dev.toHostMem_fwSuspect : (d.toHostMem n o bs).fwSuspect = d.fwSuspect := rfl
@[simp] theorem Dev.toHostMem_swaps : (d.toHostMem n o bs).swaps = d.swaps := rfl
@[simp] theorem Dev.toHostMem_bgOpen : (d.toHostMem n o bs).bgOpen = d.bgOpen := rfl
@[simp] theorem Dev.toHostMem_linkRetry : (d.toHostMem n o bs).linkRetry = d.linkRetry := rfl
@[simp] theorem Dev.toHostMem_suspects : (d.toHostMem n o bs).suspects = d.suspects := rfl
@[simp] theorem Dev.toHostMem_resetting : (d.toHostMem n o bs).resetting = d.resetting := rfl
@[simp] theorem Dev.toHostMem_rowCe : (d.toHostMem n o bs).rowCe = d.rowCe := rfl
@[simp] theorem Dev.toHostMem_rowBusy : (d.toHostMem n o bs).rowBusy = d.rowBusy := rfl
@[simp] theorem Dev.toHostMem_rowMap : (d.toHostMem n o bs).rowMap = d.rowMap := rfl
@[simp] theorem Dev.toHostMem_bankUsed : (d.toHostMem n o bs).bankUsed = d.bankUsed := rfl
@[simp] theorem Dev.toHostMem_bankSaid : (d.toHostMem n o bs).bankSaid = d.bankSaid := rfl
@[simp] theorem Dev.toHostMem_narrow : (d.toHostMem n o bs).narrow = d.narrow := rfl
@[simp] theorem Dev.toHostMem_slots : (d.toHostMem n o bs).slots = d.slots := rfl
@[simp] theorem Dev.toHostMem_heat : (d.toHostMem n o bs).heat = d.heat := rfl
@[simp] theorem Dev.toHostMem_sensorSaid : (d.toHostMem n o bs).sensorSaid = d.sensorSaid := rfl
@[simp] theorem Dev.toHostMem_floors : (d.toHostMem n o bs).floors = d.floors := rfl
@[simp] theorem Dev.toHostMem_rgn : (d.toHostMem n o bs).rgn = d.rgn := rfl
@[simp] theorem Dev.toHostMem_allocs : (d.toHostMem n o bs).allocs = d.allocs := rfl
@[simp] theorem Dev.toHostMem_sealedDone : (d.toHostMem n o bs).sealedDone = d.sealedDone := rfl
@[simp] theorem Dev.toHostMem_sealedDue : (d.toHostMem n o bs).sealedDue = d.sealedDue := rfl
@[simp] theorem Dev.toHostMem_lateSaid : (d.toHostMem n o bs).lateSaid = d.lateSaid := rfl
@[simp] theorem Dev.toHostMem_net : (d.toHostMem n o bs).net = d.net := rfl
@[simp] theorem Dev.toHostMem_lyr0 : (d.toHostMem n o bs).lyr0 = d.lyr0 := rfl
@[simp] theorem Dev.toHostMem_lyr1 : (d.toHostMem n o bs).lyr1 = d.lyr1 := rfl
@[simp] theorem Dev.toHostMem_kiln : (d.toHostMem n o bs).kiln = d.kiln := rfl
@[simp] theorem Dev.toHostMem_pmb : (d.toHostMem n o bs).pmb = d.pmb := rfl
@[simp] theorem Dev.toHostMem_sinds : (d.toHostMem n o bs).sinds = d.sinds := rfl
@[simp] theorem Dev.toHostMem_boot : (d.toHostMem n o bs).boot = d.boot := rfl
@[simp] theorem Dev.toHostMem_svc : (d.toHostMem n o bs).svc = d.svc := rfl

end

section
variable (d : Dev) (n : Nat) (q : EvQ)

@[simp] theorem Dev.setEvQ_now : (d.setEvQ n q).now = d.now := rfl
@[simp] theorem Dev.setEvQ_fresh : (d.setEvQ n q).fresh = d.fresh := rfl
@[simp] theorem Dev.setEvQ_resp : (d.setEvQ n q).resp = d.resp := rfl
@[simp] theorem Dev.setEvQ_regs : (d.setEvQ n q).regs = d.regs := rfl
@[simp] theorem Dev.setEvQ_shadow : (d.setEvQ n q).shadow = d.shadow := rfl
@[simp] theorem Dev.setEvQ_vfs : (d.setEvQ n q).vfs = d.vfs := rfl
@[simp] theorem Dev.setEvQ_mps : (d.setEvQ n q).mps = d.mps := rfl
@[simp] theorem Dev.setEvQ_mrrs : (d.setEvQ n q).mrrs = d.mrrs := rfl
@[simp] theorem Dev.setEvQ_relaxed : (d.setEvQ n q).relaxed = d.relaxed := rfl
@[simp] theorem Dev.setEvQ_hostRate : (d.setEvQ n q).hostRate = d.hostRate := rfl
@[simp] theorem Dev.setEvQ_hostWidth : (d.setEvQ n q).hostWidth = d.hostWidth := rfl
@[simp] theorem Dev.setEvQ_dr : (d.setEvQ n q).dr = d.dr := rfl
@[simp] theorem Dev.setEvQ_sr : (d.setEvQ n q).sr = d.sr := rfl
@[simp] theorem Dev.setEvQ_toHost : (d.setEvQ n q).toHost = d.toHost := rfl
@[simp] theorem Dev.setEvQ_msix : (d.setEvQ n q).msix = d.msix := rfl
@[simp] theorem Dev.setEvQ_toLink : (d.setEvQ n q).toLink = d.toLink := rfl
@[simp] theorem Dev.setEvQ_wakes : (d.setEvQ n q).wakes = d.wakes := rfl
@[simp] theorem Dev.setEvQ_bufs : (d.setEvQ n q).bufs = d.bufs := rfl
@[simp] theorem Dev.setEvQ_tally : (d.setEvQ n q).tally = d.tally := rfl
@[simp] theorem Dev.setEvQ_client : (d.setEvQ n q).client = d.client := rfl
@[simp] theorem Dev.setEvQ_cmds : (d.setEvQ n q).cmds = d.cmds := rfl
@[simp] theorem Dev.setEvQ_nextCid : (d.setEvQ n q).nextCid = d.nextCid := rfl
@[simp] theorem Dev.setEvQ_grants : (d.setEvQ n q).grants = d.grants := rfl
@[simp] theorem Dev.setEvQ_lastRing : (d.setEvQ n q).lastRing = d.lastRing := rfl
@[simp] theorem Dev.setEvQ_held : (d.setEvQ n q).held = d.held := rfl
@[simp] theorem Dev.setEvQ_chains : (d.setEvQ n q).chains = d.chains := rfl
@[simp] theorem Dev.setEvQ_serve : (d.setEvQ n q).serve = d.serve := rfl
@[simp] theorem Dev.setEvQ_strapId : (d.setEvQ n q).strapId = d.strapId := rfl
@[simp] theorem Dev.setEvQ_strapLead : (d.setEvQ n q).strapLead = d.strapLead := rfl
@[simp] theorem Dev.setEvQ_cores : (d.setEvQ n q).cores = d.cores := rfl
@[simp] theorem Dev.setEvQ_saveImg : (d.setEvQ n q).saveImg = d.saveImg := rfl
@[simp] theorem Dev.setEvQ_poison : (d.setEvQ n q).poison = d.poison := rfl
@[simp] theorem Dev.setEvQ_dir : (d.setEvQ n q).dir = d.dir := rfl
@[simp] theorem Dev.setEvQ_l2 : (d.setEvQ n q).l2 = d.l2 := rfl
@[simp] theorem Dev.setEvQ_stores : (d.setEvQ n q).stores = d.stores := rfl
@[simp] theorem Dev.setEvQ_streams : (d.setEvQ n q).streams = d.streams := rfl
@[simp] theorem Dev.setEvQ_finals : (d.setEvQ n q).finals = d.finals := rfl
@[simp] theorem Dev.setEvQ_finalsQ : (d.setEvQ n q).finalsQ = d.finalsQ := rfl
@[simp] theorem Dev.setEvQ_staged : (d.setEvQ n q).staged = d.staged := rfl
@[simp] theorem Dev.setEvQ_reasons : (d.setEvQ n q).reasons = d.reasons := rfl
@[simp] theorem Dev.setEvQ_testing : (d.setEvQ n q).testing = d.testing := rfl
@[simp] theorem Dev.setEvQ_fwStress : (d.setEvQ n q).fwStress = d.fwStress := rfl
@[simp] theorem Dev.setEvQ_fwSuspect : (d.setEvQ n q).fwSuspect = d.fwSuspect := rfl
@[simp] theorem Dev.setEvQ_swaps : (d.setEvQ n q).swaps = d.swaps := rfl
@[simp] theorem Dev.setEvQ_bgOpen : (d.setEvQ n q).bgOpen = d.bgOpen := rfl
@[simp] theorem Dev.setEvQ_linkRetry : (d.setEvQ n q).linkRetry = d.linkRetry := rfl
@[simp] theorem Dev.setEvQ_suspects : (d.setEvQ n q).suspects = d.suspects := rfl
@[simp] theorem Dev.setEvQ_resetting : (d.setEvQ n q).resetting = d.resetting := rfl
@[simp] theorem Dev.setEvQ_rowCe : (d.setEvQ n q).rowCe = d.rowCe := rfl
@[simp] theorem Dev.setEvQ_rowBusy : (d.setEvQ n q).rowBusy = d.rowBusy := rfl
@[simp] theorem Dev.setEvQ_rowMap : (d.setEvQ n q).rowMap = d.rowMap := rfl
@[simp] theorem Dev.setEvQ_bankUsed : (d.setEvQ n q).bankUsed = d.bankUsed := rfl
@[simp] theorem Dev.setEvQ_bankSaid : (d.setEvQ n q).bankSaid = d.bankSaid := rfl
@[simp] theorem Dev.setEvQ_narrow : (d.setEvQ n q).narrow = d.narrow := rfl
@[simp] theorem Dev.setEvQ_slots : (d.setEvQ n q).slots = d.slots := rfl
@[simp] theorem Dev.setEvQ_heat : (d.setEvQ n q).heat = d.heat := rfl
@[simp] theorem Dev.setEvQ_sensorSaid : (d.setEvQ n q).sensorSaid = d.sensorSaid := rfl
@[simp] theorem Dev.setEvQ_floors : (d.setEvQ n q).floors = d.floors := rfl
@[simp] theorem Dev.setEvQ_rgn : (d.setEvQ n q).rgn = d.rgn := rfl
@[simp] theorem Dev.setEvQ_allocs : (d.setEvQ n q).allocs = d.allocs := rfl
@[simp] theorem Dev.setEvQ_sealedDone : (d.setEvQ n q).sealedDone = d.sealedDone := rfl
@[simp] theorem Dev.setEvQ_sealedDue : (d.setEvQ n q).sealedDue = d.sealedDue := rfl
@[simp] theorem Dev.setEvQ_lateSaid : (d.setEvQ n q).lateSaid = d.lateSaid := rfl
@[simp] theorem Dev.setEvQ_net : (d.setEvQ n q).net = d.net := rfl
@[simp] theorem Dev.setEvQ_lyr0 : (d.setEvQ n q).lyr0 = d.lyr0 := rfl
@[simp] theorem Dev.setEvQ_lyr1 : (d.setEvQ n q).lyr1 = d.lyr1 := rfl
@[simp] theorem Dev.setEvQ_kiln : (d.setEvQ n q).kiln = d.kiln := rfl
@[simp] theorem Dev.setEvQ_pmb : (d.setEvQ n q).pmb = d.pmb := rfl
@[simp] theorem Dev.setEvQ_sinds : (d.setEvQ n q).sinds = d.sinds := rfl
@[simp] theorem Dev.setEvQ_boot : (d.setEvQ n q).boot = d.boot := rfl
@[simp] theorem Dev.setEvQ_svc : (d.setEvQ n q).svc = d.svc := rfl

end

section
variable (d : Dev) (n : Nat) (x : DRing)

@[simp] theorem Dev.setDring_now : (d.setDring n x).now = d.now := rfl
@[simp] theorem Dev.setDring_fresh : (d.setDring n x).fresh = d.fresh := rfl
@[simp] theorem Dev.setDring_resp : (d.setDring n x).resp = d.resp := rfl
@[simp] theorem Dev.setDring_regs : (d.setDring n x).regs = d.regs := rfl
@[simp] theorem Dev.setDring_shadow : (d.setDring n x).shadow = d.shadow := rfl
@[simp] theorem Dev.setDring_vfs : (d.setDring n x).vfs = d.vfs := rfl
@[simp] theorem Dev.setDring_mps : (d.setDring n x).mps = d.mps := rfl
@[simp] theorem Dev.setDring_mrrs : (d.setDring n x).mrrs = d.mrrs := rfl
@[simp] theorem Dev.setDring_relaxed : (d.setDring n x).relaxed = d.relaxed := rfl
@[simp] theorem Dev.setDring_hostRate : (d.setDring n x).hostRate = d.hostRate := rfl
@[simp] theorem Dev.setDring_hostWidth : (d.setDring n x).hostWidth = d.hostWidth := rfl
@[simp] theorem Dev.setDring_evq : (d.setDring n x).evq = d.evq := rfl
@[simp] theorem Dev.setDring_sr : (d.setDring n x).sr = d.sr := rfl
@[simp] theorem Dev.setDring_toHost : (d.setDring n x).toHost = d.toHost := rfl
@[simp] theorem Dev.setDring_msix : (d.setDring n x).msix = d.msix := rfl
@[simp] theorem Dev.setDring_toLink : (d.setDring n x).toLink = d.toLink := rfl
@[simp] theorem Dev.setDring_wakes : (d.setDring n x).wakes = d.wakes := rfl
@[simp] theorem Dev.setDring_bufs : (d.setDring n x).bufs = d.bufs := rfl
@[simp] theorem Dev.setDring_tally : (d.setDring n x).tally = d.tally := rfl
@[simp] theorem Dev.setDring_client : (d.setDring n x).client = d.client := rfl
@[simp] theorem Dev.setDring_cmds : (d.setDring n x).cmds = d.cmds := rfl
@[simp] theorem Dev.setDring_nextCid : (d.setDring n x).nextCid = d.nextCid := rfl
@[simp] theorem Dev.setDring_grants : (d.setDring n x).grants = d.grants := rfl
@[simp] theorem Dev.setDring_lastRing : (d.setDring n x).lastRing = d.lastRing := rfl
@[simp] theorem Dev.setDring_held : (d.setDring n x).held = d.held := rfl
@[simp] theorem Dev.setDring_chains : (d.setDring n x).chains = d.chains := rfl
@[simp] theorem Dev.setDring_serve : (d.setDring n x).serve = d.serve := rfl
@[simp] theorem Dev.setDring_strapId : (d.setDring n x).strapId = d.strapId := rfl
@[simp] theorem Dev.setDring_strapLead : (d.setDring n x).strapLead = d.strapLead := rfl
@[simp] theorem Dev.setDring_cores : (d.setDring n x).cores = d.cores := rfl
@[simp] theorem Dev.setDring_saveImg : (d.setDring n x).saveImg = d.saveImg := rfl
@[simp] theorem Dev.setDring_poison : (d.setDring n x).poison = d.poison := rfl
@[simp] theorem Dev.setDring_dir : (d.setDring n x).dir = d.dir := rfl
@[simp] theorem Dev.setDring_l2 : (d.setDring n x).l2 = d.l2 := rfl
@[simp] theorem Dev.setDring_stores : (d.setDring n x).stores = d.stores := rfl
@[simp] theorem Dev.setDring_streams : (d.setDring n x).streams = d.streams := rfl
@[simp] theorem Dev.setDring_finals : (d.setDring n x).finals = d.finals := rfl
@[simp] theorem Dev.setDring_finalsQ : (d.setDring n x).finalsQ = d.finalsQ := rfl
@[simp] theorem Dev.setDring_staged : (d.setDring n x).staged = d.staged := rfl
@[simp] theorem Dev.setDring_reasons : (d.setDring n x).reasons = d.reasons := rfl
@[simp] theorem Dev.setDring_testing : (d.setDring n x).testing = d.testing := rfl
@[simp] theorem Dev.setDring_fwStress : (d.setDring n x).fwStress = d.fwStress := rfl
@[simp] theorem Dev.setDring_fwSuspect : (d.setDring n x).fwSuspect = d.fwSuspect := rfl
@[simp] theorem Dev.setDring_swaps : (d.setDring n x).swaps = d.swaps := rfl
@[simp] theorem Dev.setDring_bgOpen : (d.setDring n x).bgOpen = d.bgOpen := rfl
@[simp] theorem Dev.setDring_linkRetry : (d.setDring n x).linkRetry = d.linkRetry := rfl
@[simp] theorem Dev.setDring_suspects : (d.setDring n x).suspects = d.suspects := rfl
@[simp] theorem Dev.setDring_resetting : (d.setDring n x).resetting = d.resetting := rfl
@[simp] theorem Dev.setDring_rowCe : (d.setDring n x).rowCe = d.rowCe := rfl
@[simp] theorem Dev.setDring_rowBusy : (d.setDring n x).rowBusy = d.rowBusy := rfl
@[simp] theorem Dev.setDring_rowMap : (d.setDring n x).rowMap = d.rowMap := rfl
@[simp] theorem Dev.setDring_bankUsed : (d.setDring n x).bankUsed = d.bankUsed := rfl
@[simp] theorem Dev.setDring_bankSaid : (d.setDring n x).bankSaid = d.bankSaid := rfl
@[simp] theorem Dev.setDring_narrow : (d.setDring n x).narrow = d.narrow := rfl
@[simp] theorem Dev.setDring_slots : (d.setDring n x).slots = d.slots := rfl
@[simp] theorem Dev.setDring_heat : (d.setDring n x).heat = d.heat := rfl
@[simp] theorem Dev.setDring_sensorSaid : (d.setDring n x).sensorSaid = d.sensorSaid := rfl
@[simp] theorem Dev.setDring_floors : (d.setDring n x).floors = d.floors := rfl
@[simp] theorem Dev.setDring_rgn : (d.setDring n x).rgn = d.rgn := rfl
@[simp] theorem Dev.setDring_allocs : (d.setDring n x).allocs = d.allocs := rfl
@[simp] theorem Dev.setDring_sealedDone : (d.setDring n x).sealedDone = d.sealedDone := rfl
@[simp] theorem Dev.setDring_sealedDue : (d.setDring n x).sealedDue = d.sealedDue := rfl
@[simp] theorem Dev.setDring_lateSaid : (d.setDring n x).lateSaid = d.lateSaid := rfl
@[simp] theorem Dev.setDring_net : (d.setDring n x).net = d.net := rfl
@[simp] theorem Dev.setDring_lyr0 : (d.setDring n x).lyr0 = d.lyr0 := rfl
@[simp] theorem Dev.setDring_lyr1 : (d.setDring n x).lyr1 = d.lyr1 := rfl
@[simp] theorem Dev.setDring_kiln : (d.setDring n x).kiln = d.kiln := rfl
@[simp] theorem Dev.setDring_pmb : (d.setDring n x).pmb = d.pmb := rfl
@[simp] theorem Dev.setDring_sinds : (d.setDring n x).sinds = d.sinds := rfl
@[simp] theorem Dev.setDring_boot : (d.setDring n x).boot = d.boot := rfl
@[simp] theorem Dev.setDring_svc : (d.setDring n x).svc = d.svc := rfl

end

section
variable (d : Dev) (n : Nat) (x : SRing)

@[simp] theorem Dev.setSring_now : (d.setSring n x).now = d.now := rfl
@[simp] theorem Dev.setSring_fresh : (d.setSring n x).fresh = d.fresh := rfl
@[simp] theorem Dev.setSring_resp : (d.setSring n x).resp = d.resp := rfl
@[simp] theorem Dev.setSring_regs : (d.setSring n x).regs = d.regs := rfl
@[simp] theorem Dev.setSring_shadow : (d.setSring n x).shadow = d.shadow := rfl
@[simp] theorem Dev.setSring_vfs : (d.setSring n x).vfs = d.vfs := rfl
@[simp] theorem Dev.setSring_mps : (d.setSring n x).mps = d.mps := rfl
@[simp] theorem Dev.setSring_mrrs : (d.setSring n x).mrrs = d.mrrs := rfl
@[simp] theorem Dev.setSring_relaxed : (d.setSring n x).relaxed = d.relaxed := rfl
@[simp] theorem Dev.setSring_hostRate : (d.setSring n x).hostRate = d.hostRate := rfl
@[simp] theorem Dev.setSring_hostWidth : (d.setSring n x).hostWidth = d.hostWidth := rfl
@[simp] theorem Dev.setSring_evq : (d.setSring n x).evq = d.evq := rfl
@[simp] theorem Dev.setSring_dr : (d.setSring n x).dr = d.dr := rfl
@[simp] theorem Dev.setSring_toHost : (d.setSring n x).toHost = d.toHost := rfl
@[simp] theorem Dev.setSring_msix : (d.setSring n x).msix = d.msix := rfl
@[simp] theorem Dev.setSring_toLink : (d.setSring n x).toLink = d.toLink := rfl
@[simp] theorem Dev.setSring_wakes : (d.setSring n x).wakes = d.wakes := rfl
@[simp] theorem Dev.setSring_bufs : (d.setSring n x).bufs = d.bufs := rfl
@[simp] theorem Dev.setSring_tally : (d.setSring n x).tally = d.tally := rfl
@[simp] theorem Dev.setSring_client : (d.setSring n x).client = d.client := rfl
@[simp] theorem Dev.setSring_cmds : (d.setSring n x).cmds = d.cmds := rfl
@[simp] theorem Dev.setSring_nextCid : (d.setSring n x).nextCid = d.nextCid := rfl
@[simp] theorem Dev.setSring_grants : (d.setSring n x).grants = d.grants := rfl
@[simp] theorem Dev.setSring_lastRing : (d.setSring n x).lastRing = d.lastRing := rfl
@[simp] theorem Dev.setSring_held : (d.setSring n x).held = d.held := rfl
@[simp] theorem Dev.setSring_chains : (d.setSring n x).chains = d.chains := rfl
@[simp] theorem Dev.setSring_serve : (d.setSring n x).serve = d.serve := rfl
@[simp] theorem Dev.setSring_strapId : (d.setSring n x).strapId = d.strapId := rfl
@[simp] theorem Dev.setSring_strapLead : (d.setSring n x).strapLead = d.strapLead := rfl
@[simp] theorem Dev.setSring_cores : (d.setSring n x).cores = d.cores := rfl
@[simp] theorem Dev.setSring_saveImg : (d.setSring n x).saveImg = d.saveImg := rfl
@[simp] theorem Dev.setSring_poison : (d.setSring n x).poison = d.poison := rfl
@[simp] theorem Dev.setSring_dir : (d.setSring n x).dir = d.dir := rfl
@[simp] theorem Dev.setSring_l2 : (d.setSring n x).l2 = d.l2 := rfl
@[simp] theorem Dev.setSring_stores : (d.setSring n x).stores = d.stores := rfl
@[simp] theorem Dev.setSring_streams : (d.setSring n x).streams = d.streams := rfl
@[simp] theorem Dev.setSring_finals : (d.setSring n x).finals = d.finals := rfl
@[simp] theorem Dev.setSring_finalsQ : (d.setSring n x).finalsQ = d.finalsQ := rfl
@[simp] theorem Dev.setSring_staged : (d.setSring n x).staged = d.staged := rfl
@[simp] theorem Dev.setSring_reasons : (d.setSring n x).reasons = d.reasons := rfl
@[simp] theorem Dev.setSring_testing : (d.setSring n x).testing = d.testing := rfl
@[simp] theorem Dev.setSring_fwStress : (d.setSring n x).fwStress = d.fwStress := rfl
@[simp] theorem Dev.setSring_fwSuspect : (d.setSring n x).fwSuspect = d.fwSuspect := rfl
@[simp] theorem Dev.setSring_swaps : (d.setSring n x).swaps = d.swaps := rfl
@[simp] theorem Dev.setSring_bgOpen : (d.setSring n x).bgOpen = d.bgOpen := rfl
@[simp] theorem Dev.setSring_linkRetry : (d.setSring n x).linkRetry = d.linkRetry := rfl
@[simp] theorem Dev.setSring_suspects : (d.setSring n x).suspects = d.suspects := rfl
@[simp] theorem Dev.setSring_resetting : (d.setSring n x).resetting = d.resetting := rfl
@[simp] theorem Dev.setSring_rowCe : (d.setSring n x).rowCe = d.rowCe := rfl
@[simp] theorem Dev.setSring_rowBusy : (d.setSring n x).rowBusy = d.rowBusy := rfl
@[simp] theorem Dev.setSring_rowMap : (d.setSring n x).rowMap = d.rowMap := rfl
@[simp] theorem Dev.setSring_bankUsed : (d.setSring n x).bankUsed = d.bankUsed := rfl
@[simp] theorem Dev.setSring_bankSaid : (d.setSring n x).bankSaid = d.bankSaid := rfl
@[simp] theorem Dev.setSring_narrow : (d.setSring n x).narrow = d.narrow := rfl
@[simp] theorem Dev.setSring_slots : (d.setSring n x).slots = d.slots := rfl
@[simp] theorem Dev.setSring_heat : (d.setSring n x).heat = d.heat := rfl
@[simp] theorem Dev.setSring_sensorSaid : (d.setSring n x).sensorSaid = d.sensorSaid := rfl
@[simp] theorem Dev.setSring_floors : (d.setSring n x).floors = d.floors := rfl
@[simp] theorem Dev.setSring_rgn : (d.setSring n x).rgn = d.rgn := rfl
@[simp] theorem Dev.setSring_allocs : (d.setSring n x).allocs = d.allocs := rfl
@[simp] theorem Dev.setSring_sealedDone : (d.setSring n x).sealedDone = d.sealedDone := rfl
@[simp] theorem Dev.setSring_sealedDue : (d.setSring n x).sealedDue = d.sealedDue := rfl
@[simp] theorem Dev.setSring_lateSaid : (d.setSring n x).lateSaid = d.lateSaid := rfl
@[simp] theorem Dev.setSring_net : (d.setSring n x).net = d.net := rfl
@[simp] theorem Dev.setSring_lyr0 : (d.setSring n x).lyr0 = d.lyr0 := rfl
@[simp] theorem Dev.setSring_lyr1 : (d.setSring n x).lyr1 = d.lyr1 := rfl
@[simp] theorem Dev.setSring_kiln : (d.setSring n x).kiln = d.kiln := rfl
@[simp] theorem Dev.setSring_pmb : (d.setSring n x).pmb = d.pmb := rfl
@[simp] theorem Dev.setSring_sinds : (d.setSring n x).sinds = d.sinds := rfl
@[simp] theorem Dev.setSring_boot : (d.setSring n x).boot = d.boot := rfl
@[simp] theorem Dev.setSring_svc : (d.setSring n x).svc = d.svc := rfl

end

section
variable (d : Dev) (n : Nat) (x : WakeSt)

@[simp] theorem Dev.setWake_now : (d.setWake n x).now = d.now := rfl
@[simp] theorem Dev.setWake_fresh : (d.setWake n x).fresh = d.fresh := rfl
@[simp] theorem Dev.setWake_resp : (d.setWake n x).resp = d.resp := rfl
@[simp] theorem Dev.setWake_regs : (d.setWake n x).regs = d.regs := rfl
@[simp] theorem Dev.setWake_shadow : (d.setWake n x).shadow = d.shadow := rfl
@[simp] theorem Dev.setWake_vfs : (d.setWake n x).vfs = d.vfs := rfl
@[simp] theorem Dev.setWake_mps : (d.setWake n x).mps = d.mps := rfl
@[simp] theorem Dev.setWake_mrrs : (d.setWake n x).mrrs = d.mrrs := rfl
@[simp] theorem Dev.setWake_relaxed : (d.setWake n x).relaxed = d.relaxed := rfl
@[simp] theorem Dev.setWake_hostRate : (d.setWake n x).hostRate = d.hostRate := rfl
@[simp] theorem Dev.setWake_hostWidth : (d.setWake n x).hostWidth = d.hostWidth := rfl
@[simp] theorem Dev.setWake_evq : (d.setWake n x).evq = d.evq := rfl
@[simp] theorem Dev.setWake_dr : (d.setWake n x).dr = d.dr := rfl
@[simp] theorem Dev.setWake_sr : (d.setWake n x).sr = d.sr := rfl
@[simp] theorem Dev.setWake_toHost : (d.setWake n x).toHost = d.toHost := rfl
@[simp] theorem Dev.setWake_msix : (d.setWake n x).msix = d.msix := rfl
@[simp] theorem Dev.setWake_toLink : (d.setWake n x).toLink = d.toLink := rfl
@[simp] theorem Dev.setWake_bufs : (d.setWake n x).bufs = d.bufs := rfl
@[simp] theorem Dev.setWake_tally : (d.setWake n x).tally = d.tally := rfl
@[simp] theorem Dev.setWake_client : (d.setWake n x).client = d.client := rfl
@[simp] theorem Dev.setWake_cmds : (d.setWake n x).cmds = d.cmds := rfl
@[simp] theorem Dev.setWake_nextCid : (d.setWake n x).nextCid = d.nextCid := rfl
@[simp] theorem Dev.setWake_grants : (d.setWake n x).grants = d.grants := rfl
@[simp] theorem Dev.setWake_lastRing : (d.setWake n x).lastRing = d.lastRing := rfl
@[simp] theorem Dev.setWake_held : (d.setWake n x).held = d.held := rfl
@[simp] theorem Dev.setWake_chains : (d.setWake n x).chains = d.chains := rfl
@[simp] theorem Dev.setWake_serve : (d.setWake n x).serve = d.serve := rfl
@[simp] theorem Dev.setWake_strapId : (d.setWake n x).strapId = d.strapId := rfl
@[simp] theorem Dev.setWake_strapLead : (d.setWake n x).strapLead = d.strapLead := rfl
@[simp] theorem Dev.setWake_cores : (d.setWake n x).cores = d.cores := rfl
@[simp] theorem Dev.setWake_saveImg : (d.setWake n x).saveImg = d.saveImg := rfl
@[simp] theorem Dev.setWake_poison : (d.setWake n x).poison = d.poison := rfl
@[simp] theorem Dev.setWake_dir : (d.setWake n x).dir = d.dir := rfl
@[simp] theorem Dev.setWake_l2 : (d.setWake n x).l2 = d.l2 := rfl
@[simp] theorem Dev.setWake_stores : (d.setWake n x).stores = d.stores := rfl
@[simp] theorem Dev.setWake_streams : (d.setWake n x).streams = d.streams := rfl
@[simp] theorem Dev.setWake_finals : (d.setWake n x).finals = d.finals := rfl
@[simp] theorem Dev.setWake_finalsQ : (d.setWake n x).finalsQ = d.finalsQ := rfl
@[simp] theorem Dev.setWake_staged : (d.setWake n x).staged = d.staged := rfl
@[simp] theorem Dev.setWake_reasons : (d.setWake n x).reasons = d.reasons := rfl
@[simp] theorem Dev.setWake_testing : (d.setWake n x).testing = d.testing := rfl
@[simp] theorem Dev.setWake_fwStress : (d.setWake n x).fwStress = d.fwStress := rfl
@[simp] theorem Dev.setWake_fwSuspect : (d.setWake n x).fwSuspect = d.fwSuspect := rfl
@[simp] theorem Dev.setWake_swaps : (d.setWake n x).swaps = d.swaps := rfl
@[simp] theorem Dev.setWake_bgOpen : (d.setWake n x).bgOpen = d.bgOpen := rfl
@[simp] theorem Dev.setWake_linkRetry : (d.setWake n x).linkRetry = d.linkRetry := rfl
@[simp] theorem Dev.setWake_suspects : (d.setWake n x).suspects = d.suspects := rfl
@[simp] theorem Dev.setWake_resetting : (d.setWake n x).resetting = d.resetting := rfl
@[simp] theorem Dev.setWake_rowCe : (d.setWake n x).rowCe = d.rowCe := rfl
@[simp] theorem Dev.setWake_rowBusy : (d.setWake n x).rowBusy = d.rowBusy := rfl
@[simp] theorem Dev.setWake_rowMap : (d.setWake n x).rowMap = d.rowMap := rfl
@[simp] theorem Dev.setWake_bankUsed : (d.setWake n x).bankUsed = d.bankUsed := rfl
@[simp] theorem Dev.setWake_bankSaid : (d.setWake n x).bankSaid = d.bankSaid := rfl
@[simp] theorem Dev.setWake_narrow : (d.setWake n x).narrow = d.narrow := rfl
@[simp] theorem Dev.setWake_slots : (d.setWake n x).slots = d.slots := rfl
@[simp] theorem Dev.setWake_heat : (d.setWake n x).heat = d.heat := rfl
@[simp] theorem Dev.setWake_sensorSaid : (d.setWake n x).sensorSaid = d.sensorSaid := rfl
@[simp] theorem Dev.setWake_floors : (d.setWake n x).floors = d.floors := rfl
@[simp] theorem Dev.setWake_rgn : (d.setWake n x).rgn = d.rgn := rfl
@[simp] theorem Dev.setWake_allocs : (d.setWake n x).allocs = d.allocs := rfl
@[simp] theorem Dev.setWake_sealedDone : (d.setWake n x).sealedDone = d.sealedDone := rfl
@[simp] theorem Dev.setWake_sealedDue : (d.setWake n x).sealedDue = d.sealedDue := rfl
@[simp] theorem Dev.setWake_lateSaid : (d.setWake n x).lateSaid = d.lateSaid := rfl
@[simp] theorem Dev.setWake_net : (d.setWake n x).net = d.net := rfl
@[simp] theorem Dev.setWake_lyr0 : (d.setWake n x).lyr0 = d.lyr0 := rfl
@[simp] theorem Dev.setWake_lyr1 : (d.setWake n x).lyr1 = d.lyr1 := rfl
@[simp] theorem Dev.setWake_kiln : (d.setWake n x).kiln = d.kiln := rfl
@[simp] theorem Dev.setWake_pmb : (d.setWake n x).pmb = d.pmb := rfl
@[simp] theorem Dev.setWake_sinds : (d.setWake n x).sinds = d.sinds := rfl
@[simp] theorem Dev.setWake_boot : (d.setWake n x).boot = d.boot := rfl
@[simp] theorem Dev.setWake_svc : (d.setWake n x).svc = d.svc := rfl

end

section
variable (d : Dev) (p n : Nat) (x : BufEnt)

@[simp] theorem Dev.setBuf_now : (d.setBuf p n x).now = d.now := rfl
@[simp] theorem Dev.setBuf_fresh : (d.setBuf p n x).fresh = d.fresh := rfl
@[simp] theorem Dev.setBuf_resp : (d.setBuf p n x).resp = d.resp := rfl
@[simp] theorem Dev.setBuf_regs : (d.setBuf p n x).regs = d.regs := rfl
@[simp] theorem Dev.setBuf_shadow : (d.setBuf p n x).shadow = d.shadow := rfl
@[simp] theorem Dev.setBuf_vfs : (d.setBuf p n x).vfs = d.vfs := rfl
@[simp] theorem Dev.setBuf_mps : (d.setBuf p n x).mps = d.mps := rfl
@[simp] theorem Dev.setBuf_mrrs : (d.setBuf p n x).mrrs = d.mrrs := rfl
@[simp] theorem Dev.setBuf_relaxed : (d.setBuf p n x).relaxed = d.relaxed := rfl
@[simp] theorem Dev.setBuf_hostRate : (d.setBuf p n x).hostRate = d.hostRate := rfl
@[simp] theorem Dev.setBuf_hostWidth : (d.setBuf p n x).hostWidth = d.hostWidth := rfl
@[simp] theorem Dev.setBuf_evq : (d.setBuf p n x).evq = d.evq := rfl
@[simp] theorem Dev.setBuf_dr : (d.setBuf p n x).dr = d.dr := rfl
@[simp] theorem Dev.setBuf_sr : (d.setBuf p n x).sr = d.sr := rfl
@[simp] theorem Dev.setBuf_toHost : (d.setBuf p n x).toHost = d.toHost := rfl
@[simp] theorem Dev.setBuf_msix : (d.setBuf p n x).msix = d.msix := rfl
@[simp] theorem Dev.setBuf_toLink : (d.setBuf p n x).toLink = d.toLink := rfl
@[simp] theorem Dev.setBuf_wakes : (d.setBuf p n x).wakes = d.wakes := rfl
@[simp] theorem Dev.setBuf_tally : (d.setBuf p n x).tally = d.tally := rfl
@[simp] theorem Dev.setBuf_client : (d.setBuf p n x).client = d.client := rfl
@[simp] theorem Dev.setBuf_cmds : (d.setBuf p n x).cmds = d.cmds := rfl
@[simp] theorem Dev.setBuf_nextCid : (d.setBuf p n x).nextCid = d.nextCid := rfl
@[simp] theorem Dev.setBuf_grants : (d.setBuf p n x).grants = d.grants := rfl
@[simp] theorem Dev.setBuf_lastRing : (d.setBuf p n x).lastRing = d.lastRing := rfl
@[simp] theorem Dev.setBuf_held : (d.setBuf p n x).held = d.held := rfl
@[simp] theorem Dev.setBuf_chains : (d.setBuf p n x).chains = d.chains := rfl
@[simp] theorem Dev.setBuf_serve : (d.setBuf p n x).serve = d.serve := rfl
@[simp] theorem Dev.setBuf_strapId : (d.setBuf p n x).strapId = d.strapId := rfl
@[simp] theorem Dev.setBuf_strapLead : (d.setBuf p n x).strapLead = d.strapLead := rfl
@[simp] theorem Dev.setBuf_cores : (d.setBuf p n x).cores = d.cores := rfl
@[simp] theorem Dev.setBuf_saveImg : (d.setBuf p n x).saveImg = d.saveImg := rfl
@[simp] theorem Dev.setBuf_poison : (d.setBuf p n x).poison = d.poison := rfl
@[simp] theorem Dev.setBuf_dir : (d.setBuf p n x).dir = d.dir := rfl
@[simp] theorem Dev.setBuf_l2 : (d.setBuf p n x).l2 = d.l2 := rfl
@[simp] theorem Dev.setBuf_stores : (d.setBuf p n x).stores = d.stores := rfl
@[simp] theorem Dev.setBuf_streams : (d.setBuf p n x).streams = d.streams := rfl
@[simp] theorem Dev.setBuf_finals : (d.setBuf p n x).finals = d.finals := rfl
@[simp] theorem Dev.setBuf_finalsQ : (d.setBuf p n x).finalsQ = d.finalsQ := rfl
@[simp] theorem Dev.setBuf_staged : (d.setBuf p n x).staged = d.staged := rfl
@[simp] theorem Dev.setBuf_reasons : (d.setBuf p n x).reasons = d.reasons := rfl
@[simp] theorem Dev.setBuf_testing : (d.setBuf p n x).testing = d.testing := rfl
@[simp] theorem Dev.setBuf_fwStress : (d.setBuf p n x).fwStress = d.fwStress := rfl
@[simp] theorem Dev.setBuf_fwSuspect : (d.setBuf p n x).fwSuspect = d.fwSuspect := rfl
@[simp] theorem Dev.setBuf_swaps : (d.setBuf p n x).swaps = d.swaps := rfl
@[simp] theorem Dev.setBuf_bgOpen : (d.setBuf p n x).bgOpen = d.bgOpen := rfl
@[simp] theorem Dev.setBuf_linkRetry : (d.setBuf p n x).linkRetry = d.linkRetry := rfl
@[simp] theorem Dev.setBuf_suspects : (d.setBuf p n x).suspects = d.suspects := rfl
@[simp] theorem Dev.setBuf_resetting : (d.setBuf p n x).resetting = d.resetting := rfl
@[simp] theorem Dev.setBuf_rowCe : (d.setBuf p n x).rowCe = d.rowCe := rfl
@[simp] theorem Dev.setBuf_rowBusy : (d.setBuf p n x).rowBusy = d.rowBusy := rfl
@[simp] theorem Dev.setBuf_rowMap : (d.setBuf p n x).rowMap = d.rowMap := rfl
@[simp] theorem Dev.setBuf_bankUsed : (d.setBuf p n x).bankUsed = d.bankUsed := rfl
@[simp] theorem Dev.setBuf_bankSaid : (d.setBuf p n x).bankSaid = d.bankSaid := rfl
@[simp] theorem Dev.setBuf_narrow : (d.setBuf p n x).narrow = d.narrow := rfl
@[simp] theorem Dev.setBuf_slots : (d.setBuf p n x).slots = d.slots := rfl
@[simp] theorem Dev.setBuf_heat : (d.setBuf p n x).heat = d.heat := rfl
@[simp] theorem Dev.setBuf_sensorSaid : (d.setBuf p n x).sensorSaid = d.sensorSaid := rfl
@[simp] theorem Dev.setBuf_floors : (d.setBuf p n x).floors = d.floors := rfl
@[simp] theorem Dev.setBuf_rgn : (d.setBuf p n x).rgn = d.rgn := rfl
@[simp] theorem Dev.setBuf_allocs : (d.setBuf p n x).allocs = d.allocs := rfl
@[simp] theorem Dev.setBuf_sealedDone : (d.setBuf p n x).sealedDone = d.sealedDone := rfl
@[simp] theorem Dev.setBuf_sealedDue : (d.setBuf p n x).sealedDue = d.sealedDue := rfl
@[simp] theorem Dev.setBuf_lateSaid : (d.setBuf p n x).lateSaid = d.lateSaid := rfl
@[simp] theorem Dev.setBuf_net : (d.setBuf p n x).net = d.net := rfl
@[simp] theorem Dev.setBuf_lyr0 : (d.setBuf p n x).lyr0 = d.lyr0 := rfl
@[simp] theorem Dev.setBuf_lyr1 : (d.setBuf p n x).lyr1 = d.lyr1 := rfl
@[simp] theorem Dev.setBuf_kiln : (d.setBuf p n x).kiln = d.kiln := rfl
@[simp] theorem Dev.setBuf_pmb : (d.setBuf p n x).pmb = d.pmb := rfl
@[simp] theorem Dev.setBuf_sinds : (d.setBuf p n x).sinds = d.sinds := rfl
@[simp] theorem Dev.setBuf_boot : (d.setBuf p n x).boot = d.boot := rfl
@[simp] theorem Dev.setBuf_svc : (d.setBuf p n x).svc = d.svc := rfl

end

section
variable (d : Dev) (p n v : Nat)

@[simp] theorem Dev.setTally_now : (d.setTally p n v).now = d.now := rfl
@[simp] theorem Dev.setTally_fresh : (d.setTally p n v).fresh = d.fresh := rfl
@[simp] theorem Dev.setTally_resp : (d.setTally p n v).resp = d.resp := rfl
@[simp] theorem Dev.setTally_regs : (d.setTally p n v).regs = d.regs := rfl
@[simp] theorem Dev.setTally_shadow : (d.setTally p n v).shadow = d.shadow := rfl
@[simp] theorem Dev.setTally_vfs : (d.setTally p n v).vfs = d.vfs := rfl
@[simp] theorem Dev.setTally_mps : (d.setTally p n v).mps = d.mps := rfl
@[simp] theorem Dev.setTally_mrrs : (d.setTally p n v).mrrs = d.mrrs := rfl
@[simp] theorem Dev.setTally_relaxed : (d.setTally p n v).relaxed = d.relaxed := rfl
@[simp] theorem Dev.setTally_hostRate : (d.setTally p n v).hostRate = d.hostRate := rfl
@[simp] theorem Dev.setTally_hostWidth : (d.setTally p n v).hostWidth = d.hostWidth := rfl
@[simp] theorem Dev.setTally_evq : (d.setTally p n v).evq = d.evq := rfl
@[simp] theorem Dev.setTally_dr : (d.setTally p n v).dr = d.dr := rfl
@[simp] theorem Dev.setTally_sr : (d.setTally p n v).sr = d.sr := rfl
@[simp] theorem Dev.setTally_toHost : (d.setTally p n v).toHost = d.toHost := rfl
@[simp] theorem Dev.setTally_msix : (d.setTally p n v).msix = d.msix := rfl
@[simp] theorem Dev.setTally_toLink : (d.setTally p n v).toLink = d.toLink := rfl
@[simp] theorem Dev.setTally_wakes : (d.setTally p n v).wakes = d.wakes := rfl
@[simp] theorem Dev.setTally_bufs : (d.setTally p n v).bufs = d.bufs := rfl
@[simp] theorem Dev.setTally_client : (d.setTally p n v).client = d.client := rfl
@[simp] theorem Dev.setTally_cmds : (d.setTally p n v).cmds = d.cmds := rfl
@[simp] theorem Dev.setTally_nextCid : (d.setTally p n v).nextCid = d.nextCid := rfl
@[simp] theorem Dev.setTally_grants : (d.setTally p n v).grants = d.grants := rfl
@[simp] theorem Dev.setTally_lastRing : (d.setTally p n v).lastRing = d.lastRing := rfl
@[simp] theorem Dev.setTally_held : (d.setTally p n v).held = d.held := rfl
@[simp] theorem Dev.setTally_chains : (d.setTally p n v).chains = d.chains := rfl
@[simp] theorem Dev.setTally_serve : (d.setTally p n v).serve = d.serve := rfl
@[simp] theorem Dev.setTally_strapId : (d.setTally p n v).strapId = d.strapId := rfl
@[simp] theorem Dev.setTally_strapLead : (d.setTally p n v).strapLead = d.strapLead := rfl
@[simp] theorem Dev.setTally_cores : (d.setTally p n v).cores = d.cores := rfl
@[simp] theorem Dev.setTally_saveImg : (d.setTally p n v).saveImg = d.saveImg := rfl
@[simp] theorem Dev.setTally_poison : (d.setTally p n v).poison = d.poison := rfl
@[simp] theorem Dev.setTally_dir : (d.setTally p n v).dir = d.dir := rfl
@[simp] theorem Dev.setTally_l2 : (d.setTally p n v).l2 = d.l2 := rfl
@[simp] theorem Dev.setTally_stores : (d.setTally p n v).stores = d.stores := rfl
@[simp] theorem Dev.setTally_streams : (d.setTally p n v).streams = d.streams := rfl
@[simp] theorem Dev.setTally_finals : (d.setTally p n v).finals = d.finals := rfl
@[simp] theorem Dev.setTally_finalsQ : (d.setTally p n v).finalsQ = d.finalsQ := rfl
@[simp] theorem Dev.setTally_staged : (d.setTally p n v).staged = d.staged := rfl
@[simp] theorem Dev.setTally_reasons : (d.setTally p n v).reasons = d.reasons := rfl
@[simp] theorem Dev.setTally_testing : (d.setTally p n v).testing = d.testing := rfl
@[simp] theorem Dev.setTally_fwStress : (d.setTally p n v).fwStress = d.fwStress := rfl
@[simp] theorem Dev.setTally_fwSuspect : (d.setTally p n v).fwSuspect = d.fwSuspect := rfl
@[simp] theorem Dev.setTally_swaps : (d.setTally p n v).swaps = d.swaps := rfl
@[simp] theorem Dev.setTally_bgOpen : (d.setTally p n v).bgOpen = d.bgOpen := rfl
@[simp] theorem Dev.setTally_linkRetry : (d.setTally p n v).linkRetry = d.linkRetry := rfl
@[simp] theorem Dev.setTally_suspects : (d.setTally p n v).suspects = d.suspects := rfl
@[simp] theorem Dev.setTally_resetting : (d.setTally p n v).resetting = d.resetting := rfl
@[simp] theorem Dev.setTally_rowCe : (d.setTally p n v).rowCe = d.rowCe := rfl
@[simp] theorem Dev.setTally_rowBusy : (d.setTally p n v).rowBusy = d.rowBusy := rfl
@[simp] theorem Dev.setTally_rowMap : (d.setTally p n v).rowMap = d.rowMap := rfl
@[simp] theorem Dev.setTally_bankUsed : (d.setTally p n v).bankUsed = d.bankUsed := rfl
@[simp] theorem Dev.setTally_bankSaid : (d.setTally p n v).bankSaid = d.bankSaid := rfl
@[simp] theorem Dev.setTally_narrow : (d.setTally p n v).narrow = d.narrow := rfl
@[simp] theorem Dev.setTally_slots : (d.setTally p n v).slots = d.slots := rfl
@[simp] theorem Dev.setTally_heat : (d.setTally p n v).heat = d.heat := rfl
@[simp] theorem Dev.setTally_sensorSaid : (d.setTally p n v).sensorSaid = d.sensorSaid := rfl
@[simp] theorem Dev.setTally_floors : (d.setTally p n v).floors = d.floors := rfl
@[simp] theorem Dev.setTally_rgn : (d.setTally p n v).rgn = d.rgn := rfl
@[simp] theorem Dev.setTally_allocs : (d.setTally p n v).allocs = d.allocs := rfl
@[simp] theorem Dev.setTally_sealedDone : (d.setTally p n v).sealedDone = d.sealedDone := rfl
@[simp] theorem Dev.setTally_sealedDue : (d.setTally p n v).sealedDue = d.sealedDue := rfl
@[simp] theorem Dev.setTally_lateSaid : (d.setTally p n v).lateSaid = d.lateSaid := rfl
@[simp] theorem Dev.setTally_net : (d.setTally p n v).net = d.net := rfl
@[simp] theorem Dev.setTally_lyr0 : (d.setTally p n v).lyr0 = d.lyr0 := rfl
@[simp] theorem Dev.setTally_lyr1 : (d.setTally p n v).lyr1 = d.lyr1 := rfl
@[simp] theorem Dev.setTally_kiln : (d.setTally p n v).kiln = d.kiln := rfl
@[simp] theorem Dev.setTally_pmb : (d.setTally p n v).pmb = d.pmb := rfl
@[simp] theorem Dev.setTally_sinds : (d.setTally p n v).sinds = d.sinds := rfl
@[simp] theorem Dev.setTally_boot : (d.setTally p n v).boot = d.boot := rfl
@[simp] theorem Dev.setTally_svc : (d.setTally p n v).svc = d.svc := rfl

end

section
variable (d : Dev) (p c j : Nat) (w : Word)

@[simp] theorem Dev.setClient_now : (d.setClient p c j w).now = d.now := rfl
@[simp] theorem Dev.setClient_fresh : (d.setClient p c j w).fresh = d.fresh := rfl
@[simp] theorem Dev.setClient_resp : (d.setClient p c j w).resp = d.resp := rfl
@[simp] theorem Dev.setClient_regs : (d.setClient p c j w).regs = d.regs := rfl
@[simp] theorem Dev.setClient_shadow : (d.setClient p c j w).shadow = d.shadow := rfl
@[simp] theorem Dev.setClient_vfs : (d.setClient p c j w).vfs = d.vfs := rfl
@[simp] theorem Dev.setClient_mps : (d.setClient p c j w).mps = d.mps := rfl
@[simp] theorem Dev.setClient_mrrs : (d.setClient p c j w).mrrs = d.mrrs := rfl
@[simp] theorem Dev.setClient_relaxed : (d.setClient p c j w).relaxed = d.relaxed := rfl
@[simp] theorem Dev.setClient_hostRate : (d.setClient p c j w).hostRate = d.hostRate := rfl
@[simp] theorem Dev.setClient_hostWidth : (d.setClient p c j w).hostWidth = d.hostWidth := rfl
@[simp] theorem Dev.setClient_evq : (d.setClient p c j w).evq = d.evq := rfl
@[simp] theorem Dev.setClient_dr : (d.setClient p c j w).dr = d.dr := rfl
@[simp] theorem Dev.setClient_sr : (d.setClient p c j w).sr = d.sr := rfl
@[simp] theorem Dev.setClient_toHost : (d.setClient p c j w).toHost = d.toHost := rfl
@[simp] theorem Dev.setClient_msix : (d.setClient p c j w).msix = d.msix := rfl
@[simp] theorem Dev.setClient_toLink : (d.setClient p c j w).toLink = d.toLink := rfl
@[simp] theorem Dev.setClient_wakes : (d.setClient p c j w).wakes = d.wakes := rfl
@[simp] theorem Dev.setClient_bufs : (d.setClient p c j w).bufs = d.bufs := rfl
@[simp] theorem Dev.setClient_tally : (d.setClient p c j w).tally = d.tally := rfl
@[simp] theorem Dev.setClient_cmds : (d.setClient p c j w).cmds = d.cmds := rfl
@[simp] theorem Dev.setClient_nextCid : (d.setClient p c j w).nextCid = d.nextCid := rfl
@[simp] theorem Dev.setClient_grants : (d.setClient p c j w).grants = d.grants := rfl
@[simp] theorem Dev.setClient_lastRing : (d.setClient p c j w).lastRing = d.lastRing := rfl
@[simp] theorem Dev.setClient_held : (d.setClient p c j w).held = d.held := rfl
@[simp] theorem Dev.setClient_chains : (d.setClient p c j w).chains = d.chains := rfl
@[simp] theorem Dev.setClient_serve : (d.setClient p c j w).serve = d.serve := rfl
@[simp] theorem Dev.setClient_strapId : (d.setClient p c j w).strapId = d.strapId := rfl
@[simp] theorem Dev.setClient_strapLead : (d.setClient p c j w).strapLead = d.strapLead := rfl
@[simp] theorem Dev.setClient_cores : (d.setClient p c j w).cores = d.cores := rfl
@[simp] theorem Dev.setClient_saveImg : (d.setClient p c j w).saveImg = d.saveImg := rfl
@[simp] theorem Dev.setClient_poison : (d.setClient p c j w).poison = d.poison := rfl
@[simp] theorem Dev.setClient_dir : (d.setClient p c j w).dir = d.dir := rfl
@[simp] theorem Dev.setClient_l2 : (d.setClient p c j w).l2 = d.l2 := rfl
@[simp] theorem Dev.setClient_stores : (d.setClient p c j w).stores = d.stores := rfl
@[simp] theorem Dev.setClient_streams : (d.setClient p c j w).streams = d.streams := rfl
@[simp] theorem Dev.setClient_finals : (d.setClient p c j w).finals = d.finals := rfl
@[simp] theorem Dev.setClient_finalsQ : (d.setClient p c j w).finalsQ = d.finalsQ := rfl
@[simp] theorem Dev.setClient_staged : (d.setClient p c j w).staged = d.staged := rfl
@[simp] theorem Dev.setClient_reasons : (d.setClient p c j w).reasons = d.reasons := rfl
@[simp] theorem Dev.setClient_testing : (d.setClient p c j w).testing = d.testing := rfl
@[simp] theorem Dev.setClient_fwStress : (d.setClient p c j w).fwStress = d.fwStress := rfl
@[simp] theorem Dev.setClient_fwSuspect : (d.setClient p c j w).fwSuspect = d.fwSuspect := rfl
@[simp] theorem Dev.setClient_swaps : (d.setClient p c j w).swaps = d.swaps := rfl
@[simp] theorem Dev.setClient_bgOpen : (d.setClient p c j w).bgOpen = d.bgOpen := rfl
@[simp] theorem Dev.setClient_linkRetry : (d.setClient p c j w).linkRetry = d.linkRetry := rfl
@[simp] theorem Dev.setClient_suspects : (d.setClient p c j w).suspects = d.suspects := rfl
@[simp] theorem Dev.setClient_resetting : (d.setClient p c j w).resetting = d.resetting := rfl
@[simp] theorem Dev.setClient_rowCe : (d.setClient p c j w).rowCe = d.rowCe := rfl
@[simp] theorem Dev.setClient_rowBusy : (d.setClient p c j w).rowBusy = d.rowBusy := rfl
@[simp] theorem Dev.setClient_rowMap : (d.setClient p c j w).rowMap = d.rowMap := rfl
@[simp] theorem Dev.setClient_bankUsed : (d.setClient p c j w).bankUsed = d.bankUsed := rfl
@[simp] theorem Dev.setClient_bankSaid : (d.setClient p c j w).bankSaid = d.bankSaid := rfl
@[simp] theorem Dev.setClient_narrow : (d.setClient p c j w).narrow = d.narrow := rfl
@[simp] theorem Dev.setClient_slots : (d.setClient p c j w).slots = d.slots := rfl
@[simp] theorem Dev.setClient_heat : (d.setClient p c j w).heat = d.heat := rfl
@[simp] theorem Dev.setClient_sensorSaid : (d.setClient p c j w).sensorSaid = d.sensorSaid := rfl
@[simp] theorem Dev.setClient_floors : (d.setClient p c j w).floors = d.floors := rfl
@[simp] theorem Dev.setClient_rgn : (d.setClient p c j w).rgn = d.rgn := rfl
@[simp] theorem Dev.setClient_allocs : (d.setClient p c j w).allocs = d.allocs := rfl
@[simp] theorem Dev.setClient_sealedDone : (d.setClient p c j w).sealedDone = d.sealedDone := rfl
@[simp] theorem Dev.setClient_sealedDue : (d.setClient p c j w).sealedDue = d.sealedDue := rfl
@[simp] theorem Dev.setClient_lateSaid : (d.setClient p c j w).lateSaid = d.lateSaid := rfl
@[simp] theorem Dev.setClient_net : (d.setClient p c j w).net = d.net := rfl
@[simp] theorem Dev.setClient_lyr0 : (d.setClient p c j w).lyr0 = d.lyr0 := rfl
@[simp] theorem Dev.setClient_lyr1 : (d.setClient p c j w).lyr1 = d.lyr1 := rfl
@[simp] theorem Dev.setClient_kiln : (d.setClient p c j w).kiln = d.kiln := rfl
@[simp] theorem Dev.setClient_pmb : (d.setClient p c j w).pmb = d.pmb := rfl
@[simp] theorem Dev.setClient_sinds : (d.setClient p c j w).sinds = d.sinds := rfl
@[simp] theorem Dev.setClient_boot : (d.setClient p c j w).boot = d.boot := rfl
@[simp] theorem Dev.setClient_svc : (d.setClient p c j w).svc = d.svc := rfl

end

section
variable (d : Dev) (x : Cmd)

@[simp] theorem Dev.setCmd_now : (d.setCmd x).now = d.now := rfl
@[simp] theorem Dev.setCmd_fresh : (d.setCmd x).fresh = d.fresh := rfl
@[simp] theorem Dev.setCmd_resp : (d.setCmd x).resp = d.resp := rfl
@[simp] theorem Dev.setCmd_regs : (d.setCmd x).regs = d.regs := rfl
@[simp] theorem Dev.setCmd_shadow : (d.setCmd x).shadow = d.shadow := rfl
@[simp] theorem Dev.setCmd_vfs : (d.setCmd x).vfs = d.vfs := rfl
@[simp] theorem Dev.setCmd_mps : (d.setCmd x).mps = d.mps := rfl
@[simp] theorem Dev.setCmd_mrrs : (d.setCmd x).mrrs = d.mrrs := rfl
@[simp] theorem Dev.setCmd_relaxed : (d.setCmd x).relaxed = d.relaxed := rfl
@[simp] theorem Dev.setCmd_hostRate : (d.setCmd x).hostRate = d.hostRate := rfl
@[simp] theorem Dev.setCmd_hostWidth : (d.setCmd x).hostWidth = d.hostWidth := rfl
@[simp] theorem Dev.setCmd_evq : (d.setCmd x).evq = d.evq := rfl
@[simp] theorem Dev.setCmd_dr : (d.setCmd x).dr = d.dr := rfl
@[simp] theorem Dev.setCmd_sr : (d.setCmd x).sr = d.sr := rfl
@[simp] theorem Dev.setCmd_toHost : (d.setCmd x).toHost = d.toHost := rfl
@[simp] theorem Dev.setCmd_msix : (d.setCmd x).msix = d.msix := rfl
@[simp] theorem Dev.setCmd_toLink : (d.setCmd x).toLink = d.toLink := rfl
@[simp] theorem Dev.setCmd_wakes : (d.setCmd x).wakes = d.wakes := rfl
@[simp] theorem Dev.setCmd_bufs : (d.setCmd x).bufs = d.bufs := rfl
@[simp] theorem Dev.setCmd_tally : (d.setCmd x).tally = d.tally := rfl
@[simp] theorem Dev.setCmd_client : (d.setCmd x).client = d.client := rfl
@[simp] theorem Dev.setCmd_nextCid : (d.setCmd x).nextCid = d.nextCid := rfl
@[simp] theorem Dev.setCmd_grants : (d.setCmd x).grants = d.grants := rfl
@[simp] theorem Dev.setCmd_lastRing : (d.setCmd x).lastRing = d.lastRing := rfl
@[simp] theorem Dev.setCmd_held : (d.setCmd x).held = d.held := rfl
@[simp] theorem Dev.setCmd_chains : (d.setCmd x).chains = d.chains := rfl
@[simp] theorem Dev.setCmd_serve : (d.setCmd x).serve = d.serve := rfl
@[simp] theorem Dev.setCmd_strapId : (d.setCmd x).strapId = d.strapId := rfl
@[simp] theorem Dev.setCmd_strapLead : (d.setCmd x).strapLead = d.strapLead := rfl
@[simp] theorem Dev.setCmd_cores : (d.setCmd x).cores = d.cores := rfl
@[simp] theorem Dev.setCmd_saveImg : (d.setCmd x).saveImg = d.saveImg := rfl
@[simp] theorem Dev.setCmd_poison : (d.setCmd x).poison = d.poison := rfl
@[simp] theorem Dev.setCmd_dir : (d.setCmd x).dir = d.dir := rfl
@[simp] theorem Dev.setCmd_l2 : (d.setCmd x).l2 = d.l2 := rfl
@[simp] theorem Dev.setCmd_stores : (d.setCmd x).stores = d.stores := rfl
@[simp] theorem Dev.setCmd_streams : (d.setCmd x).streams = d.streams := rfl
@[simp] theorem Dev.setCmd_finals : (d.setCmd x).finals = d.finals := rfl
@[simp] theorem Dev.setCmd_finalsQ : (d.setCmd x).finalsQ = d.finalsQ := rfl
@[simp] theorem Dev.setCmd_staged : (d.setCmd x).staged = d.staged := rfl
@[simp] theorem Dev.setCmd_reasons : (d.setCmd x).reasons = d.reasons := rfl
@[simp] theorem Dev.setCmd_testing : (d.setCmd x).testing = d.testing := rfl
@[simp] theorem Dev.setCmd_fwStress : (d.setCmd x).fwStress = d.fwStress := rfl
@[simp] theorem Dev.setCmd_fwSuspect : (d.setCmd x).fwSuspect = d.fwSuspect := rfl
@[simp] theorem Dev.setCmd_swaps : (d.setCmd x).swaps = d.swaps := rfl
@[simp] theorem Dev.setCmd_bgOpen : (d.setCmd x).bgOpen = d.bgOpen := rfl
@[simp] theorem Dev.setCmd_linkRetry : (d.setCmd x).linkRetry = d.linkRetry := rfl
@[simp] theorem Dev.setCmd_suspects : (d.setCmd x).suspects = d.suspects := rfl
@[simp] theorem Dev.setCmd_resetting : (d.setCmd x).resetting = d.resetting := rfl
@[simp] theorem Dev.setCmd_rowCe : (d.setCmd x).rowCe = d.rowCe := rfl
@[simp] theorem Dev.setCmd_rowBusy : (d.setCmd x).rowBusy = d.rowBusy := rfl
@[simp] theorem Dev.setCmd_rowMap : (d.setCmd x).rowMap = d.rowMap := rfl
@[simp] theorem Dev.setCmd_bankUsed : (d.setCmd x).bankUsed = d.bankUsed := rfl
@[simp] theorem Dev.setCmd_bankSaid : (d.setCmd x).bankSaid = d.bankSaid := rfl
@[simp] theorem Dev.setCmd_narrow : (d.setCmd x).narrow = d.narrow := rfl
@[simp] theorem Dev.setCmd_slots : (d.setCmd x).slots = d.slots := rfl
@[simp] theorem Dev.setCmd_heat : (d.setCmd x).heat = d.heat := rfl
@[simp] theorem Dev.setCmd_sensorSaid : (d.setCmd x).sensorSaid = d.sensorSaid := rfl
@[simp] theorem Dev.setCmd_floors : (d.setCmd x).floors = d.floors := rfl
@[simp] theorem Dev.setCmd_rgn : (d.setCmd x).rgn = d.rgn := rfl
@[simp] theorem Dev.setCmd_allocs : (d.setCmd x).allocs = d.allocs := rfl
@[simp] theorem Dev.setCmd_sealedDone : (d.setCmd x).sealedDone = d.sealedDone := rfl
@[simp] theorem Dev.setCmd_sealedDue : (d.setCmd x).sealedDue = d.sealedDue := rfl
@[simp] theorem Dev.setCmd_lateSaid : (d.setCmd x).lateSaid = d.lateSaid := rfl
@[simp] theorem Dev.setCmd_net : (d.setCmd x).net = d.net := rfl
@[simp] theorem Dev.setCmd_lyr0 : (d.setCmd x).lyr0 = d.lyr0 := rfl
@[simp] theorem Dev.setCmd_lyr1 : (d.setCmd x).lyr1 = d.lyr1 := rfl
@[simp] theorem Dev.setCmd_kiln : (d.setCmd x).kiln = d.kiln := rfl
@[simp] theorem Dev.setCmd_pmb : (d.setCmd x).pmb = d.pmb := rfl
@[simp] theorem Dev.setCmd_sinds : (d.setCmd x).sinds = d.sinds := rfl
@[simp] theorem Dev.setCmd_boot : (d.setCmd x).boot = d.boot := rfl
@[simp] theorem Dev.setCmd_svc : (d.setCmd x).svc = d.svc := rfl

end

section
variable (d : Dev) (n : Nat) (f : Cmd → Cmd)

@[simp] theorem Dev.onCmd_now : (d.onCmd n f).now = d.now := rfl
@[simp] theorem Dev.onCmd_fresh : (d.onCmd n f).fresh = d.fresh := rfl
@[simp] theorem Dev.onCmd_resp : (d.onCmd n f).resp = d.resp := rfl
@[simp] theorem Dev.onCmd_regs : (d.onCmd n f).regs = d.regs := rfl
@[simp] theorem Dev.onCmd_shadow : (d.onCmd n f).shadow = d.shadow := rfl
@[simp] theorem Dev.onCmd_vfs : (d.onCmd n f).vfs = d.vfs := rfl
@[simp] theorem Dev.onCmd_mps : (d.onCmd n f).mps = d.mps := rfl
@[simp] theorem Dev.onCmd_mrrs : (d.onCmd n f).mrrs = d.mrrs := rfl
@[simp] theorem Dev.onCmd_relaxed : (d.onCmd n f).relaxed = d.relaxed := rfl
@[simp] theorem Dev.onCmd_hostRate : (d.onCmd n f).hostRate = d.hostRate := rfl
@[simp] theorem Dev.onCmd_hostWidth : (d.onCmd n f).hostWidth = d.hostWidth := rfl
@[simp] theorem Dev.onCmd_evq : (d.onCmd n f).evq = d.evq := rfl
@[simp] theorem Dev.onCmd_dr : (d.onCmd n f).dr = d.dr := rfl
@[simp] theorem Dev.onCmd_sr : (d.onCmd n f).sr = d.sr := rfl
@[simp] theorem Dev.onCmd_toHost : (d.onCmd n f).toHost = d.toHost := rfl
@[simp] theorem Dev.onCmd_msix : (d.onCmd n f).msix = d.msix := rfl
@[simp] theorem Dev.onCmd_toLink : (d.onCmd n f).toLink = d.toLink := rfl
@[simp] theorem Dev.onCmd_wakes : (d.onCmd n f).wakes = d.wakes := rfl
@[simp] theorem Dev.onCmd_bufs : (d.onCmd n f).bufs = d.bufs := rfl
@[simp] theorem Dev.onCmd_tally : (d.onCmd n f).tally = d.tally := rfl
@[simp] theorem Dev.onCmd_client : (d.onCmd n f).client = d.client := rfl
@[simp] theorem Dev.onCmd_nextCid : (d.onCmd n f).nextCid = d.nextCid := rfl
@[simp] theorem Dev.onCmd_grants : (d.onCmd n f).grants = d.grants := rfl
@[simp] theorem Dev.onCmd_lastRing : (d.onCmd n f).lastRing = d.lastRing := rfl
@[simp] theorem Dev.onCmd_held : (d.onCmd n f).held = d.held := rfl
@[simp] theorem Dev.onCmd_chains : (d.onCmd n f).chains = d.chains := rfl
@[simp] theorem Dev.onCmd_serve : (d.onCmd n f).serve = d.serve := rfl
@[simp] theorem Dev.onCmd_strapId : (d.onCmd n f).strapId = d.strapId := rfl
@[simp] theorem Dev.onCmd_strapLead : (d.onCmd n f).strapLead = d.strapLead := rfl
@[simp] theorem Dev.onCmd_cores : (d.onCmd n f).cores = d.cores := rfl
@[simp] theorem Dev.onCmd_saveImg : (d.onCmd n f).saveImg = d.saveImg := rfl
@[simp] theorem Dev.onCmd_poison : (d.onCmd n f).poison = d.poison := rfl
@[simp] theorem Dev.onCmd_dir : (d.onCmd n f).dir = d.dir := rfl
@[simp] theorem Dev.onCmd_l2 : (d.onCmd n f).l2 = d.l2 := rfl
@[simp] theorem Dev.onCmd_stores : (d.onCmd n f).stores = d.stores := rfl
@[simp] theorem Dev.onCmd_streams : (d.onCmd n f).streams = d.streams := rfl
@[simp] theorem Dev.onCmd_finals : (d.onCmd n f).finals = d.finals := rfl
@[simp] theorem Dev.onCmd_finalsQ : (d.onCmd n f).finalsQ = d.finalsQ := rfl
@[simp] theorem Dev.onCmd_staged : (d.onCmd n f).staged = d.staged := rfl
@[simp] theorem Dev.onCmd_reasons : (d.onCmd n f).reasons = d.reasons := rfl
@[simp] theorem Dev.onCmd_testing : (d.onCmd n f).testing = d.testing := rfl
@[simp] theorem Dev.onCmd_fwStress : (d.onCmd n f).fwStress = d.fwStress := rfl
@[simp] theorem Dev.onCmd_fwSuspect : (d.onCmd n f).fwSuspect = d.fwSuspect := rfl
@[simp] theorem Dev.onCmd_swaps : (d.onCmd n f).swaps = d.swaps := rfl
@[simp] theorem Dev.onCmd_bgOpen : (d.onCmd n f).bgOpen = d.bgOpen := rfl
@[simp] theorem Dev.onCmd_linkRetry : (d.onCmd n f).linkRetry = d.linkRetry := rfl
@[simp] theorem Dev.onCmd_suspects : (d.onCmd n f).suspects = d.suspects := rfl
@[simp] theorem Dev.onCmd_resetting : (d.onCmd n f).resetting = d.resetting := rfl
@[simp] theorem Dev.onCmd_rowCe : (d.onCmd n f).rowCe = d.rowCe := rfl
@[simp] theorem Dev.onCmd_rowBusy : (d.onCmd n f).rowBusy = d.rowBusy := rfl
@[simp] theorem Dev.onCmd_rowMap : (d.onCmd n f).rowMap = d.rowMap := rfl
@[simp] theorem Dev.onCmd_bankUsed : (d.onCmd n f).bankUsed = d.bankUsed := rfl
@[simp] theorem Dev.onCmd_bankSaid : (d.onCmd n f).bankSaid = d.bankSaid := rfl
@[simp] theorem Dev.onCmd_narrow : (d.onCmd n f).narrow = d.narrow := rfl
@[simp] theorem Dev.onCmd_slots : (d.onCmd n f).slots = d.slots := rfl
@[simp] theorem Dev.onCmd_heat : (d.onCmd n f).heat = d.heat := rfl
@[simp] theorem Dev.onCmd_sensorSaid : (d.onCmd n f).sensorSaid = d.sensorSaid := rfl
@[simp] theorem Dev.onCmd_floors : (d.onCmd n f).floors = d.floors := rfl
@[simp] theorem Dev.onCmd_rgn : (d.onCmd n f).rgn = d.rgn := rfl
@[simp] theorem Dev.onCmd_allocs : (d.onCmd n f).allocs = d.allocs := rfl
@[simp] theorem Dev.onCmd_sealedDone : (d.onCmd n f).sealedDone = d.sealedDone := rfl
@[simp] theorem Dev.onCmd_sealedDue : (d.onCmd n f).sealedDue = d.sealedDue := rfl
@[simp] theorem Dev.onCmd_lateSaid : (d.onCmd n f).lateSaid = d.lateSaid := rfl
@[simp] theorem Dev.onCmd_net : (d.onCmd n f).net = d.net := rfl
@[simp] theorem Dev.onCmd_lyr0 : (d.onCmd n f).lyr0 = d.lyr0 := rfl
@[simp] theorem Dev.onCmd_lyr1 : (d.onCmd n f).lyr1 = d.lyr1 := rfl
@[simp] theorem Dev.onCmd_kiln : (d.onCmd n f).kiln = d.kiln := rfl
@[simp] theorem Dev.onCmd_pmb : (d.onCmd n f).pmb = d.pmb := rfl
@[simp] theorem Dev.onCmd_sinds : (d.onCmd n f).sinds = d.sinds := rfl
@[simp] theorem Dev.onCmd_boot : (d.onCmd n f).boot = d.boot := rfl
@[simp] theorem Dev.onCmd_svc : (d.onCmd n f).svc = d.svc := rfl

end

section
variable (d : Dev) (p : Nat) (x : Chain)

@[simp] theorem Dev.setChain_now : (d.setChain p x).now = d.now := rfl
@[simp] theorem Dev.setChain_fresh : (d.setChain p x).fresh = d.fresh := rfl
@[simp] theorem Dev.setChain_resp : (d.setChain p x).resp = d.resp := rfl
@[simp] theorem Dev.setChain_regs : (d.setChain p x).regs = d.regs := rfl
@[simp] theorem Dev.setChain_shadow : (d.setChain p x).shadow = d.shadow := rfl
@[simp] theorem Dev.setChain_vfs : (d.setChain p x).vfs = d.vfs := rfl
@[simp] theorem Dev.setChain_mps : (d.setChain p x).mps = d.mps := rfl
@[simp] theorem Dev.setChain_mrrs : (d.setChain p x).mrrs = d.mrrs := rfl
@[simp] theorem Dev.setChain_relaxed : (d.setChain p x).relaxed = d.relaxed := rfl
@[simp] theorem Dev.setChain_hostRate : (d.setChain p x).hostRate = d.hostRate := rfl
@[simp] theorem Dev.setChain_hostWidth : (d.setChain p x).hostWidth = d.hostWidth := rfl
@[simp] theorem Dev.setChain_evq : (d.setChain p x).evq = d.evq := rfl
@[simp] theorem Dev.setChain_dr : (d.setChain p x).dr = d.dr := rfl
@[simp] theorem Dev.setChain_sr : (d.setChain p x).sr = d.sr := rfl
@[simp] theorem Dev.setChain_toHost : (d.setChain p x).toHost = d.toHost := rfl
@[simp] theorem Dev.setChain_msix : (d.setChain p x).msix = d.msix := rfl
@[simp] theorem Dev.setChain_toLink : (d.setChain p x).toLink = d.toLink := rfl
@[simp] theorem Dev.setChain_wakes : (d.setChain p x).wakes = d.wakes := rfl
@[simp] theorem Dev.setChain_bufs : (d.setChain p x).bufs = d.bufs := rfl
@[simp] theorem Dev.setChain_tally : (d.setChain p x).tally = d.tally := rfl
@[simp] theorem Dev.setChain_client : (d.setChain p x).client = d.client := rfl
@[simp] theorem Dev.setChain_cmds : (d.setChain p x).cmds = d.cmds := rfl
@[simp] theorem Dev.setChain_nextCid : (d.setChain p x).nextCid = d.nextCid := rfl
@[simp] theorem Dev.setChain_grants : (d.setChain p x).grants = d.grants := rfl
@[simp] theorem Dev.setChain_lastRing : (d.setChain p x).lastRing = d.lastRing := rfl
@[simp] theorem Dev.setChain_held : (d.setChain p x).held = d.held := rfl
@[simp] theorem Dev.setChain_serve : (d.setChain p x).serve = d.serve := rfl
@[simp] theorem Dev.setChain_strapId : (d.setChain p x).strapId = d.strapId := rfl
@[simp] theorem Dev.setChain_strapLead : (d.setChain p x).strapLead = d.strapLead := rfl
@[simp] theorem Dev.setChain_cores : (d.setChain p x).cores = d.cores := rfl
@[simp] theorem Dev.setChain_saveImg : (d.setChain p x).saveImg = d.saveImg := rfl
@[simp] theorem Dev.setChain_poison : (d.setChain p x).poison = d.poison := rfl
@[simp] theorem Dev.setChain_dir : (d.setChain p x).dir = d.dir := rfl
@[simp] theorem Dev.setChain_l2 : (d.setChain p x).l2 = d.l2 := rfl
@[simp] theorem Dev.setChain_stores : (d.setChain p x).stores = d.stores := rfl
@[simp] theorem Dev.setChain_streams : (d.setChain p x).streams = d.streams := rfl
@[simp] theorem Dev.setChain_finals : (d.setChain p x).finals = d.finals := rfl
@[simp] theorem Dev.setChain_finalsQ : (d.setChain p x).finalsQ = d.finalsQ := rfl
@[simp] theorem Dev.setChain_staged : (d.setChain p x).staged = d.staged := rfl
@[simp] theorem Dev.setChain_reasons : (d.setChain p x).reasons = d.reasons := rfl
@[simp] theorem Dev.setChain_testing : (d.setChain p x).testing = d.testing := rfl
@[simp] theorem Dev.setChain_fwStress : (d.setChain p x).fwStress = d.fwStress := rfl
@[simp] theorem Dev.setChain_fwSuspect : (d.setChain p x).fwSuspect = d.fwSuspect := rfl
@[simp] theorem Dev.setChain_swaps : (d.setChain p x).swaps = d.swaps := rfl
@[simp] theorem Dev.setChain_bgOpen : (d.setChain p x).bgOpen = d.bgOpen := rfl
@[simp] theorem Dev.setChain_linkRetry : (d.setChain p x).linkRetry = d.linkRetry := rfl
@[simp] theorem Dev.setChain_suspects : (d.setChain p x).suspects = d.suspects := rfl
@[simp] theorem Dev.setChain_resetting : (d.setChain p x).resetting = d.resetting := rfl
@[simp] theorem Dev.setChain_rowCe : (d.setChain p x).rowCe = d.rowCe := rfl
@[simp] theorem Dev.setChain_rowBusy : (d.setChain p x).rowBusy = d.rowBusy := rfl
@[simp] theorem Dev.setChain_rowMap : (d.setChain p x).rowMap = d.rowMap := rfl
@[simp] theorem Dev.setChain_bankUsed : (d.setChain p x).bankUsed = d.bankUsed := rfl
@[simp] theorem Dev.setChain_bankSaid : (d.setChain p x).bankSaid = d.bankSaid := rfl
@[simp] theorem Dev.setChain_narrow : (d.setChain p x).narrow = d.narrow := rfl
@[simp] theorem Dev.setChain_slots : (d.setChain p x).slots = d.slots := rfl
@[simp] theorem Dev.setChain_heat : (d.setChain p x).heat = d.heat := rfl
@[simp] theorem Dev.setChain_sensorSaid : (d.setChain p x).sensorSaid = d.sensorSaid := rfl
@[simp] theorem Dev.setChain_floors : (d.setChain p x).floors = d.floors := rfl
@[simp] theorem Dev.setChain_rgn : (d.setChain p x).rgn = d.rgn := rfl
@[simp] theorem Dev.setChain_allocs : (d.setChain p x).allocs = d.allocs := rfl
@[simp] theorem Dev.setChain_sealedDone : (d.setChain p x).sealedDone = d.sealedDone := rfl
@[simp] theorem Dev.setChain_sealedDue : (d.setChain p x).sealedDue = d.sealedDue := rfl
@[simp] theorem Dev.setChain_lateSaid : (d.setChain p x).lateSaid = d.lateSaid := rfl
@[simp] theorem Dev.setChain_net : (d.setChain p x).net = d.net := rfl
@[simp] theorem Dev.setChain_lyr0 : (d.setChain p x).lyr0 = d.lyr0 := rfl
@[simp] theorem Dev.setChain_lyr1 : (d.setChain p x).lyr1 = d.lyr1 := rfl
@[simp] theorem Dev.setChain_kiln : (d.setChain p x).kiln = d.kiln := rfl
@[simp] theorem Dev.setChain_pmb : (d.setChain p x).pmb = d.pmb := rfl
@[simp] theorem Dev.setChain_sinds : (d.setChain p x).sinds = d.sinds := rfl
@[simp] theorem Dev.setChain_boot : (d.setChain p x).boot = d.boot := rfl
@[simp] theorem Dev.setChain_svc : (d.setChain p x).svc = d.svc := rfl

end

section
variable (d : Dev) (p : Nat) (x : Serve)

@[simp] theorem Dev.setSrv_now : (d.setSrv p x).now = d.now := rfl
@[simp] theorem Dev.setSrv_fresh : (d.setSrv p x).fresh = d.fresh := rfl
@[simp] theorem Dev.setSrv_resp : (d.setSrv p x).resp = d.resp := rfl
@[simp] theorem Dev.setSrv_regs : (d.setSrv p x).regs = d.regs := rfl
@[simp] theorem Dev.setSrv_shadow : (d.setSrv p x).shadow = d.shadow := rfl
@[simp] theorem Dev.setSrv_vfs : (d.setSrv p x).vfs = d.vfs := rfl
@[simp] theorem Dev.setSrv_mps : (d.setSrv p x).mps = d.mps := rfl
@[simp] theorem Dev.setSrv_mrrs : (d.setSrv p x).mrrs = d.mrrs := rfl
@[simp] theorem Dev.setSrv_relaxed : (d.setSrv p x).relaxed = d.relaxed := rfl
@[simp] theorem Dev.setSrv_hostRate : (d.setSrv p x).hostRate = d.hostRate := rfl
@[simp] theorem Dev.setSrv_hostWidth : (d.setSrv p x).hostWidth = d.hostWidth := rfl
@[simp] theorem Dev.setSrv_evq : (d.setSrv p x).evq = d.evq := rfl
@[simp] theorem Dev.setSrv_dr : (d.setSrv p x).dr = d.dr := rfl
@[simp] theorem Dev.setSrv_sr : (d.setSrv p x).sr = d.sr := rfl
@[simp] theorem Dev.setSrv_toHost : (d.setSrv p x).toHost = d.toHost := rfl
@[simp] theorem Dev.setSrv_msix : (d.setSrv p x).msix = d.msix := rfl
@[simp] theorem Dev.setSrv_toLink : (d.setSrv p x).toLink = d.toLink := rfl
@[simp] theorem Dev.setSrv_wakes : (d.setSrv p x).wakes = d.wakes := rfl
@[simp] theorem Dev.setSrv_bufs : (d.setSrv p x).bufs = d.bufs := rfl
@[simp] theorem Dev.setSrv_tally : (d.setSrv p x).tally = d.tally := rfl
@[simp] theorem Dev.setSrv_client : (d.setSrv p x).client = d.client := rfl
@[simp] theorem Dev.setSrv_cmds : (d.setSrv p x).cmds = d.cmds := rfl
@[simp] theorem Dev.setSrv_nextCid : (d.setSrv p x).nextCid = d.nextCid := rfl
@[simp] theorem Dev.setSrv_grants : (d.setSrv p x).grants = d.grants := rfl
@[simp] theorem Dev.setSrv_lastRing : (d.setSrv p x).lastRing = d.lastRing := rfl
@[simp] theorem Dev.setSrv_held : (d.setSrv p x).held = d.held := rfl
@[simp] theorem Dev.setSrv_chains : (d.setSrv p x).chains = d.chains := rfl
@[simp] theorem Dev.setSrv_strapId : (d.setSrv p x).strapId = d.strapId := rfl
@[simp] theorem Dev.setSrv_strapLead : (d.setSrv p x).strapLead = d.strapLead := rfl
@[simp] theorem Dev.setSrv_cores : (d.setSrv p x).cores = d.cores := rfl
@[simp] theorem Dev.setSrv_saveImg : (d.setSrv p x).saveImg = d.saveImg := rfl
@[simp] theorem Dev.setSrv_poison : (d.setSrv p x).poison = d.poison := rfl
@[simp] theorem Dev.setSrv_dir : (d.setSrv p x).dir = d.dir := rfl
@[simp] theorem Dev.setSrv_l2 : (d.setSrv p x).l2 = d.l2 := rfl
@[simp] theorem Dev.setSrv_stores : (d.setSrv p x).stores = d.stores := rfl
@[simp] theorem Dev.setSrv_streams : (d.setSrv p x).streams = d.streams := rfl
@[simp] theorem Dev.setSrv_finals : (d.setSrv p x).finals = d.finals := rfl
@[simp] theorem Dev.setSrv_finalsQ : (d.setSrv p x).finalsQ = d.finalsQ := rfl
@[simp] theorem Dev.setSrv_staged : (d.setSrv p x).staged = d.staged := rfl
@[simp] theorem Dev.setSrv_reasons : (d.setSrv p x).reasons = d.reasons := rfl
@[simp] theorem Dev.setSrv_testing : (d.setSrv p x).testing = d.testing := rfl
@[simp] theorem Dev.setSrv_fwStress : (d.setSrv p x).fwStress = d.fwStress := rfl
@[simp] theorem Dev.setSrv_fwSuspect : (d.setSrv p x).fwSuspect = d.fwSuspect := rfl
@[simp] theorem Dev.setSrv_swaps : (d.setSrv p x).swaps = d.swaps := rfl
@[simp] theorem Dev.setSrv_bgOpen : (d.setSrv p x).bgOpen = d.bgOpen := rfl
@[simp] theorem Dev.setSrv_linkRetry : (d.setSrv p x).linkRetry = d.linkRetry := rfl
@[simp] theorem Dev.setSrv_suspects : (d.setSrv p x).suspects = d.suspects := rfl
@[simp] theorem Dev.setSrv_resetting : (d.setSrv p x).resetting = d.resetting := rfl
@[simp] theorem Dev.setSrv_rowCe : (d.setSrv p x).rowCe = d.rowCe := rfl
@[simp] theorem Dev.setSrv_rowBusy : (d.setSrv p x).rowBusy = d.rowBusy := rfl
@[simp] theorem Dev.setSrv_rowMap : (d.setSrv p x).rowMap = d.rowMap := rfl
@[simp] theorem Dev.setSrv_bankUsed : (d.setSrv p x).bankUsed = d.bankUsed := rfl
@[simp] theorem Dev.setSrv_bankSaid : (d.setSrv p x).bankSaid = d.bankSaid := rfl
@[simp] theorem Dev.setSrv_narrow : (d.setSrv p x).narrow = d.narrow := rfl
@[simp] theorem Dev.setSrv_slots : (d.setSrv p x).slots = d.slots := rfl
@[simp] theorem Dev.setSrv_heat : (d.setSrv p x).heat = d.heat := rfl
@[simp] theorem Dev.setSrv_sensorSaid : (d.setSrv p x).sensorSaid = d.sensorSaid := rfl
@[simp] theorem Dev.setSrv_floors : (d.setSrv p x).floors = d.floors := rfl
@[simp] theorem Dev.setSrv_rgn : (d.setSrv p x).rgn = d.rgn := rfl
@[simp] theorem Dev.setSrv_allocs : (d.setSrv p x).allocs = d.allocs := rfl
@[simp] theorem Dev.setSrv_sealedDone : (d.setSrv p x).sealedDone = d.sealedDone := rfl
@[simp] theorem Dev.setSrv_sealedDue : (d.setSrv p x).sealedDue = d.sealedDue := rfl
@[simp] theorem Dev.setSrv_lateSaid : (d.setSrv p x).lateSaid = d.lateSaid := rfl
@[simp] theorem Dev.setSrv_net : (d.setSrv p x).net = d.net := rfl
@[simp] theorem Dev.setSrv_lyr0 : (d.setSrv p x).lyr0 = d.lyr0 := rfl
@[simp] theorem Dev.setSrv_lyr1 : (d.setSrv p x).lyr1 = d.lyr1 := rfl
@[simp] theorem Dev.setSrv_kiln : (d.setSrv p x).kiln = d.kiln := rfl
@[simp] theorem Dev.setSrv_pmb : (d.setSrv p x).pmb = d.pmb := rfl
@[simp] theorem Dev.setSrv_sinds : (d.setSrv p x).sinds = d.sinds := rfl
@[simp] theorem Dev.setSrv_boot : (d.setSrv p x).boot = d.boot := rfl
@[simp] theorem Dev.setSrv_svc : (d.setSrv p x).svc = d.svc := rfl

end

section
variable (d : Dev) (n : Nat) (x : Core)

@[simp] theorem Dev.setCore_now : (d.setCore n x).now = d.now := rfl
@[simp] theorem Dev.setCore_fresh : (d.setCore n x).fresh = d.fresh := rfl
@[simp] theorem Dev.setCore_resp : (d.setCore n x).resp = d.resp := rfl
@[simp] theorem Dev.setCore_regs : (d.setCore n x).regs = d.regs := rfl
@[simp] theorem Dev.setCore_shadow : (d.setCore n x).shadow = d.shadow := rfl
@[simp] theorem Dev.setCore_vfs : (d.setCore n x).vfs = d.vfs := rfl
@[simp] theorem Dev.setCore_mps : (d.setCore n x).mps = d.mps := rfl
@[simp] theorem Dev.setCore_mrrs : (d.setCore n x).mrrs = d.mrrs := rfl
@[simp] theorem Dev.setCore_relaxed : (d.setCore n x).relaxed = d.relaxed := rfl
@[simp] theorem Dev.setCore_hostRate : (d.setCore n x).hostRate = d.hostRate := rfl
@[simp] theorem Dev.setCore_hostWidth : (d.setCore n x).hostWidth = d.hostWidth := rfl
@[simp] theorem Dev.setCore_evq : (d.setCore n x).evq = d.evq := rfl
@[simp] theorem Dev.setCore_dr : (d.setCore n x).dr = d.dr := rfl
@[simp] theorem Dev.setCore_sr : (d.setCore n x).sr = d.sr := rfl
@[simp] theorem Dev.setCore_toHost : (d.setCore n x).toHost = d.toHost := rfl
@[simp] theorem Dev.setCore_msix : (d.setCore n x).msix = d.msix := rfl
@[simp] theorem Dev.setCore_toLink : (d.setCore n x).toLink = d.toLink := rfl
@[simp] theorem Dev.setCore_wakes : (d.setCore n x).wakes = d.wakes := rfl
@[simp] theorem Dev.setCore_bufs : (d.setCore n x).bufs = d.bufs := rfl
@[simp] theorem Dev.setCore_tally : (d.setCore n x).tally = d.tally := rfl
@[simp] theorem Dev.setCore_client : (d.setCore n x).client = d.client := rfl
@[simp] theorem Dev.setCore_cmds : (d.setCore n x).cmds = d.cmds := rfl
@[simp] theorem Dev.setCore_nextCid : (d.setCore n x).nextCid = d.nextCid := rfl
@[simp] theorem Dev.setCore_grants : (d.setCore n x).grants = d.grants := rfl
@[simp] theorem Dev.setCore_lastRing : (d.setCore n x).lastRing = d.lastRing := rfl
@[simp] theorem Dev.setCore_held : (d.setCore n x).held = d.held := rfl
@[simp] theorem Dev.setCore_chains : (d.setCore n x).chains = d.chains := rfl
@[simp] theorem Dev.setCore_serve : (d.setCore n x).serve = d.serve := rfl
@[simp] theorem Dev.setCore_strapId : (d.setCore n x).strapId = d.strapId := rfl
@[simp] theorem Dev.setCore_strapLead : (d.setCore n x).strapLead = d.strapLead := rfl
@[simp] theorem Dev.setCore_saveImg : (d.setCore n x).saveImg = d.saveImg := rfl
@[simp] theorem Dev.setCore_poison : (d.setCore n x).poison = d.poison := rfl
@[simp] theorem Dev.setCore_dir : (d.setCore n x).dir = d.dir := rfl
@[simp] theorem Dev.setCore_l2 : (d.setCore n x).l2 = d.l2 := rfl
@[simp] theorem Dev.setCore_stores : (d.setCore n x).stores = d.stores := rfl
@[simp] theorem Dev.setCore_streams : (d.setCore n x).streams = d.streams := rfl
@[simp] theorem Dev.setCore_finals : (d.setCore n x).finals = d.finals := rfl
@[simp] theorem Dev.setCore_finalsQ : (d.setCore n x).finalsQ = d.finalsQ := rfl
@[simp] theorem Dev.setCore_staged : (d.setCore n x).staged = d.staged := rfl
@[simp] theorem Dev.setCore_reasons : (d.setCore n x).reasons = d.reasons := rfl
@[simp] theorem Dev.setCore_testing : (d.setCore n x).testing = d.testing := rfl
@[simp] theorem Dev.setCore_fwStress : (d.setCore n x).fwStress = d.fwStress := rfl
@[simp] theorem Dev.setCore_fwSuspect : (d.setCore n x).fwSuspect = d.fwSuspect := rfl
@[simp] theorem Dev.setCore_swaps : (d.setCore n x).swaps = d.swaps := rfl
@[simp] theorem Dev.setCore_bgOpen : (d.setCore n x).bgOpen = d.bgOpen := rfl
@[simp] theorem Dev.setCore_linkRetry : (d.setCore n x).linkRetry = d.linkRetry := rfl
@[simp] theorem Dev.setCore_suspects : (d.setCore n x).suspects = d.suspects := rfl
@[simp] theorem Dev.setCore_resetting : (d.setCore n x).resetting = d.resetting := rfl
@[simp] theorem Dev.setCore_rowCe : (d.setCore n x).rowCe = d.rowCe := rfl
@[simp] theorem Dev.setCore_rowBusy : (d.setCore n x).rowBusy = d.rowBusy := rfl
@[simp] theorem Dev.setCore_rowMap : (d.setCore n x).rowMap = d.rowMap := rfl
@[simp] theorem Dev.setCore_bankUsed : (d.setCore n x).bankUsed = d.bankUsed := rfl
@[simp] theorem Dev.setCore_bankSaid : (d.setCore n x).bankSaid = d.bankSaid := rfl
@[simp] theorem Dev.setCore_narrow : (d.setCore n x).narrow = d.narrow := rfl
@[simp] theorem Dev.setCore_slots : (d.setCore n x).slots = d.slots := rfl
@[simp] theorem Dev.setCore_heat : (d.setCore n x).heat = d.heat := rfl
@[simp] theorem Dev.setCore_sensorSaid : (d.setCore n x).sensorSaid = d.sensorSaid := rfl
@[simp] theorem Dev.setCore_floors : (d.setCore n x).floors = d.floors := rfl
@[simp] theorem Dev.setCore_rgn : (d.setCore n x).rgn = d.rgn := rfl
@[simp] theorem Dev.setCore_allocs : (d.setCore n x).allocs = d.allocs := rfl
@[simp] theorem Dev.setCore_sealedDone : (d.setCore n x).sealedDone = d.sealedDone := rfl
@[simp] theorem Dev.setCore_sealedDue : (d.setCore n x).sealedDue = d.sealedDue := rfl
@[simp] theorem Dev.setCore_lateSaid : (d.setCore n x).lateSaid = d.lateSaid := rfl
@[simp] theorem Dev.setCore_net : (d.setCore n x).net = d.net := rfl
@[simp] theorem Dev.setCore_lyr0 : (d.setCore n x).lyr0 = d.lyr0 := rfl
@[simp] theorem Dev.setCore_lyr1 : (d.setCore n x).lyr1 = d.lyr1 := rfl
@[simp] theorem Dev.setCore_kiln : (d.setCore n x).kiln = d.kiln := rfl
@[simp] theorem Dev.setCore_pmb : (d.setCore n x).pmb = d.pmb := rfl
@[simp] theorem Dev.setCore_sinds : (d.setCore n x).sinds = d.sinds := rfl
@[simp] theorem Dev.setCore_boot : (d.setCore n x).boot = d.boot := rfl
@[simp] theorem Dev.setCore_svc : (d.setCore n x).svc = d.svc := rfl

end

section
variable (d : Dev) (n : Nat) (x : DirEnt)

@[simp] theorem Dev.setDir_now : (d.setDir n x).now = d.now := rfl
@[simp] theorem Dev.setDir_fresh : (d.setDir n x).fresh = d.fresh := rfl
@[simp] theorem Dev.setDir_resp : (d.setDir n x).resp = d.resp := rfl
@[simp] theorem Dev.setDir_regs : (d.setDir n x).regs = d.regs := rfl
@[simp] theorem Dev.setDir_shadow : (d.setDir n x).shadow = d.shadow := rfl
@[simp] theorem Dev.setDir_vfs : (d.setDir n x).vfs = d.vfs := rfl
@[simp] theorem Dev.setDir_mps : (d.setDir n x).mps = d.mps := rfl
@[simp] theorem Dev.setDir_mrrs : (d.setDir n x).mrrs = d.mrrs := rfl
@[simp] theorem Dev.setDir_relaxed : (d.setDir n x).relaxed = d.relaxed := rfl
@[simp] theorem Dev.setDir_hostRate : (d.setDir n x).hostRate = d.hostRate := rfl
@[simp] theorem Dev.setDir_hostWidth : (d.setDir n x).hostWidth = d.hostWidth := rfl
@[simp] theorem Dev.setDir_evq : (d.setDir n x).evq = d.evq := rfl
@[simp] theorem Dev.setDir_dr : (d.setDir n x).dr = d.dr := rfl
@[simp] theorem Dev.setDir_sr : (d.setDir n x).sr = d.sr := rfl
@[simp] theorem Dev.setDir_toHost : (d.setDir n x).toHost = d.toHost := rfl
@[simp] theorem Dev.setDir_msix : (d.setDir n x).msix = d.msix := rfl
@[simp] theorem Dev.setDir_toLink : (d.setDir n x).toLink = d.toLink := rfl
@[simp] theorem Dev.setDir_wakes : (d.setDir n x).wakes = d.wakes := rfl
@[simp] theorem Dev.setDir_bufs : (d.setDir n x).bufs = d.bufs := rfl
@[simp] theorem Dev.setDir_tally : (d.setDir n x).tally = d.tally := rfl
@[simp] theorem Dev.setDir_client : (d.setDir n x).client = d.client := rfl
@[simp] theorem Dev.setDir_cmds : (d.setDir n x).cmds = d.cmds := rfl
@[simp] theorem Dev.setDir_nextCid : (d.setDir n x).nextCid = d.nextCid := rfl
@[simp] theorem Dev.setDir_grants : (d.setDir n x).grants = d.grants := rfl
@[simp] theorem Dev.setDir_lastRing : (d.setDir n x).lastRing = d.lastRing := rfl
@[simp] theorem Dev.setDir_held : (d.setDir n x).held = d.held := rfl
@[simp] theorem Dev.setDir_chains : (d.setDir n x).chains = d.chains := rfl
@[simp] theorem Dev.setDir_serve : (d.setDir n x).serve = d.serve := rfl
@[simp] theorem Dev.setDir_strapId : (d.setDir n x).strapId = d.strapId := rfl
@[simp] theorem Dev.setDir_strapLead : (d.setDir n x).strapLead = d.strapLead := rfl
@[simp] theorem Dev.setDir_cores : (d.setDir n x).cores = d.cores := rfl
@[simp] theorem Dev.setDir_saveImg : (d.setDir n x).saveImg = d.saveImg := rfl
@[simp] theorem Dev.setDir_poison : (d.setDir n x).poison = d.poison := rfl
@[simp] theorem Dev.setDir_l2 : (d.setDir n x).l2 = d.l2 := rfl
@[simp] theorem Dev.setDir_stores : (d.setDir n x).stores = d.stores := rfl
@[simp] theorem Dev.setDir_streams : (d.setDir n x).streams = d.streams := rfl
@[simp] theorem Dev.setDir_finals : (d.setDir n x).finals = d.finals := rfl
@[simp] theorem Dev.setDir_finalsQ : (d.setDir n x).finalsQ = d.finalsQ := rfl
@[simp] theorem Dev.setDir_staged : (d.setDir n x).staged = d.staged := rfl
@[simp] theorem Dev.setDir_reasons : (d.setDir n x).reasons = d.reasons := rfl
@[simp] theorem Dev.setDir_testing : (d.setDir n x).testing = d.testing := rfl
@[simp] theorem Dev.setDir_fwStress : (d.setDir n x).fwStress = d.fwStress := rfl
@[simp] theorem Dev.setDir_fwSuspect : (d.setDir n x).fwSuspect = d.fwSuspect := rfl
@[simp] theorem Dev.setDir_swaps : (d.setDir n x).swaps = d.swaps := rfl
@[simp] theorem Dev.setDir_bgOpen : (d.setDir n x).bgOpen = d.bgOpen := rfl
@[simp] theorem Dev.setDir_linkRetry : (d.setDir n x).linkRetry = d.linkRetry := rfl
@[simp] theorem Dev.setDir_suspects : (d.setDir n x).suspects = d.suspects := rfl
@[simp] theorem Dev.setDir_resetting : (d.setDir n x).resetting = d.resetting := rfl
@[simp] theorem Dev.setDir_rowCe : (d.setDir n x).rowCe = d.rowCe := rfl
@[simp] theorem Dev.setDir_rowBusy : (d.setDir n x).rowBusy = d.rowBusy := rfl
@[simp] theorem Dev.setDir_rowMap : (d.setDir n x).rowMap = d.rowMap := rfl
@[simp] theorem Dev.setDir_bankUsed : (d.setDir n x).bankUsed = d.bankUsed := rfl
@[simp] theorem Dev.setDir_bankSaid : (d.setDir n x).bankSaid = d.bankSaid := rfl
@[simp] theorem Dev.setDir_narrow : (d.setDir n x).narrow = d.narrow := rfl
@[simp] theorem Dev.setDir_slots : (d.setDir n x).slots = d.slots := rfl
@[simp] theorem Dev.setDir_heat : (d.setDir n x).heat = d.heat := rfl
@[simp] theorem Dev.setDir_sensorSaid : (d.setDir n x).sensorSaid = d.sensorSaid := rfl
@[simp] theorem Dev.setDir_floors : (d.setDir n x).floors = d.floors := rfl
@[simp] theorem Dev.setDir_rgn : (d.setDir n x).rgn = d.rgn := rfl
@[simp] theorem Dev.setDir_allocs : (d.setDir n x).allocs = d.allocs := rfl
@[simp] theorem Dev.setDir_sealedDone : (d.setDir n x).sealedDone = d.sealedDone := rfl
@[simp] theorem Dev.setDir_sealedDue : (d.setDir n x).sealedDue = d.sealedDue := rfl
@[simp] theorem Dev.setDir_lateSaid : (d.setDir n x).lateSaid = d.lateSaid := rfl
@[simp] theorem Dev.setDir_net : (d.setDir n x).net = d.net := rfl
@[simp] theorem Dev.setDir_lyr0 : (d.setDir n x).lyr0 = d.lyr0 := rfl
@[simp] theorem Dev.setDir_lyr1 : (d.setDir n x).lyr1 = d.lyr1 := rfl
@[simp] theorem Dev.setDir_kiln : (d.setDir n x).kiln = d.kiln := rfl
@[simp] theorem Dev.setDir_pmb : (d.setDir n x).pmb = d.pmb := rfl
@[simp] theorem Dev.setDir_sinds : (d.setDir n x).sinds = d.sinds := rfl
@[simp] theorem Dev.setDir_boot : (d.setDir n x).boot = d.boot := rfl
@[simp] theorem Dev.setDir_svc : (d.setDir n x).svc = d.svc := rfl

end

section
variable (d : Dev) (p n : Nat) (x : L2St)

@[simp] theorem Dev.setL2_now : (d.setL2 p n x).now = d.now := rfl
@[simp] theorem Dev.setL2_fresh : (d.setL2 p n x).fresh = d.fresh := rfl
@[simp] theorem Dev.setL2_resp : (d.setL2 p n x).resp = d.resp := rfl
@[simp] theorem Dev.setL2_regs : (d.setL2 p n x).regs = d.regs := rfl
@[simp] theorem Dev.setL2_shadow : (d.setL2 p n x).shadow = d.shadow := rfl
@[simp] theorem Dev.setL2_vfs : (d.setL2 p n x).vfs = d.vfs := rfl
@[simp] theorem Dev.setL2_mps : (d.setL2 p n x).mps = d.mps := rfl
@[simp] theorem Dev.setL2_mrrs : (d.setL2 p n x).mrrs = d.mrrs := rfl
@[simp] theorem Dev.setL2_relaxed : (d.setL2 p n x).relaxed = d.relaxed := rfl
@[simp] theorem Dev.setL2_hostRate : (d.setL2 p n x).hostRate = d.hostRate := rfl
@[simp] theorem Dev.setL2_hostWidth : (d.setL2 p n x).hostWidth = d.hostWidth := rfl
@[simp] theorem Dev.setL2_evq : (d.setL2 p n x).evq = d.evq := rfl
@[simp] theorem Dev.setL2_dr : (d.setL2 p n x).dr = d.dr := rfl
@[simp] theorem Dev.setL2_sr : (d.setL2 p n x).sr = d.sr := rfl
@[simp] theorem Dev.setL2_toHost : (d.setL2 p n x).toHost = d.toHost := rfl
@[simp] theorem Dev.setL2_msix : (d.setL2 p n x).msix = d.msix := rfl
@[simp] theorem Dev.setL2_toLink : (d.setL2 p n x).toLink = d.toLink := rfl
@[simp] theorem Dev.setL2_wakes : (d.setL2 p n x).wakes = d.wakes := rfl
@[simp] theorem Dev.setL2_bufs : (d.setL2 p n x).bufs = d.bufs := rfl
@[simp] theorem Dev.setL2_tally : (d.setL2 p n x).tally = d.tally := rfl
@[simp] theorem Dev.setL2_client : (d.setL2 p n x).client = d.client := rfl
@[simp] theorem Dev.setL2_cmds : (d.setL2 p n x).cmds = d.cmds := rfl
@[simp] theorem Dev.setL2_nextCid : (d.setL2 p n x).nextCid = d.nextCid := rfl
@[simp] theorem Dev.setL2_grants : (d.setL2 p n x).grants = d.grants := rfl
@[simp] theorem Dev.setL2_lastRing : (d.setL2 p n x).lastRing = d.lastRing := rfl
@[simp] theorem Dev.setL2_held : (d.setL2 p n x).held = d.held := rfl
@[simp] theorem Dev.setL2_chains : (d.setL2 p n x).chains = d.chains := rfl
@[simp] theorem Dev.setL2_serve : (d.setL2 p n x).serve = d.serve := rfl
@[simp] theorem Dev.setL2_strapId : (d.setL2 p n x).strapId = d.strapId := rfl
@[simp] theorem Dev.setL2_strapLead : (d.setL2 p n x).strapLead = d.strapLead := rfl
@[simp] theorem Dev.setL2_cores : (d.setL2 p n x).cores = d.cores := rfl
@[simp] theorem Dev.setL2_saveImg : (d.setL2 p n x).saveImg = d.saveImg := rfl
@[simp] theorem Dev.setL2_poison : (d.setL2 p n x).poison = d.poison := rfl
@[simp] theorem Dev.setL2_dir : (d.setL2 p n x).dir = d.dir := rfl
@[simp] theorem Dev.setL2_stores : (d.setL2 p n x).stores = d.stores := rfl
@[simp] theorem Dev.setL2_streams : (d.setL2 p n x).streams = d.streams := rfl
@[simp] theorem Dev.setL2_finals : (d.setL2 p n x).finals = d.finals := rfl
@[simp] theorem Dev.setL2_finalsQ : (d.setL2 p n x).finalsQ = d.finalsQ := rfl
@[simp] theorem Dev.setL2_staged : (d.setL2 p n x).staged = d.staged := rfl
@[simp] theorem Dev.setL2_reasons : (d.setL2 p n x).reasons = d.reasons := rfl
@[simp] theorem Dev.setL2_testing : (d.setL2 p n x).testing = d.testing := rfl
@[simp] theorem Dev.setL2_fwStress : (d.setL2 p n x).fwStress = d.fwStress := rfl
@[simp] theorem Dev.setL2_fwSuspect : (d.setL2 p n x).fwSuspect = d.fwSuspect := rfl
@[simp] theorem Dev.setL2_swaps : (d.setL2 p n x).swaps = d.swaps := rfl
@[simp] theorem Dev.setL2_bgOpen : (d.setL2 p n x).bgOpen = d.bgOpen := rfl
@[simp] theorem Dev.setL2_linkRetry : (d.setL2 p n x).linkRetry = d.linkRetry := rfl
@[simp] theorem Dev.setL2_suspects : (d.setL2 p n x).suspects = d.suspects := rfl
@[simp] theorem Dev.setL2_resetting : (d.setL2 p n x).resetting = d.resetting := rfl
@[simp] theorem Dev.setL2_rowCe : (d.setL2 p n x).rowCe = d.rowCe := rfl
@[simp] theorem Dev.setL2_rowBusy : (d.setL2 p n x).rowBusy = d.rowBusy := rfl
@[simp] theorem Dev.setL2_rowMap : (d.setL2 p n x).rowMap = d.rowMap := rfl
@[simp] theorem Dev.setL2_bankUsed : (d.setL2 p n x).bankUsed = d.bankUsed := rfl
@[simp] theorem Dev.setL2_bankSaid : (d.setL2 p n x).bankSaid = d.bankSaid := rfl
@[simp] theorem Dev.setL2_narrow : (d.setL2 p n x).narrow = d.narrow := rfl
@[simp] theorem Dev.setL2_slots : (d.setL2 p n x).slots = d.slots := rfl
@[simp] theorem Dev.setL2_heat : (d.setL2 p n x).heat = d.heat := rfl
@[simp] theorem Dev.setL2_sensorSaid : (d.setL2 p n x).sensorSaid = d.sensorSaid := rfl
@[simp] theorem Dev.setL2_floors : (d.setL2 p n x).floors = d.floors := rfl
@[simp] theorem Dev.setL2_rgn : (d.setL2 p n x).rgn = d.rgn := rfl
@[simp] theorem Dev.setL2_allocs : (d.setL2 p n x).allocs = d.allocs := rfl
@[simp] theorem Dev.setL2_sealedDone : (d.setL2 p n x).sealedDone = d.sealedDone := rfl
@[simp] theorem Dev.setL2_sealedDue : (d.setL2 p n x).sealedDue = d.sealedDue := rfl
@[simp] theorem Dev.setL2_lateSaid : (d.setL2 p n x).lateSaid = d.lateSaid := rfl
@[simp] theorem Dev.setL2_net : (d.setL2 p n x).net = d.net := rfl
@[simp] theorem Dev.setL2_lyr0 : (d.setL2 p n x).lyr0 = d.lyr0 := rfl
@[simp] theorem Dev.setL2_lyr1 : (d.setL2 p n x).lyr1 = d.lyr1 := rfl
@[simp] theorem Dev.setL2_kiln : (d.setL2 p n x).kiln = d.kiln := rfl
@[simp] theorem Dev.setL2_pmb : (d.setL2 p n x).pmb = d.pmb := rfl
@[simp] theorem Dev.setL2_sinds : (d.setL2 p n x).sinds = d.sinds := rfl
@[simp] theorem Dev.setL2_boot : (d.setL2 p n x).boot = d.boot := rfl
@[simp] theorem Dev.setL2_svc : (d.setL2 p n x).svc = d.svc := rfl

end

section
variable (d : Dev) (n : Nat) (x : Rgn)

@[simp] theorem Dev.setRegion_now : (d.setRegion n x).now = d.now := rfl
@[simp] theorem Dev.setRegion_fresh : (d.setRegion n x).fresh = d.fresh := rfl
@[simp] theorem Dev.setRegion_resp : (d.setRegion n x).resp = d.resp := rfl
@[simp] theorem Dev.setRegion_regs : (d.setRegion n x).regs = d.regs := rfl
@[simp] theorem Dev.setRegion_shadow : (d.setRegion n x).shadow = d.shadow := rfl
@[simp] theorem Dev.setRegion_vfs : (d.setRegion n x).vfs = d.vfs := rfl
@[simp] theorem Dev.setRegion_mps : (d.setRegion n x).mps = d.mps := rfl
@[simp] theorem Dev.setRegion_mrrs : (d.setRegion n x).mrrs = d.mrrs := rfl
@[simp] theorem Dev.setRegion_relaxed : (d.setRegion n x).relaxed = d.relaxed := rfl
@[simp] theorem Dev.setRegion_hostRate : (d.setRegion n x).hostRate = d.hostRate := rfl
@[simp] theorem Dev.setRegion_hostWidth : (d.setRegion n x).hostWidth = d.hostWidth := rfl
@[simp] theorem Dev.setRegion_evq : (d.setRegion n x).evq = d.evq := rfl
@[simp] theorem Dev.setRegion_dr : (d.setRegion n x).dr = d.dr := rfl
@[simp] theorem Dev.setRegion_sr : (d.setRegion n x).sr = d.sr := rfl
@[simp] theorem Dev.setRegion_toHost : (d.setRegion n x).toHost = d.toHost := rfl
@[simp] theorem Dev.setRegion_msix : (d.setRegion n x).msix = d.msix := rfl
@[simp] theorem Dev.setRegion_toLink : (d.setRegion n x).toLink = d.toLink := rfl
@[simp] theorem Dev.setRegion_wakes : (d.setRegion n x).wakes = d.wakes := rfl
@[simp] theorem Dev.setRegion_bufs : (d.setRegion n x).bufs = d.bufs := rfl
@[simp] theorem Dev.setRegion_tally : (d.setRegion n x).tally = d.tally := rfl
@[simp] theorem Dev.setRegion_client : (d.setRegion n x).client = d.client := rfl
@[simp] theorem Dev.setRegion_cmds : (d.setRegion n x).cmds = d.cmds := rfl
@[simp] theorem Dev.setRegion_nextCid : (d.setRegion n x).nextCid = d.nextCid := rfl
@[simp] theorem Dev.setRegion_grants : (d.setRegion n x).grants = d.grants := rfl
@[simp] theorem Dev.setRegion_lastRing : (d.setRegion n x).lastRing = d.lastRing := rfl
@[simp] theorem Dev.setRegion_held : (d.setRegion n x).held = d.held := rfl
@[simp] theorem Dev.setRegion_chains : (d.setRegion n x).chains = d.chains := rfl
@[simp] theorem Dev.setRegion_serve : (d.setRegion n x).serve = d.serve := rfl
@[simp] theorem Dev.setRegion_strapId : (d.setRegion n x).strapId = d.strapId := rfl
@[simp] theorem Dev.setRegion_strapLead : (d.setRegion n x).strapLead = d.strapLead := rfl
@[simp] theorem Dev.setRegion_cores : (d.setRegion n x).cores = d.cores := rfl
@[simp] theorem Dev.setRegion_saveImg : (d.setRegion n x).saveImg = d.saveImg := rfl
@[simp] theorem Dev.setRegion_poison : (d.setRegion n x).poison = d.poison := rfl
@[simp] theorem Dev.setRegion_dir : (d.setRegion n x).dir = d.dir := rfl
@[simp] theorem Dev.setRegion_l2 : (d.setRegion n x).l2 = d.l2 := rfl
@[simp] theorem Dev.setRegion_stores : (d.setRegion n x).stores = d.stores := rfl
@[simp] theorem Dev.setRegion_streams : (d.setRegion n x).streams = d.streams := rfl
@[simp] theorem Dev.setRegion_finals : (d.setRegion n x).finals = d.finals := rfl
@[simp] theorem Dev.setRegion_finalsQ : (d.setRegion n x).finalsQ = d.finalsQ := rfl
@[simp] theorem Dev.setRegion_staged : (d.setRegion n x).staged = d.staged := rfl
@[simp] theorem Dev.setRegion_reasons : (d.setRegion n x).reasons = d.reasons := rfl
@[simp] theorem Dev.setRegion_testing : (d.setRegion n x).testing = d.testing := rfl
@[simp] theorem Dev.setRegion_fwStress : (d.setRegion n x).fwStress = d.fwStress := rfl
@[simp] theorem Dev.setRegion_fwSuspect : (d.setRegion n x).fwSuspect = d.fwSuspect := rfl
@[simp] theorem Dev.setRegion_swaps : (d.setRegion n x).swaps = d.swaps := rfl
@[simp] theorem Dev.setRegion_bgOpen : (d.setRegion n x).bgOpen = d.bgOpen := rfl
@[simp] theorem Dev.setRegion_linkRetry : (d.setRegion n x).linkRetry = d.linkRetry := rfl
@[simp] theorem Dev.setRegion_suspects : (d.setRegion n x).suspects = d.suspects := rfl
@[simp] theorem Dev.setRegion_resetting : (d.setRegion n x).resetting = d.resetting := rfl
@[simp] theorem Dev.setRegion_rowCe : (d.setRegion n x).rowCe = d.rowCe := rfl
@[simp] theorem Dev.setRegion_rowBusy : (d.setRegion n x).rowBusy = d.rowBusy := rfl
@[simp] theorem Dev.setRegion_rowMap : (d.setRegion n x).rowMap = d.rowMap := rfl
@[simp] theorem Dev.setRegion_bankUsed : (d.setRegion n x).bankUsed = d.bankUsed := rfl
@[simp] theorem Dev.setRegion_bankSaid : (d.setRegion n x).bankSaid = d.bankSaid := rfl
@[simp] theorem Dev.setRegion_narrow : (d.setRegion n x).narrow = d.narrow := rfl
@[simp] theorem Dev.setRegion_slots : (d.setRegion n x).slots = d.slots := rfl
@[simp] theorem Dev.setRegion_heat : (d.setRegion n x).heat = d.heat := rfl
@[simp] theorem Dev.setRegion_sensorSaid : (d.setRegion n x).sensorSaid = d.sensorSaid := rfl
@[simp] theorem Dev.setRegion_floors : (d.setRegion n x).floors = d.floors := rfl
@[simp] theorem Dev.setRegion_allocs : (d.setRegion n x).allocs = d.allocs := rfl
@[simp] theorem Dev.setRegion_sealedDone : (d.setRegion n x).sealedDone = d.sealedDone := rfl
@[simp] theorem Dev.setRegion_sealedDue : (d.setRegion n x).sealedDue = d.sealedDue := rfl
@[simp] theorem Dev.setRegion_lateSaid : (d.setRegion n x).lateSaid = d.lateSaid := rfl
@[simp] theorem Dev.setRegion_net : (d.setRegion n x).net = d.net := rfl
@[simp] theorem Dev.setRegion_lyr0 : (d.setRegion n x).lyr0 = d.lyr0 := rfl
@[simp] theorem Dev.setRegion_lyr1 : (d.setRegion n x).lyr1 = d.lyr1 := rfl
@[simp] theorem Dev.setRegion_kiln : (d.setRegion n x).kiln = d.kiln := rfl
@[simp] theorem Dev.setRegion_pmb : (d.setRegion n x).pmb = d.pmb := rfl
@[simp] theorem Dev.setRegion_sinds : (d.setRegion n x).sinds = d.sinds := rfl
@[simp] theorem Dev.setRegion_boot : (d.setRegion n x).boot = d.boot := rfl
@[simp] theorem Dev.setRegion_svc : (d.setRegion n x).svc = d.svc := rfl

end

section
variable (d : Dev) (n : Nat) (x : Heat)

@[simp] theorem Dev.setHeat_now : (d.setHeat n x).now = d.now := rfl
@[simp] theorem Dev.setHeat_fresh : (d.setHeat n x).fresh = d.fresh := rfl
@[simp] theorem Dev.setHeat_resp : (d.setHeat n x).resp = d.resp := rfl
@[simp] theorem Dev.setHeat_regs : (d.setHeat n x).regs = d.regs := rfl
@[simp] theorem Dev.setHeat_shadow : (d.setHeat n x).shadow = d.shadow := rfl
@[simp] theorem Dev.setHeat_vfs : (d.setHeat n x).vfs = d.vfs := rfl
@[simp] theorem Dev.setHeat_mps : (d.setHeat n x).mps = d.mps := rfl
@[simp] theorem Dev.setHeat_mrrs : (d.setHeat n x).mrrs = d.mrrs := rfl
@[simp] theorem Dev.setHeat_relaxed : (d.setHeat n x).relaxed = d.relaxed := rfl
@[simp] theorem Dev.setHeat_hostRate : (d.setHeat n x).hostRate = d.hostRate := rfl
@[simp] theorem Dev.setHeat_hostWidth : (d.setHeat n x).hostWidth = d.hostWidth := rfl
@[simp] theorem Dev.setHeat_evq : (d.setHeat n x).evq = d.evq := rfl
@[simp] theorem Dev.setHeat_dr : (d.setHeat n x).dr = d.dr := rfl
@[simp] theorem Dev.setHeat_sr : (d.setHeat n x).sr = d.sr := rfl
@[simp] theorem Dev.setHeat_toHost : (d.setHeat n x).toHost = d.toHost := rfl
@[simp] theorem Dev.setHeat_msix : (d.setHeat n x).msix = d.msix := rfl
@[simp] theorem Dev.setHeat_toLink : (d.setHeat n x).toLink = d.toLink := rfl
@[simp] theorem Dev.setHeat_wakes : (d.setHeat n x).wakes = d.wakes := rfl
@[simp] theorem Dev.setHeat_bufs : (d.setHeat n x).bufs = d.bufs := rfl
@[simp] theorem Dev.setHeat_tally : (d.setHeat n x).tally = d.tally := rfl
@[simp] theorem Dev.setHeat_client : (d.setHeat n x).client = d.client := rfl
@[simp] theorem Dev.setHeat_cmds : (d.setHeat n x).cmds = d.cmds := rfl
@[simp] theorem Dev.setHeat_nextCid : (d.setHeat n x).nextCid = d.nextCid := rfl
@[simp] theorem Dev.setHeat_grants : (d.setHeat n x).grants = d.grants := rfl
@[simp] theorem Dev.setHeat_lastRing : (d.setHeat n x).lastRing = d.lastRing := rfl
@[simp] theorem Dev.setHeat_held : (d.setHeat n x).held = d.held := rfl
@[simp] theorem Dev.setHeat_chains : (d.setHeat n x).chains = d.chains := rfl
@[simp] theorem Dev.setHeat_serve : (d.setHeat n x).serve = d.serve := rfl
@[simp] theorem Dev.setHeat_strapId : (d.setHeat n x).strapId = d.strapId := rfl
@[simp] theorem Dev.setHeat_strapLead : (d.setHeat n x).strapLead = d.strapLead := rfl
@[simp] theorem Dev.setHeat_cores : (d.setHeat n x).cores = d.cores := rfl
@[simp] theorem Dev.setHeat_saveImg : (d.setHeat n x).saveImg = d.saveImg := rfl
@[simp] theorem Dev.setHeat_poison : (d.setHeat n x).poison = d.poison := rfl
@[simp] theorem Dev.setHeat_dir : (d.setHeat n x).dir = d.dir := rfl
@[simp] theorem Dev.setHeat_l2 : (d.setHeat n x).l2 = d.l2 := rfl
@[simp] theorem Dev.setHeat_stores : (d.setHeat n x).stores = d.stores := rfl
@[simp] theorem Dev.setHeat_streams : (d.setHeat n x).streams = d.streams := rfl
@[simp] theorem Dev.setHeat_finals : (d.setHeat n x).finals = d.finals := rfl
@[simp] theorem Dev.setHeat_finalsQ : (d.setHeat n x).finalsQ = d.finalsQ := rfl
@[simp] theorem Dev.setHeat_staged : (d.setHeat n x).staged = d.staged := rfl
@[simp] theorem Dev.setHeat_reasons : (d.setHeat n x).reasons = d.reasons := rfl
@[simp] theorem Dev.setHeat_testing : (d.setHeat n x).testing = d.testing := rfl
@[simp] theorem Dev.setHeat_fwStress : (d.setHeat n x).fwStress = d.fwStress := rfl
@[simp] theorem Dev.setHeat_fwSuspect : (d.setHeat n x).fwSuspect = d.fwSuspect := rfl
@[simp] theorem Dev.setHeat_swaps : (d.setHeat n x).swaps = d.swaps := rfl
@[simp] theorem Dev.setHeat_bgOpen : (d.setHeat n x).bgOpen = d.bgOpen := rfl
@[simp] theorem Dev.setHeat_linkRetry : (d.setHeat n x).linkRetry = d.linkRetry := rfl
@[simp] theorem Dev.setHeat_suspects : (d.setHeat n x).suspects = d.suspects := rfl
@[simp] theorem Dev.setHeat_resetting : (d.setHeat n x).resetting = d.resetting := rfl
@[simp] theorem Dev.setHeat_rowCe : (d.setHeat n x).rowCe = d.rowCe := rfl
@[simp] theorem Dev.setHeat_rowBusy : (d.setHeat n x).rowBusy = d.rowBusy := rfl
@[simp] theorem Dev.setHeat_rowMap : (d.setHeat n x).rowMap = d.rowMap := rfl
@[simp] theorem Dev.setHeat_bankUsed : (d.setHeat n x).bankUsed = d.bankUsed := rfl
@[simp] theorem Dev.setHeat_bankSaid : (d.setHeat n x).bankSaid = d.bankSaid := rfl
@[simp] theorem Dev.setHeat_narrow : (d.setHeat n x).narrow = d.narrow := rfl
@[simp] theorem Dev.setHeat_slots : (d.setHeat n x).slots = d.slots := rfl
@[simp] theorem Dev.setHeat_sensorSaid : (d.setHeat n x).sensorSaid = d.sensorSaid := rfl
@[simp] theorem Dev.setHeat_floors : (d.setHeat n x).floors = d.floors := rfl
@[simp] theorem Dev.setHeat_rgn : (d.setHeat n x).rgn = d.rgn := rfl
@[simp] theorem Dev.setHeat_allocs : (d.setHeat n x).allocs = d.allocs := rfl
@[simp] theorem Dev.setHeat_sealedDone : (d.setHeat n x).sealedDone = d.sealedDone := rfl
@[simp] theorem Dev.setHeat_sealedDue : (d.setHeat n x).sealedDue = d.sealedDue := rfl
@[simp] theorem Dev.setHeat_lateSaid : (d.setHeat n x).lateSaid = d.lateSaid := rfl
@[simp] theorem Dev.setHeat_net : (d.setHeat n x).net = d.net := rfl
@[simp] theorem Dev.setHeat_lyr0 : (d.setHeat n x).lyr0 = d.lyr0 := rfl
@[simp] theorem Dev.setHeat_lyr1 : (d.setHeat n x).lyr1 = d.lyr1 := rfl
@[simp] theorem Dev.setHeat_kiln : (d.setHeat n x).kiln = d.kiln := rfl
@[simp] theorem Dev.setHeat_pmb : (d.setHeat n x).pmb = d.pmb := rfl
@[simp] theorem Dev.setHeat_sinds : (d.setHeat n x).sinds = d.sinds := rfl
@[simp] theorem Dev.setHeat_boot : (d.setHeat n x).boot = d.boot := rfl
@[simp] theorem Dev.setHeat_svc : (d.setHeat n x).svc = d.svc := rfl

end

section
variable (d : Dev) (n : Nat) (x : Alloc)

@[simp] theorem Dev.setAlloc_now : (d.setAlloc n x).now = d.now := rfl
@[simp] theorem Dev.setAlloc_fresh : (d.setAlloc n x).fresh = d.fresh := rfl
@[simp] theorem Dev.setAlloc_resp : (d.setAlloc n x).resp = d.resp := rfl
@[simp] theorem Dev.setAlloc_regs : (d.setAlloc n x).regs = d.regs := rfl
@[simp] theorem Dev.setAlloc_shadow : (d.setAlloc n x).shadow = d.shadow := rfl
@[simp] theorem Dev.setAlloc_vfs : (d.setAlloc n x).vfs = d.vfs := rfl
@[simp] theorem Dev.setAlloc_mps : (d.setAlloc n x).mps = d.mps := rfl
@[simp] theorem Dev.setAlloc_mrrs : (d.setAlloc n x).mrrs = d.mrrs := rfl
@[simp] theorem Dev.setAlloc_relaxed : (d.setAlloc n x).relaxed = d.relaxed := rfl
@[simp] theorem Dev.setAlloc_hostRate : (d.setAlloc n x).hostRate = d.hostRate := rfl
@[simp] theorem Dev.setAlloc_hostWidth : (d.setAlloc n x).hostWidth = d.hostWidth := rfl
@[simp] theorem Dev.setAlloc_evq : (d.setAlloc n x).evq = d.evq := rfl
@[simp] theorem Dev.setAlloc_dr : (d.setAlloc n x).dr = d.dr := rfl
@[simp] theorem Dev.setAlloc_sr : (d.setAlloc n x).sr = d.sr := rfl
@[simp] theorem Dev.setAlloc_toHost : (d.setAlloc n x).toHost = d.toHost := rfl
@[simp] theorem Dev.setAlloc_msix : (d.setAlloc n x).msix = d.msix := rfl
@[simp] theorem Dev.setAlloc_toLink : (d.setAlloc n x).toLink = d.toLink := rfl
@[simp] theorem Dev.setAlloc_wakes : (d.setAlloc n x).wakes = d.wakes := rfl
@[simp] theorem Dev.setAlloc_bufs : (d.setAlloc n x).bufs = d.bufs := rfl
@[simp] theorem Dev.setAlloc_tally : (d.setAlloc n x).tally = d.tally := rfl
@[simp] theorem Dev.setAlloc_client : (d.setAlloc n x).client = d.client := rfl
@[simp] theorem Dev.setAlloc_cmds : (d.setAlloc n x).cmds = d.cmds := rfl
@[simp] theorem Dev.setAlloc_nextCid : (d.setAlloc n x).nextCid = d.nextCid := rfl
@[simp] theorem Dev.setAlloc_grants : (d.setAlloc n x).grants = d.grants := rfl
@[simp] theorem Dev.setAlloc_lastRing : (d.setAlloc n x).lastRing = d.lastRing := rfl
@[simp] theorem Dev.setAlloc_held : (d.setAlloc n x).held = d.held := rfl
@[simp] theorem Dev.setAlloc_chains : (d.setAlloc n x).chains = d.chains := rfl
@[simp] theorem Dev.setAlloc_serve : (d.setAlloc n x).serve = d.serve := rfl
@[simp] theorem Dev.setAlloc_strapId : (d.setAlloc n x).strapId = d.strapId := rfl
@[simp] theorem Dev.setAlloc_strapLead : (d.setAlloc n x).strapLead = d.strapLead := rfl
@[simp] theorem Dev.setAlloc_cores : (d.setAlloc n x).cores = d.cores := rfl
@[simp] theorem Dev.setAlloc_saveImg : (d.setAlloc n x).saveImg = d.saveImg := rfl
@[simp] theorem Dev.setAlloc_poison : (d.setAlloc n x).poison = d.poison := rfl
@[simp] theorem Dev.setAlloc_dir : (d.setAlloc n x).dir = d.dir := rfl
@[simp] theorem Dev.setAlloc_l2 : (d.setAlloc n x).l2 = d.l2 := rfl
@[simp] theorem Dev.setAlloc_stores : (d.setAlloc n x).stores = d.stores := rfl
@[simp] theorem Dev.setAlloc_streams : (d.setAlloc n x).streams = d.streams := rfl
@[simp] theorem Dev.setAlloc_finals : (d.setAlloc n x).finals = d.finals := rfl
@[simp] theorem Dev.setAlloc_finalsQ : (d.setAlloc n x).finalsQ = d.finalsQ := rfl
@[simp] theorem Dev.setAlloc_staged : (d.setAlloc n x).staged = d.staged := rfl
@[simp] theorem Dev.setAlloc_reasons : (d.setAlloc n x).reasons = d.reasons := rfl
@[simp] theorem Dev.setAlloc_testing : (d.setAlloc n x).testing = d.testing := rfl
@[simp] theorem Dev.setAlloc_fwStress : (d.setAlloc n x).fwStress = d.fwStress := rfl
@[simp] theorem Dev.setAlloc_fwSuspect : (d.setAlloc n x).fwSuspect = d.fwSuspect := rfl
@[simp] theorem Dev.setAlloc_swaps : (d.setAlloc n x).swaps = d.swaps := rfl
@[simp] theorem Dev.setAlloc_bgOpen : (d.setAlloc n x).bgOpen = d.bgOpen := rfl
@[simp] theorem Dev.setAlloc_linkRetry : (d.setAlloc n x).linkRetry = d.linkRetry := rfl
@[simp] theorem Dev.setAlloc_suspects : (d.setAlloc n x).suspects = d.suspects := rfl
@[simp] theorem Dev.setAlloc_resetting : (d.setAlloc n x).resetting = d.resetting := rfl
@[simp] theorem Dev.setAlloc_rowCe : (d.setAlloc n x).rowCe = d.rowCe := rfl
@[simp] theorem Dev.setAlloc_rowBusy : (d.setAlloc n x).rowBusy = d.rowBusy := rfl
@[simp] theorem Dev.setAlloc_rowMap : (d.setAlloc n x).rowMap = d.rowMap := rfl
@[simp] theorem Dev.setAlloc_bankUsed : (d.setAlloc n x).bankUsed = d.bankUsed := rfl
@[simp] theorem Dev.setAlloc_bankSaid : (d.setAlloc n x).bankSaid = d.bankSaid := rfl
@[simp] theorem Dev.setAlloc_narrow : (d.setAlloc n x).narrow = d.narrow := rfl
@[simp] theorem Dev.setAlloc_slots : (d.setAlloc n x).slots = d.slots := rfl
@[simp] theorem Dev.setAlloc_heat : (d.setAlloc n x).heat = d.heat := rfl
@[simp] theorem Dev.setAlloc_sensorSaid : (d.setAlloc n x).sensorSaid = d.sensorSaid := rfl
@[simp] theorem Dev.setAlloc_floors : (d.setAlloc n x).floors = d.floors := rfl
@[simp] theorem Dev.setAlloc_rgn : (d.setAlloc n x).rgn = d.rgn := rfl
@[simp] theorem Dev.setAlloc_sealedDone : (d.setAlloc n x).sealedDone = d.sealedDone := rfl
@[simp] theorem Dev.setAlloc_sealedDue : (d.setAlloc n x).sealedDue = d.sealedDue := rfl
@[simp] theorem Dev.setAlloc_lateSaid : (d.setAlloc n x).lateSaid = d.lateSaid := rfl
@[simp] theorem Dev.setAlloc_net : (d.setAlloc n x).net = d.net := rfl
@[simp] theorem Dev.setAlloc_lyr0 : (d.setAlloc n x).lyr0 = d.lyr0 := rfl
@[simp] theorem Dev.setAlloc_lyr1 : (d.setAlloc n x).lyr1 = d.lyr1 := rfl
@[simp] theorem Dev.setAlloc_kiln : (d.setAlloc n x).kiln = d.kiln := rfl
@[simp] theorem Dev.setAlloc_pmb : (d.setAlloc n x).pmb = d.pmb := rfl
@[simp] theorem Dev.setAlloc_sinds : (d.setAlloc n x).sinds = d.sinds := rfl
@[simp] theorem Dev.setAlloc_boot : (d.setAlloc n x).boot = d.boot := rfl
@[simp] theorem Dev.setAlloc_svc : (d.setAlloc n x).svc = d.svc := rfl

end

section
variable (d : Dev) (n : Nat) (x : Port)

@[simp] theorem Dev.setPort_now : (d.setPort n x).now = d.now := rfl
@[simp] theorem Dev.setPort_fresh : (d.setPort n x).fresh = d.fresh := rfl
@[simp] theorem Dev.setPort_resp : (d.setPort n x).resp = d.resp := rfl
@[simp] theorem Dev.setPort_regs : (d.setPort n x).regs = d.regs := rfl
@[simp] theorem Dev.setPort_shadow : (d.setPort n x).shadow = d.shadow := rfl
@[simp] theorem Dev.setPort_vfs : (d.setPort n x).vfs = d.vfs := rfl
@[simp] theorem Dev.setPort_mps : (d.setPort n x).mps = d.mps := rfl
@[simp] theorem Dev.setPort_mrrs : (d.setPort n x).mrrs = d.mrrs := rfl
@[simp] theorem Dev.setPort_relaxed : (d.setPort n x).relaxed = d.relaxed := rfl
@[simp] theorem Dev.setPort_hostRate : (d.setPort n x).hostRate = d.hostRate := rfl
@[simp] theorem Dev.setPort_hostWidth : (d.setPort n x).hostWidth = d.hostWidth := rfl
@[simp] theorem Dev.setPort_evq : (d.setPort n x).evq = d.evq := rfl
@[simp] theorem Dev.setPort_dr : (d.setPort n x).dr = d.dr := rfl
@[simp] theorem Dev.setPort_sr : (d.setPort n x).sr = d.sr := rfl
@[simp] theorem Dev.setPort_toHost : (d.setPort n x).toHost = d.toHost := rfl
@[simp] theorem Dev.setPort_msix : (d.setPort n x).msix = d.msix := rfl
@[simp] theorem Dev.setPort_toLink : (d.setPort n x).toLink = d.toLink := rfl
@[simp] theorem Dev.setPort_wakes : (d.setPort n x).wakes = d.wakes := rfl
@[simp] theorem Dev.setPort_bufs : (d.setPort n x).bufs = d.bufs := rfl
@[simp] theorem Dev.setPort_tally : (d.setPort n x).tally = d.tally := rfl
@[simp] theorem Dev.setPort_client : (d.setPort n x).client = d.client := rfl
@[simp] theorem Dev.setPort_cmds : (d.setPort n x).cmds = d.cmds := rfl
@[simp] theorem Dev.setPort_nextCid : (d.setPort n x).nextCid = d.nextCid := rfl
@[simp] theorem Dev.setPort_grants : (d.setPort n x).grants = d.grants := rfl
@[simp] theorem Dev.setPort_lastRing : (d.setPort n x).lastRing = d.lastRing := rfl
@[simp] theorem Dev.setPort_held : (d.setPort n x).held = d.held := rfl
@[simp] theorem Dev.setPort_chains : (d.setPort n x).chains = d.chains := rfl
@[simp] theorem Dev.setPort_serve : (d.setPort n x).serve = d.serve := rfl
@[simp] theorem Dev.setPort_strapId : (d.setPort n x).strapId = d.strapId := rfl
@[simp] theorem Dev.setPort_strapLead : (d.setPort n x).strapLead = d.strapLead := rfl
@[simp] theorem Dev.setPort_cores : (d.setPort n x).cores = d.cores := rfl
@[simp] theorem Dev.setPort_saveImg : (d.setPort n x).saveImg = d.saveImg := rfl
@[simp] theorem Dev.setPort_poison : (d.setPort n x).poison = d.poison := rfl
@[simp] theorem Dev.setPort_dir : (d.setPort n x).dir = d.dir := rfl
@[simp] theorem Dev.setPort_l2 : (d.setPort n x).l2 = d.l2 := rfl
@[simp] theorem Dev.setPort_stores : (d.setPort n x).stores = d.stores := rfl
@[simp] theorem Dev.setPort_streams : (d.setPort n x).streams = d.streams := rfl
@[simp] theorem Dev.setPort_finals : (d.setPort n x).finals = d.finals := rfl
@[simp] theorem Dev.setPort_finalsQ : (d.setPort n x).finalsQ = d.finalsQ := rfl
@[simp] theorem Dev.setPort_staged : (d.setPort n x).staged = d.staged := rfl
@[simp] theorem Dev.setPort_reasons : (d.setPort n x).reasons = d.reasons := rfl
@[simp] theorem Dev.setPort_testing : (d.setPort n x).testing = d.testing := rfl
@[simp] theorem Dev.setPort_fwStress : (d.setPort n x).fwStress = d.fwStress := rfl
@[simp] theorem Dev.setPort_fwSuspect : (d.setPort n x).fwSuspect = d.fwSuspect := rfl
@[simp] theorem Dev.setPort_swaps : (d.setPort n x).swaps = d.swaps := rfl
@[simp] theorem Dev.setPort_bgOpen : (d.setPort n x).bgOpen = d.bgOpen := rfl
@[simp] theorem Dev.setPort_linkRetry : (d.setPort n x).linkRetry = d.linkRetry := rfl
@[simp] theorem Dev.setPort_suspects : (d.setPort n x).suspects = d.suspects := rfl
@[simp] theorem Dev.setPort_resetting : (d.setPort n x).resetting = d.resetting := rfl
@[simp] theorem Dev.setPort_rowCe : (d.setPort n x).rowCe = d.rowCe := rfl
@[simp] theorem Dev.setPort_rowBusy : (d.setPort n x).rowBusy = d.rowBusy := rfl
@[simp] theorem Dev.setPort_rowMap : (d.setPort n x).rowMap = d.rowMap := rfl
@[simp] theorem Dev.setPort_bankUsed : (d.setPort n x).bankUsed = d.bankUsed := rfl
@[simp] theorem Dev.setPort_bankSaid : (d.setPort n x).bankSaid = d.bankSaid := rfl
@[simp] theorem Dev.setPort_narrow : (d.setPort n x).narrow = d.narrow := rfl
@[simp] theorem Dev.setPort_slots : (d.setPort n x).slots = d.slots := rfl
@[simp] theorem Dev.setPort_heat : (d.setPort n x).heat = d.heat := rfl
@[simp] theorem Dev.setPort_sensorSaid : (d.setPort n x).sensorSaid = d.sensorSaid := rfl
@[simp] theorem Dev.setPort_floors : (d.setPort n x).floors = d.floors := rfl
@[simp] theorem Dev.setPort_rgn : (d.setPort n x).rgn = d.rgn := rfl
@[simp] theorem Dev.setPort_allocs : (d.setPort n x).allocs = d.allocs := rfl
@[simp] theorem Dev.setPort_sealedDone : (d.setPort n x).sealedDone = d.sealedDone := rfl
@[simp] theorem Dev.setPort_sealedDue : (d.setPort n x).sealedDue = d.sealedDue := rfl
@[simp] theorem Dev.setPort_lateSaid : (d.setPort n x).lateSaid = d.lateSaid := rfl
@[simp] theorem Dev.setPort_lyr0 : (d.setPort n x).lyr0 = d.lyr0 := rfl
@[simp] theorem Dev.setPort_lyr1 : (d.setPort n x).lyr1 = d.lyr1 := rfl
@[simp] theorem Dev.setPort_kiln : (d.setPort n x).kiln = d.kiln := rfl
@[simp] theorem Dev.setPort_pmb : (d.setPort n x).pmb = d.pmb := rfl
@[simp] theorem Dev.setPort_sinds : (d.setPort n x).sinds = d.sinds := rfl
@[simp] theorem Dev.setPort_boot : (d.setPort n x).boot = d.boot := rfl
@[simp] theorem Dev.setPort_svc : (d.setPort n x).svc = d.svc := rfl

end

section
variable (d : Dev) (x : Coll)

@[simp] theorem Dev.setColl_now : (d.setColl x).now = d.now := rfl
@[simp] theorem Dev.setColl_fresh : (d.setColl x).fresh = d.fresh := rfl
@[simp] theorem Dev.setColl_resp : (d.setColl x).resp = d.resp := rfl
@[simp] theorem Dev.setColl_regs : (d.setColl x).regs = d.regs := rfl
@[simp] theorem Dev.setColl_shadow : (d.setColl x).shadow = d.shadow := rfl
@[simp] theorem Dev.setColl_vfs : (d.setColl x).vfs = d.vfs := rfl
@[simp] theorem Dev.setColl_mps : (d.setColl x).mps = d.mps := rfl
@[simp] theorem Dev.setColl_mrrs : (d.setColl x).mrrs = d.mrrs := rfl
@[simp] theorem Dev.setColl_relaxed : (d.setColl x).relaxed = d.relaxed := rfl
@[simp] theorem Dev.setColl_hostRate : (d.setColl x).hostRate = d.hostRate := rfl
@[simp] theorem Dev.setColl_hostWidth : (d.setColl x).hostWidth = d.hostWidth := rfl
@[simp] theorem Dev.setColl_evq : (d.setColl x).evq = d.evq := rfl
@[simp] theorem Dev.setColl_dr : (d.setColl x).dr = d.dr := rfl
@[simp] theorem Dev.setColl_sr : (d.setColl x).sr = d.sr := rfl
@[simp] theorem Dev.setColl_toHost : (d.setColl x).toHost = d.toHost := rfl
@[simp] theorem Dev.setColl_msix : (d.setColl x).msix = d.msix := rfl
@[simp] theorem Dev.setColl_toLink : (d.setColl x).toLink = d.toLink := rfl
@[simp] theorem Dev.setColl_wakes : (d.setColl x).wakes = d.wakes := rfl
@[simp] theorem Dev.setColl_bufs : (d.setColl x).bufs = d.bufs := rfl
@[simp] theorem Dev.setColl_tally : (d.setColl x).tally = d.tally := rfl
@[simp] theorem Dev.setColl_client : (d.setColl x).client = d.client := rfl
@[simp] theorem Dev.setColl_cmds : (d.setColl x).cmds = d.cmds := rfl
@[simp] theorem Dev.setColl_nextCid : (d.setColl x).nextCid = d.nextCid := rfl
@[simp] theorem Dev.setColl_grants : (d.setColl x).grants = d.grants := rfl
@[simp] theorem Dev.setColl_lastRing : (d.setColl x).lastRing = d.lastRing := rfl
@[simp] theorem Dev.setColl_held : (d.setColl x).held = d.held := rfl
@[simp] theorem Dev.setColl_chains : (d.setColl x).chains = d.chains := rfl
@[simp] theorem Dev.setColl_serve : (d.setColl x).serve = d.serve := rfl
@[simp] theorem Dev.setColl_strapId : (d.setColl x).strapId = d.strapId := rfl
@[simp] theorem Dev.setColl_strapLead : (d.setColl x).strapLead = d.strapLead := rfl
@[simp] theorem Dev.setColl_cores : (d.setColl x).cores = d.cores := rfl
@[simp] theorem Dev.setColl_saveImg : (d.setColl x).saveImg = d.saveImg := rfl
@[simp] theorem Dev.setColl_poison : (d.setColl x).poison = d.poison := rfl
@[simp] theorem Dev.setColl_dir : (d.setColl x).dir = d.dir := rfl
@[simp] theorem Dev.setColl_l2 : (d.setColl x).l2 = d.l2 := rfl
@[simp] theorem Dev.setColl_stores : (d.setColl x).stores = d.stores := rfl
@[simp] theorem Dev.setColl_streams : (d.setColl x).streams = d.streams := rfl
@[simp] theorem Dev.setColl_finals : (d.setColl x).finals = d.finals := rfl
@[simp] theorem Dev.setColl_finalsQ : (d.setColl x).finalsQ = d.finalsQ := rfl
@[simp] theorem Dev.setColl_staged : (d.setColl x).staged = d.staged := rfl
@[simp] theorem Dev.setColl_reasons : (d.setColl x).reasons = d.reasons := rfl
@[simp] theorem Dev.setColl_testing : (d.setColl x).testing = d.testing := rfl
@[simp] theorem Dev.setColl_fwStress : (d.setColl x).fwStress = d.fwStress := rfl
@[simp] theorem Dev.setColl_fwSuspect : (d.setColl x).fwSuspect = d.fwSuspect := rfl
@[simp] theorem Dev.setColl_swaps : (d.setColl x).swaps = d.swaps := rfl
@[simp] theorem Dev.setColl_bgOpen : (d.setColl x).bgOpen = d.bgOpen := rfl
@[simp] theorem Dev.setColl_linkRetry : (d.setColl x).linkRetry = d.linkRetry := rfl
@[simp] theorem Dev.setColl_suspects : (d.setColl x).suspects = d.suspects := rfl
@[simp] theorem Dev.setColl_resetting : (d.setColl x).resetting = d.resetting := rfl
@[simp] theorem Dev.setColl_rowCe : (d.setColl x).rowCe = d.rowCe := rfl
@[simp] theorem Dev.setColl_rowBusy : (d.setColl x).rowBusy = d.rowBusy := rfl
@[simp] theorem Dev.setColl_rowMap : (d.setColl x).rowMap = d.rowMap := rfl
@[simp] theorem Dev.setColl_bankUsed : (d.setColl x).bankUsed = d.bankUsed := rfl
@[simp] theorem Dev.setColl_bankSaid : (d.setColl x).bankSaid = d.bankSaid := rfl
@[simp] theorem Dev.setColl_narrow : (d.setColl x).narrow = d.narrow := rfl
@[simp] theorem Dev.setColl_slots : (d.setColl x).slots = d.slots := rfl
@[simp] theorem Dev.setColl_heat : (d.setColl x).heat = d.heat := rfl
@[simp] theorem Dev.setColl_sensorSaid : (d.setColl x).sensorSaid = d.sensorSaid := rfl
@[simp] theorem Dev.setColl_floors : (d.setColl x).floors = d.floors := rfl
@[simp] theorem Dev.setColl_rgn : (d.setColl x).rgn = d.rgn := rfl
@[simp] theorem Dev.setColl_allocs : (d.setColl x).allocs = d.allocs := rfl
@[simp] theorem Dev.setColl_sealedDone : (d.setColl x).sealedDone = d.sealedDone := rfl
@[simp] theorem Dev.setColl_sealedDue : (d.setColl x).sealedDue = d.sealedDue := rfl
@[simp] theorem Dev.setColl_lateSaid : (d.setColl x).lateSaid = d.lateSaid := rfl
@[simp] theorem Dev.setColl_lyr0 : (d.setColl x).lyr0 = d.lyr0 := rfl
@[simp] theorem Dev.setColl_lyr1 : (d.setColl x).lyr1 = d.lyr1 := rfl
@[simp] theorem Dev.setColl_kiln : (d.setColl x).kiln = d.kiln := rfl
@[simp] theorem Dev.setColl_pmb : (d.setColl x).pmb = d.pmb := rfl
@[simp] theorem Dev.setColl_sinds : (d.setColl x).sinds = d.sinds := rfl
@[simp] theorem Dev.setColl_boot : (d.setColl x).boot = d.boot := rfl
@[simp] theorem Dev.setColl_svc : (d.setColl x).svc = d.svc := rfl

end

section
variable (d : Dev) (n k : Nat)

@[simp] theorem Dev.setLow_now : (d.setLow n k).now = d.now := rfl
@[simp] theorem Dev.setLow_fresh : (d.setLow n k).fresh = d.fresh := rfl
@[simp] theorem Dev.setLow_resp : (d.setLow n k).resp = d.resp := rfl
@[simp] theorem Dev.setLow_regs : (d.setLow n k).regs = d.regs := rfl
@[simp] theorem Dev.setLow_shadow : (d.setLow n k).shadow = d.shadow := rfl
@[simp] theorem Dev.setLow_vfs : (d.setLow n k).vfs = d.vfs := rfl
@[simp] theorem Dev.setLow_mps : (d.setLow n k).mps = d.mps := rfl
@[simp] theorem Dev.setLow_mrrs : (d.setLow n k).mrrs = d.mrrs := rfl
@[simp] theorem Dev.setLow_relaxed : (d.setLow n k).relaxed = d.relaxed := rfl
@[simp] theorem Dev.setLow_hostRate : (d.setLow n k).hostRate = d.hostRate := rfl
@[simp] theorem Dev.setLow_hostWidth : (d.setLow n k).hostWidth = d.hostWidth := rfl
@[simp] theorem Dev.setLow_evq : (d.setLow n k).evq = d.evq := rfl
@[simp] theorem Dev.setLow_dr : (d.setLow n k).dr = d.dr := rfl
@[simp] theorem Dev.setLow_sr : (d.setLow n k).sr = d.sr := rfl
@[simp] theorem Dev.setLow_toHost : (d.setLow n k).toHost = d.toHost := rfl
@[simp] theorem Dev.setLow_msix : (d.setLow n k).msix = d.msix := rfl
@[simp] theorem Dev.setLow_toLink : (d.setLow n k).toLink = d.toLink := rfl
@[simp] theorem Dev.setLow_wakes : (d.setLow n k).wakes = d.wakes := rfl
@[simp] theorem Dev.setLow_bufs : (d.setLow n k).bufs = d.bufs := rfl
@[simp] theorem Dev.setLow_tally : (d.setLow n k).tally = d.tally := rfl
@[simp] theorem Dev.setLow_client : (d.setLow n k).client = d.client := rfl
@[simp] theorem Dev.setLow_cmds : (d.setLow n k).cmds = d.cmds := rfl
@[simp] theorem Dev.setLow_nextCid : (d.setLow n k).nextCid = d.nextCid := rfl
@[simp] theorem Dev.setLow_grants : (d.setLow n k).grants = d.grants := rfl
@[simp] theorem Dev.setLow_lastRing : (d.setLow n k).lastRing = d.lastRing := rfl
@[simp] theorem Dev.setLow_held : (d.setLow n k).held = d.held := rfl
@[simp] theorem Dev.setLow_chains : (d.setLow n k).chains = d.chains := rfl
@[simp] theorem Dev.setLow_serve : (d.setLow n k).serve = d.serve := rfl
@[simp] theorem Dev.setLow_strapId : (d.setLow n k).strapId = d.strapId := rfl
@[simp] theorem Dev.setLow_strapLead : (d.setLow n k).strapLead = d.strapLead := rfl
@[simp] theorem Dev.setLow_cores : (d.setLow n k).cores = d.cores := rfl
@[simp] theorem Dev.setLow_saveImg : (d.setLow n k).saveImg = d.saveImg := rfl
@[simp] theorem Dev.setLow_poison : (d.setLow n k).poison = d.poison := rfl
@[simp] theorem Dev.setLow_dir : (d.setLow n k).dir = d.dir := rfl
@[simp] theorem Dev.setLow_l2 : (d.setLow n k).l2 = d.l2 := rfl
@[simp] theorem Dev.setLow_stores : (d.setLow n k).stores = d.stores := rfl
@[simp] theorem Dev.setLow_streams : (d.setLow n k).streams = d.streams := rfl
@[simp] theorem Dev.setLow_finals : (d.setLow n k).finals = d.finals := rfl
@[simp] theorem Dev.setLow_finalsQ : (d.setLow n k).finalsQ = d.finalsQ := rfl
@[simp] theorem Dev.setLow_staged : (d.setLow n k).staged = d.staged := rfl
@[simp] theorem Dev.setLow_reasons : (d.setLow n k).reasons = d.reasons := rfl
@[simp] theorem Dev.setLow_testing : (d.setLow n k).testing = d.testing := rfl
@[simp] theorem Dev.setLow_fwStress : (d.setLow n k).fwStress = d.fwStress := rfl
@[simp] theorem Dev.setLow_fwSuspect : (d.setLow n k).fwSuspect = d.fwSuspect := rfl
@[simp] theorem Dev.setLow_swaps : (d.setLow n k).swaps = d.swaps := rfl
@[simp] theorem Dev.setLow_bgOpen : (d.setLow n k).bgOpen = d.bgOpen := rfl
@[simp] theorem Dev.setLow_linkRetry : (d.setLow n k).linkRetry = d.linkRetry := rfl
@[simp] theorem Dev.setLow_suspects : (d.setLow n k).suspects = d.suspects := rfl
@[simp] theorem Dev.setLow_resetting : (d.setLow n k).resetting = d.resetting := rfl
@[simp] theorem Dev.setLow_rowCe : (d.setLow n k).rowCe = d.rowCe := rfl
@[simp] theorem Dev.setLow_rowBusy : (d.setLow n k).rowBusy = d.rowBusy := rfl
@[simp] theorem Dev.setLow_rowMap : (d.setLow n k).rowMap = d.rowMap := rfl
@[simp] theorem Dev.setLow_bankUsed : (d.setLow n k).bankUsed = d.bankUsed := rfl
@[simp] theorem Dev.setLow_bankSaid : (d.setLow n k).bankSaid = d.bankSaid := rfl
@[simp] theorem Dev.setLow_narrow : (d.setLow n k).narrow = d.narrow := rfl
@[simp] theorem Dev.setLow_slots : (d.setLow n k).slots = d.slots := rfl
@[simp] theorem Dev.setLow_heat : (d.setLow n k).heat = d.heat := rfl
@[simp] theorem Dev.setLow_sensorSaid : (d.setLow n k).sensorSaid = d.sensorSaid := rfl
@[simp] theorem Dev.setLow_floors : (d.setLow n k).floors = d.floors := rfl
@[simp] theorem Dev.setLow_rgn : (d.setLow n k).rgn = d.rgn := rfl
@[simp] theorem Dev.setLow_allocs : (d.setLow n k).allocs = d.allocs := rfl
@[simp] theorem Dev.setLow_sealedDone : (d.setLow n k).sealedDone = d.sealedDone := rfl
@[simp] theorem Dev.setLow_sealedDue : (d.setLow n k).sealedDue = d.sealedDue := rfl
@[simp] theorem Dev.setLow_lateSaid : (d.setLow n k).lateSaid = d.lateSaid := rfl
@[simp] theorem Dev.setLow_net : (d.setLow n k).net = d.net := rfl
@[simp] theorem Dev.setLow_lyr0 : (d.setLow n k).lyr0 = d.lyr0 := rfl
@[simp] theorem Dev.setLow_lyr1 : (d.setLow n k).lyr1 = d.lyr1 := rfl
@[simp] theorem Dev.setLow_pmb : (d.setLow n k).pmb = d.pmb := rfl
@[simp] theorem Dev.setLow_sinds : (d.setLow n k).sinds = d.sinds := rfl
@[simp] theorem Dev.setLow_boot : (d.setLow n k).boot = d.boot := rfl
@[simp] theorem Dev.setLow_svc : (d.setLow n k).svc = d.svc := rfl

end

section
variable (d : Dev) (n : Nat) (x : Droop)

@[simp] theorem Dev.setDroop_now : (d.setDroop n x).now = d.now := rfl
@[simp] theorem Dev.setDroop_fresh : (d.setDroop n x).fresh = d.fresh := rfl
@[simp] theorem Dev.setDroop_resp : (d.setDroop n x).resp = d.resp := rfl
@[simp] theorem Dev.setDroop_regs : (d.setDroop n x).regs = d.regs := rfl
@[simp] theorem Dev.setDroop_shadow : (d.setDroop n x).shadow = d.shadow := rfl
@[simp] theorem Dev.setDroop_vfs : (d.setDroop n x).vfs = d.vfs := rfl
@[simp] theorem Dev.setDroop_mps : (d.setDroop n x).mps = d.mps := rfl
@[simp] theorem Dev.setDroop_mrrs : (d.setDroop n x).mrrs = d.mrrs := rfl
@[simp] theorem Dev.setDroop_relaxed : (d.setDroop n x).relaxed = d.relaxed := rfl
@[simp] theorem Dev.setDroop_hostRate : (d.setDroop n x).hostRate = d.hostRate := rfl
@[simp] theorem Dev.setDroop_hostWidth : (d.setDroop n x).hostWidth = d.hostWidth := rfl
@[simp] theorem Dev.setDroop_evq : (d.setDroop n x).evq = d.evq := rfl
@[simp] theorem Dev.setDroop_dr : (d.setDroop n x).dr = d.dr := rfl
@[simp] theorem Dev.setDroop_sr : (d.setDroop n x).sr = d.sr := rfl
@[simp] theorem Dev.setDroop_toHost : (d.setDroop n x).toHost = d.toHost := rfl
@[simp] theorem Dev.setDroop_msix : (d.setDroop n x).msix = d.msix := rfl
@[simp] theorem Dev.setDroop_toLink : (d.setDroop n x).toLink = d.toLink := rfl
@[simp] theorem Dev.setDroop_wakes : (d.setDroop n x).wakes = d.wakes := rfl
@[simp] theorem Dev.setDroop_bufs : (d.setDroop n x).bufs = d.bufs := rfl
@[simp] theorem Dev.setDroop_tally : (d.setDroop n x).tally = d.tally := rfl
@[simp] theorem Dev.setDroop_client : (d.setDroop n x).client = d.client := rfl
@[simp] theorem Dev.setDroop_cmds : (d.setDroop n x).cmds = d.cmds := rfl
@[simp] theorem Dev.setDroop_nextCid : (d.setDroop n x).nextCid = d.nextCid := rfl
@[simp] theorem Dev.setDroop_grants : (d.setDroop n x).grants = d.grants := rfl
@[simp] theorem Dev.setDroop_lastRing : (d.setDroop n x).lastRing = d.lastRing := rfl
@[simp] theorem Dev.setDroop_held : (d.setDroop n x).held = d.held := rfl
@[simp] theorem Dev.setDroop_chains : (d.setDroop n x).chains = d.chains := rfl
@[simp] theorem Dev.setDroop_serve : (d.setDroop n x).serve = d.serve := rfl
@[simp] theorem Dev.setDroop_strapId : (d.setDroop n x).strapId = d.strapId := rfl
@[simp] theorem Dev.setDroop_strapLead : (d.setDroop n x).strapLead = d.strapLead := rfl
@[simp] theorem Dev.setDroop_cores : (d.setDroop n x).cores = d.cores := rfl
@[simp] theorem Dev.setDroop_saveImg : (d.setDroop n x).saveImg = d.saveImg := rfl
@[simp] theorem Dev.setDroop_poison : (d.setDroop n x).poison = d.poison := rfl
@[simp] theorem Dev.setDroop_dir : (d.setDroop n x).dir = d.dir := rfl
@[simp] theorem Dev.setDroop_l2 : (d.setDroop n x).l2 = d.l2 := rfl
@[simp] theorem Dev.setDroop_stores : (d.setDroop n x).stores = d.stores := rfl
@[simp] theorem Dev.setDroop_streams : (d.setDroop n x).streams = d.streams := rfl
@[simp] theorem Dev.setDroop_finals : (d.setDroop n x).finals = d.finals := rfl
@[simp] theorem Dev.setDroop_finalsQ : (d.setDroop n x).finalsQ = d.finalsQ := rfl
@[simp] theorem Dev.setDroop_staged : (d.setDroop n x).staged = d.staged := rfl
@[simp] theorem Dev.setDroop_reasons : (d.setDroop n x).reasons = d.reasons := rfl
@[simp] theorem Dev.setDroop_testing : (d.setDroop n x).testing = d.testing := rfl
@[simp] theorem Dev.setDroop_fwStress : (d.setDroop n x).fwStress = d.fwStress := rfl
@[simp] theorem Dev.setDroop_fwSuspect : (d.setDroop n x).fwSuspect = d.fwSuspect := rfl
@[simp] theorem Dev.setDroop_swaps : (d.setDroop n x).swaps = d.swaps := rfl
@[simp] theorem Dev.setDroop_bgOpen : (d.setDroop n x).bgOpen = d.bgOpen := rfl
@[simp] theorem Dev.setDroop_linkRetry : (d.setDroop n x).linkRetry = d.linkRetry := rfl
@[simp] theorem Dev.setDroop_suspects : (d.setDroop n x).suspects = d.suspects := rfl
@[simp] theorem Dev.setDroop_resetting : (d.setDroop n x).resetting = d.resetting := rfl
@[simp] theorem Dev.setDroop_rowCe : (d.setDroop n x).rowCe = d.rowCe := rfl
@[simp] theorem Dev.setDroop_rowBusy : (d.setDroop n x).rowBusy = d.rowBusy := rfl
@[simp] theorem Dev.setDroop_rowMap : (d.setDroop n x).rowMap = d.rowMap := rfl
@[simp] theorem Dev.setDroop_bankUsed : (d.setDroop n x).bankUsed = d.bankUsed := rfl
@[simp] theorem Dev.setDroop_bankSaid : (d.setDroop n x).bankSaid = d.bankSaid := rfl
@[simp] theorem Dev.setDroop_narrow : (d.setDroop n x).narrow = d.narrow := rfl
@[simp] theorem Dev.setDroop_slots : (d.setDroop n x).slots = d.slots := rfl
@[simp] theorem Dev.setDroop_heat : (d.setDroop n x).heat = d.heat := rfl
@[simp] theorem Dev.setDroop_sensorSaid : (d.setDroop n x).sensorSaid = d.sensorSaid := rfl
@[simp] theorem Dev.setDroop_floors : (d.setDroop n x).floors = d.floors := rfl
@[simp] theorem Dev.setDroop_rgn : (d.setDroop n x).rgn = d.rgn := rfl
@[simp] theorem Dev.setDroop_allocs : (d.setDroop n x).allocs = d.allocs := rfl
@[simp] theorem Dev.setDroop_sealedDone : (d.setDroop n x).sealedDone = d.sealedDone := rfl
@[simp] theorem Dev.setDroop_sealedDue : (d.setDroop n x).sealedDue = d.sealedDue := rfl
@[simp] theorem Dev.setDroop_lateSaid : (d.setDroop n x).lateSaid = d.lateSaid := rfl
@[simp] theorem Dev.setDroop_net : (d.setDroop n x).net = d.net := rfl
@[simp] theorem Dev.setDroop_lyr0 : (d.setDroop n x).lyr0 = d.lyr0 := rfl
@[simp] theorem Dev.setDroop_lyr1 : (d.setDroop n x).lyr1 = d.lyr1 := rfl
@[simp] theorem Dev.setDroop_pmb : (d.setDroop n x).pmb = d.pmb := rfl
@[simp] theorem Dev.setDroop_sinds : (d.setDroop n x).sinds = d.sinds := rfl
@[simp] theorem Dev.setDroop_boot : (d.setDroop n x).boot = d.boot := rfl
@[simp] theorem Dev.setDroop_svc : (d.setDroop n x).svc = d.svc := rfl

end

section
variable (d : Dev) (n : Nat) (x : VrIn)

@[simp] theorem Dev.setVr_now : (d.setVr n x).now = d.now := rfl
@[simp] theorem Dev.setVr_fresh : (d.setVr n x).fresh = d.fresh := rfl
@[simp] theorem Dev.setVr_resp : (d.setVr n x).resp = d.resp := rfl
@[simp] theorem Dev.setVr_regs : (d.setVr n x).regs = d.regs := rfl
@[simp] theorem Dev.setVr_shadow : (d.setVr n x).shadow = d.shadow := rfl
@[simp] theorem Dev.setVr_vfs : (d.setVr n x).vfs = d.vfs := rfl
@[simp] theorem Dev.setVr_mps : (d.setVr n x).mps = d.mps := rfl
@[simp] theorem Dev.setVr_mrrs : (d.setVr n x).mrrs = d.mrrs := rfl
@[simp] theorem Dev.setVr_relaxed : (d.setVr n x).relaxed = d.relaxed := rfl
@[simp] theorem Dev.setVr_hostRate : (d.setVr n x).hostRate = d.hostRate := rfl
@[simp] theorem Dev.setVr_hostWidth : (d.setVr n x).hostWidth = d.hostWidth := rfl
@[simp] theorem Dev.setVr_evq : (d.setVr n x).evq = d.evq := rfl
@[simp] theorem Dev.setVr_dr : (d.setVr n x).dr = d.dr := rfl
@[simp] theorem Dev.setVr_sr : (d.setVr n x).sr = d.sr := rfl
@[simp] theorem Dev.setVr_toHost : (d.setVr n x).toHost = d.toHost := rfl
@[simp] theorem Dev.setVr_msix : (d.setVr n x).msix = d.msix := rfl
@[simp] theorem Dev.setVr_toLink : (d.setVr n x).toLink = d.toLink := rfl
@[simp] theorem Dev.setVr_wakes : (d.setVr n x).wakes = d.wakes := rfl
@[simp] theorem Dev.setVr_bufs : (d.setVr n x).bufs = d.bufs := rfl
@[simp] theorem Dev.setVr_tally : (d.setVr n x).tally = d.tally := rfl
@[simp] theorem Dev.setVr_client : (d.setVr n x).client = d.client := rfl
@[simp] theorem Dev.setVr_cmds : (d.setVr n x).cmds = d.cmds := rfl
@[simp] theorem Dev.setVr_nextCid : (d.setVr n x).nextCid = d.nextCid := rfl
@[simp] theorem Dev.setVr_grants : (d.setVr n x).grants = d.grants := rfl
@[simp] theorem Dev.setVr_lastRing : (d.setVr n x).lastRing = d.lastRing := rfl
@[simp] theorem Dev.setVr_held : (d.setVr n x).held = d.held := rfl
@[simp] theorem Dev.setVr_chains : (d.setVr n x).chains = d.chains := rfl
@[simp] theorem Dev.setVr_serve : (d.setVr n x).serve = d.serve := rfl
@[simp] theorem Dev.setVr_strapId : (d.setVr n x).strapId = d.strapId := rfl
@[simp] theorem Dev.setVr_strapLead : (d.setVr n x).strapLead = d.strapLead := rfl
@[simp] theorem Dev.setVr_cores : (d.setVr n x).cores = d.cores := rfl
@[simp] theorem Dev.setVr_saveImg : (d.setVr n x).saveImg = d.saveImg := rfl
@[simp] theorem Dev.setVr_poison : (d.setVr n x).poison = d.poison := rfl
@[simp] theorem Dev.setVr_dir : (d.setVr n x).dir = d.dir := rfl
@[simp] theorem Dev.setVr_l2 : (d.setVr n x).l2 = d.l2 := rfl
@[simp] theorem Dev.setVr_stores : (d.setVr n x).stores = d.stores := rfl
@[simp] theorem Dev.setVr_streams : (d.setVr n x).streams = d.streams := rfl
@[simp] theorem Dev.setVr_finals : (d.setVr n x).finals = d.finals := rfl
@[simp] theorem Dev.setVr_finalsQ : (d.setVr n x).finalsQ = d.finalsQ := rfl
@[simp] theorem Dev.setVr_staged : (d.setVr n x).staged = d.staged := rfl
@[simp] theorem Dev.setVr_reasons : (d.setVr n x).reasons = d.reasons := rfl
@[simp] theorem Dev.setVr_testing : (d.setVr n x).testing = d.testing := rfl
@[simp] theorem Dev.setVr_fwStress : (d.setVr n x).fwStress = d.fwStress := rfl
@[simp] theorem Dev.setVr_fwSuspect : (d.setVr n x).fwSuspect = d.fwSuspect := rfl
@[simp] theorem Dev.setVr_swaps : (d.setVr n x).swaps = d.swaps := rfl
@[simp] theorem Dev.setVr_bgOpen : (d.setVr n x).bgOpen = d.bgOpen := rfl
@[simp] theorem Dev.setVr_linkRetry : (d.setVr n x).linkRetry = d.linkRetry := rfl
@[simp] theorem Dev.setVr_suspects : (d.setVr n x).suspects = d.suspects := rfl
@[simp] theorem Dev.setVr_resetting : (d.setVr n x).resetting = d.resetting := rfl
@[simp] theorem Dev.setVr_rowCe : (d.setVr n x).rowCe = d.rowCe := rfl
@[simp] theorem Dev.setVr_rowBusy : (d.setVr n x).rowBusy = d.rowBusy := rfl
@[simp] theorem Dev.setVr_rowMap : (d.setVr n x).rowMap = d.rowMap := rfl
@[simp] theorem Dev.setVr_bankUsed : (d.setVr n x).bankUsed = d.bankUsed := rfl
@[simp] theorem Dev.setVr_bankSaid : (d.setVr n x).bankSaid = d.bankSaid := rfl
@[simp] theorem Dev.setVr_narrow : (d.setVr n x).narrow = d.narrow := rfl
@[simp] theorem Dev.setVr_slots : (d.setVr n x).slots = d.slots := rfl
@[simp] theorem Dev.setVr_heat : (d.setVr n x).heat = d.heat := rfl
@[simp] theorem Dev.setVr_sensorSaid : (d.setVr n x).sensorSaid = d.sensorSaid := rfl
@[simp] theorem Dev.setVr_floors : (d.setVr n x).floors = d.floors := rfl
@[simp] theorem Dev.setVr_rgn : (d.setVr n x).rgn = d.rgn := rfl
@[simp] theorem Dev.setVr_allocs : (d.setVr n x).allocs = d.allocs := rfl
@[simp] theorem Dev.setVr_sealedDone : (d.setVr n x).sealedDone = d.sealedDone := rfl
@[simp] theorem Dev.setVr_sealedDue : (d.setVr n x).sealedDue = d.sealedDue := rfl
@[simp] theorem Dev.setVr_lateSaid : (d.setVr n x).lateSaid = d.lateSaid := rfl
@[simp] theorem Dev.setVr_net : (d.setVr n x).net = d.net := rfl
@[simp] theorem Dev.setVr_lyr0 : (d.setVr n x).lyr0 = d.lyr0 := rfl
@[simp] theorem Dev.setVr_lyr1 : (d.setVr n x).lyr1 = d.lyr1 := rfl
@[simp] theorem Dev.setVr_pmb : (d.setVr n x).pmb = d.pmb := rfl
@[simp] theorem Dev.setVr_sinds : (d.setVr n x).sinds = d.sinds := rfl
@[simp] theorem Dev.setVr_boot : (d.setVr n x).boot = d.boot := rfl
@[simp] theorem Dev.setVr_svc : (d.setVr n x).svc = d.svc := rfl

end

section
variable (d : Dev) (n : Nat) (x : Sind)

@[simp] theorem Dev.setSind_now : (d.setSind n x).now = d.now := rfl
@[simp] theorem Dev.setSind_fresh : (d.setSind n x).fresh = d.fresh := rfl
@[simp] theorem Dev.setSind_resp : (d.setSind n x).resp = d.resp := rfl
@[simp] theorem Dev.setSind_regs : (d.setSind n x).regs = d.regs := rfl
@[simp] theorem Dev.setSind_shadow : (d.setSind n x).shadow = d.shadow := rfl
@[simp] theorem Dev.setSind_vfs : (d.setSind n x).vfs = d.vfs := rfl
@[simp] theorem Dev.setSind_mps : (d.setSind n x).mps = d.mps := rfl
@[simp] theorem Dev.setSind_mrrs : (d.setSind n x).mrrs = d.mrrs := rfl
@[simp] theorem Dev.setSind_relaxed : (d.setSind n x).relaxed = d.relaxed := rfl
@[simp] theorem Dev.setSind_hostRate : (d.setSind n x).hostRate = d.hostRate := rfl
@[simp] theorem Dev.setSind_hostWidth : (d.setSind n x).hostWidth = d.hostWidth := rfl
@[simp] theorem Dev.setSind_evq : (d.setSind n x).evq = d.evq := rfl
@[simp] theorem Dev.setSind_dr : (d.setSind n x).dr = d.dr := rfl
@[simp] theorem Dev.setSind_sr : (d.setSind n x).sr = d.sr := rfl
@[simp] theorem Dev.setSind_toHost : (d.setSind n x).toHost = d.toHost := rfl
@[simp] theorem Dev.setSind_msix : (d.setSind n x).msix = d.msix := rfl
@[simp] theorem Dev.setSind_toLink : (d.setSind n x).toLink = d.toLink := rfl
@[simp] theorem Dev.setSind_wakes : (d.setSind n x).wakes = d.wakes := rfl
@[simp] theorem Dev.setSind_bufs : (d.setSind n x).bufs = d.bufs := rfl
@[simp] theorem Dev.setSind_tally : (d.setSind n x).tally = d.tally := rfl
@[simp] theorem Dev.setSind_client : (d.setSind n x).client = d.client := rfl
@[simp] theorem Dev.setSind_cmds : (d.setSind n x).cmds = d.cmds := rfl
@[simp] theorem Dev.setSind_nextCid : (d.setSind n x).nextCid = d.nextCid := rfl
@[simp] theorem Dev.setSind_grants : (d.setSind n x).grants = d.grants := rfl
@[simp] theorem Dev.setSind_lastRing : (d.setSind n x).lastRing = d.lastRing := rfl
@[simp] theorem Dev.setSind_held : (d.setSind n x).held = d.held := rfl
@[simp] theorem Dev.setSind_chains : (d.setSind n x).chains = d.chains := rfl
@[simp] theorem Dev.setSind_serve : (d.setSind n x).serve = d.serve := rfl
@[simp] theorem Dev.setSind_strapId : (d.setSind n x).strapId = d.strapId := rfl
@[simp] theorem Dev.setSind_strapLead : (d.setSind n x).strapLead = d.strapLead := rfl
@[simp] theorem Dev.setSind_cores : (d.setSind n x).cores = d.cores := rfl
@[simp] theorem Dev.setSind_saveImg : (d.setSind n x).saveImg = d.saveImg := rfl
@[simp] theorem Dev.setSind_poison : (d.setSind n x).poison = d.poison := rfl
@[simp] theorem Dev.setSind_dir : (d.setSind n x).dir = d.dir := rfl
@[simp] theorem Dev.setSind_l2 : (d.setSind n x).l2 = d.l2 := rfl
@[simp] theorem Dev.setSind_stores : (d.setSind n x).stores = d.stores := rfl
@[simp] theorem Dev.setSind_streams : (d.setSind n x).streams = d.streams := rfl
@[simp] theorem Dev.setSind_finals : (d.setSind n x).finals = d.finals := rfl
@[simp] theorem Dev.setSind_finalsQ : (d.setSind n x).finalsQ = d.finalsQ := rfl
@[simp] theorem Dev.setSind_staged : (d.setSind n x).staged = d.staged := rfl
@[simp] theorem Dev.setSind_reasons : (d.setSind n x).reasons = d.reasons := rfl
@[simp] theorem Dev.setSind_testing : (d.setSind n x).testing = d.testing := rfl
@[simp] theorem Dev.setSind_fwStress : (d.setSind n x).fwStress = d.fwStress := rfl
@[simp] theorem Dev.setSind_fwSuspect : (d.setSind n x).fwSuspect = d.fwSuspect := rfl
@[simp] theorem Dev.setSind_swaps : (d.setSind n x).swaps = d.swaps := rfl
@[simp] theorem Dev.setSind_bgOpen : (d.setSind n x).bgOpen = d.bgOpen := rfl
@[simp] theorem Dev.setSind_linkRetry : (d.setSind n x).linkRetry = d.linkRetry := rfl
@[simp] theorem Dev.setSind_suspects : (d.setSind n x).suspects = d.suspects := rfl
@[simp] theorem Dev.setSind_resetting : (d.setSind n x).resetting = d.resetting := rfl
@[simp] theorem Dev.setSind_rowCe : (d.setSind n x).rowCe = d.rowCe := rfl
@[simp] theorem Dev.setSind_rowBusy : (d.setSind n x).rowBusy = d.rowBusy := rfl
@[simp] theorem Dev.setSind_rowMap : (d.setSind n x).rowMap = d.rowMap := rfl
@[simp] theorem Dev.setSind_bankUsed : (d.setSind n x).bankUsed = d.bankUsed := rfl
@[simp] theorem Dev.setSind_bankSaid : (d.setSind n x).bankSaid = d.bankSaid := rfl
@[simp] theorem Dev.setSind_narrow : (d.setSind n x).narrow = d.narrow := rfl
@[simp] theorem Dev.setSind_slots : (d.setSind n x).slots = d.slots := rfl
@[simp] theorem Dev.setSind_heat : (d.setSind n x).heat = d.heat := rfl
@[simp] theorem Dev.setSind_sensorSaid : (d.setSind n x).sensorSaid = d.sensorSaid := rfl
@[simp] theorem Dev.setSind_floors : (d.setSind n x).floors = d.floors := rfl
@[simp] theorem Dev.setSind_rgn : (d.setSind n x).rgn = d.rgn := rfl
@[simp] theorem Dev.setSind_allocs : (d.setSind n x).allocs = d.allocs := rfl
@[simp] theorem Dev.setSind_sealedDone : (d.setSind n x).sealedDone = d.sealedDone := rfl
@[simp] theorem Dev.setSind_sealedDue : (d.setSind n x).sealedDue = d.sealedDue := rfl
@[simp] theorem Dev.setSind_lateSaid : (d.setSind n x).lateSaid = d.lateSaid := rfl
@[simp] theorem Dev.setSind_net : (d.setSind n x).net = d.net := rfl
@[simp] theorem Dev.setSind_lyr0 : (d.setSind n x).lyr0 = d.lyr0 := rfl
@[simp] theorem Dev.setSind_lyr1 : (d.setSind n x).lyr1 = d.lyr1 := rfl
@[simp] theorem Dev.setSind_kiln : (d.setSind n x).kiln = d.kiln := rfl
@[simp] theorem Dev.setSind_pmb : (d.setSind n x).pmb = d.pmb := rfl
@[simp] theorem Dev.setSind_boot : (d.setSind n x).boot = d.boot := rfl
@[simp] theorem Dev.setSind_svc : (d.setSind n x).svc = d.svc := rfl

end

section
variable (d : Dev) (x : FwCopy)

@[simp] theorem Dev.setSpareCopy_now : (d.setSpareCopy x).now = d.now := rfl
@[simp] theorem Dev.setSpareCopy_fresh : (d.setSpareCopy x).fresh = d.fresh := rfl
@[simp] theorem Dev.setSpareCopy_resp : (d.setSpareCopy x).resp = d.resp := rfl
@[simp] theorem Dev.setSpareCopy_regs : (d.setSpareCopy x).regs = d.regs := rfl
@[simp] theorem Dev.setSpareCopy_shadow : (d.setSpareCopy x).shadow = d.shadow := rfl
@[simp] theorem Dev.setSpareCopy_vfs : (d.setSpareCopy x).vfs = d.vfs := rfl
@[simp] theorem Dev.setSpareCopy_mps : (d.setSpareCopy x).mps = d.mps := rfl
@[simp] theorem Dev.setSpareCopy_mrrs : (d.setSpareCopy x).mrrs = d.mrrs := rfl
@[simp] theorem Dev.setSpareCopy_relaxed : (d.setSpareCopy x).relaxed = d.relaxed := rfl
@[simp] theorem Dev.setSpareCopy_hostRate : (d.setSpareCopy x).hostRate = d.hostRate := rfl
@[simp] theorem Dev.setSpareCopy_hostWidth : (d.setSpareCopy x).hostWidth = d.hostWidth := rfl
@[simp] theorem Dev.setSpareCopy_evq : (d.setSpareCopy x).evq = d.evq := rfl
@[simp] theorem Dev.setSpareCopy_dr : (d.setSpareCopy x).dr = d.dr := rfl
@[simp] theorem Dev.setSpareCopy_sr : (d.setSpareCopy x).sr = d.sr := rfl
@[simp] theorem Dev.setSpareCopy_toHost : (d.setSpareCopy x).toHost = d.toHost := rfl
@[simp] theorem Dev.setSpareCopy_msix : (d.setSpareCopy x).msix = d.msix := rfl
@[simp] theorem Dev.setSpareCopy_toLink : (d.setSpareCopy x).toLink = d.toLink := rfl
@[simp] theorem Dev.setSpareCopy_wakes : (d.setSpareCopy x).wakes = d.wakes := rfl
@[simp] theorem Dev.setSpareCopy_bufs : (d.setSpareCopy x).bufs = d.bufs := rfl
@[simp] theorem Dev.setSpareCopy_tally : (d.setSpareCopy x).tally = d.tally := rfl
@[simp] theorem Dev.setSpareCopy_client : (d.setSpareCopy x).client = d.client := rfl
@[simp] theorem Dev.setSpareCopy_cmds : (d.setSpareCopy x).cmds = d.cmds := rfl
@[simp] theorem Dev.setSpareCopy_nextCid : (d.setSpareCopy x).nextCid = d.nextCid := rfl
@[simp] theorem Dev.setSpareCopy_grants : (d.setSpareCopy x).grants = d.grants := rfl
@[simp] theorem Dev.setSpareCopy_lastRing : (d.setSpareCopy x).lastRing = d.lastRing := rfl
@[simp] theorem Dev.setSpareCopy_held : (d.setSpareCopy x).held = d.held := rfl
@[simp] theorem Dev.setSpareCopy_chains : (d.setSpareCopy x).chains = d.chains := rfl
@[simp] theorem Dev.setSpareCopy_serve : (d.setSpareCopy x).serve = d.serve := rfl
@[simp] theorem Dev.setSpareCopy_strapId : (d.setSpareCopy x).strapId = d.strapId := rfl
@[simp] theorem Dev.setSpareCopy_strapLead : (d.setSpareCopy x).strapLead = d.strapLead := rfl
@[simp] theorem Dev.setSpareCopy_cores : (d.setSpareCopy x).cores = d.cores := rfl
@[simp] theorem Dev.setSpareCopy_saveImg : (d.setSpareCopy x).saveImg = d.saveImg := rfl
@[simp] theorem Dev.setSpareCopy_poison : (d.setSpareCopy x).poison = d.poison := rfl
@[simp] theorem Dev.setSpareCopy_dir : (d.setSpareCopy x).dir = d.dir := rfl
@[simp] theorem Dev.setSpareCopy_l2 : (d.setSpareCopy x).l2 = d.l2 := rfl
@[simp] theorem Dev.setSpareCopy_stores : (d.setSpareCopy x).stores = d.stores := rfl
@[simp] theorem Dev.setSpareCopy_streams : (d.setSpareCopy x).streams = d.streams := rfl
@[simp] theorem Dev.setSpareCopy_finals : (d.setSpareCopy x).finals = d.finals := rfl
@[simp] theorem Dev.setSpareCopy_finalsQ : (d.setSpareCopy x).finalsQ = d.finalsQ := rfl
@[simp] theorem Dev.setSpareCopy_staged : (d.setSpareCopy x).staged = d.staged := rfl
@[simp] theorem Dev.setSpareCopy_reasons : (d.setSpareCopy x).reasons = d.reasons := rfl
@[simp] theorem Dev.setSpareCopy_testing : (d.setSpareCopy x).testing = d.testing := rfl
@[simp] theorem Dev.setSpareCopy_fwStress : (d.setSpareCopy x).fwStress = d.fwStress := rfl
@[simp] theorem Dev.setSpareCopy_fwSuspect : (d.setSpareCopy x).fwSuspect = d.fwSuspect := rfl
@[simp] theorem Dev.setSpareCopy_swaps : (d.setSpareCopy x).swaps = d.swaps := rfl
@[simp] theorem Dev.setSpareCopy_bgOpen : (d.setSpareCopy x).bgOpen = d.bgOpen := rfl
@[simp] theorem Dev.setSpareCopy_linkRetry : (d.setSpareCopy x).linkRetry = d.linkRetry := rfl
@[simp] theorem Dev.setSpareCopy_suspects : (d.setSpareCopy x).suspects = d.suspects := rfl
@[simp] theorem Dev.setSpareCopy_resetting : (d.setSpareCopy x).resetting = d.resetting := rfl
@[simp] theorem Dev.setSpareCopy_rowCe : (d.setSpareCopy x).rowCe = d.rowCe := rfl
@[simp] theorem Dev.setSpareCopy_rowBusy : (d.setSpareCopy x).rowBusy = d.rowBusy := rfl
@[simp] theorem Dev.setSpareCopy_rowMap : (d.setSpareCopy x).rowMap = d.rowMap := rfl
@[simp] theorem Dev.setSpareCopy_bankUsed : (d.setSpareCopy x).bankUsed = d.bankUsed := rfl
@[simp] theorem Dev.setSpareCopy_bankSaid : (d.setSpareCopy x).bankSaid = d.bankSaid := rfl
@[simp] theorem Dev.setSpareCopy_narrow : (d.setSpareCopy x).narrow = d.narrow := rfl
@[simp] theorem Dev.setSpareCopy_slots : (d.setSpareCopy x).slots = d.slots := rfl
@[simp] theorem Dev.setSpareCopy_heat : (d.setSpareCopy x).heat = d.heat := rfl
@[simp] theorem Dev.setSpareCopy_sensorSaid : (d.setSpareCopy x).sensorSaid = d.sensorSaid := rfl
@[simp] theorem Dev.setSpareCopy_floors : (d.setSpareCopy x).floors = d.floors := rfl
@[simp] theorem Dev.setSpareCopy_rgn : (d.setSpareCopy x).rgn = d.rgn := rfl
@[simp] theorem Dev.setSpareCopy_allocs : (d.setSpareCopy x).allocs = d.allocs := rfl
@[simp] theorem Dev.setSpareCopy_sealedDone : (d.setSpareCopy x).sealedDone = d.sealedDone := rfl
@[simp] theorem Dev.setSpareCopy_sealedDue : (d.setSpareCopy x).sealedDue = d.sealedDue := rfl
@[simp] theorem Dev.setSpareCopy_lateSaid : (d.setSpareCopy x).lateSaid = d.lateSaid := rfl
@[simp] theorem Dev.setSpareCopy_net : (d.setSpareCopy x).net = d.net := rfl
@[simp] theorem Dev.setSpareCopy_lyr0 : (d.setSpareCopy x).lyr0 = d.lyr0 := rfl
@[simp] theorem Dev.setSpareCopy_lyr1 : (d.setSpareCopy x).lyr1 = d.lyr1 := rfl
@[simp] theorem Dev.setSpareCopy_kiln : (d.setSpareCopy x).kiln = d.kiln := rfl
@[simp] theorem Dev.setSpareCopy_pmb : (d.setSpareCopy x).pmb = d.pmb := rfl
@[simp] theorem Dev.setSpareCopy_sinds : (d.setSpareCopy x).sinds = d.sinds := rfl
@[simp] theorem Dev.setSpareCopy_svc : (d.setSpareCopy x).svc = d.svc := rfl

end

/-! ### Reads after writes -/

theorem Dev.reg_setReg (d : Dev) (o : Nat) (w : Word) (j : Nat) : (d.setReg o w).reg j = if j = o then w else d.reg j := Sparse.get_put _ _ _ _ _
@[simp] theorem Dev.reg_setReg_same (d : Dev) (o : Nat) (w : Word) : (d.setReg o w).reg o = w := Sparse.get_put_same _ _ _ _
theorem Dev.evQ_setEvQ (d : Dev) (n : Nat) (x : EvQ) (j : Nat) : (d.setEvQ n x).evQ j = if j = n then x else d.evQ j := Sparse.get_put _ _ _ _ _
@[simp] theorem Dev.evQ_setEvQ_same (d : Dev) (n : Nat) (x : EvQ) : (d.setEvQ n x).evQ n = x := Sparse.get_put_same _ _ _ _
theorem Dev.dring_setDring (d : Dev) (n : Nat) (x : DRing) (j : Nat) : (d.setDring n x).dring j = if j = n then x else d.dring j := Sparse.get_put _ _ _ _ _
@[simp] theorem Dev.dring_setDring_same (d : Dev) (n : Nat) (x : DRing) : (d.setDring n x).dring n = x := Sparse.get_put_same _ _ _ _
theorem Dev.sring_setSring (d : Dev) (n : Nat) (x : SRing) (j : Nat) : (d.setSring n x).sring j = if j = n then x else d.sring j := Sparse.get_put _ _ _ _ _
@[simp] theorem Dev.sring_setSring_same (d : Dev) (n : Nat) (x : SRing) : (d.setSring n x).sring n = x := Sparse.get_put_same _ _ _ _
theorem Dev.wakeOf_setWake (d : Dev) (n : Nat) (x : WakeSt) (j : Nat) : (d.setWake n x).wakeOf j = if j = n then x else d.wakeOf j := Sparse.get_put _ _ _ _ _
@[simp] theorem Dev.wakeOf_setWake_same (d : Dev) (n : Nat) (x : WakeSt) : (d.setWake n x).wakeOf n = x := Sparse.get_put_same _ _ _ _
theorem Dev.chain_setChain (d : Dev) (n : Nat) (x : Chain) (j : Nat) : (d.setChain n x).chain j = if j = n then x else d.chain j := Sparse.get_put _ _ _ _ _
@[simp] theorem Dev.chain_setChain_same (d : Dev) (n : Nat) (x : Chain) : (d.setChain n x).chain n = x := Sparse.get_put_same _ _ _ _
theorem Dev.srv_setSrv (d : Dev) (n : Nat) (x : Serve) (j : Nat) : (d.setSrv n x).srv j = if j = n then x else d.srv j := Sparse.get_put _ _ _ _ _
@[simp] theorem Dev.srv_setSrv_same (d : Dev) (n : Nat) (x : Serve) : (d.setSrv n x).srv n = x := Sparse.get_put_same _ _ _ _
@[simp] theorem Dev.core_setCore_same (d : Dev) (n : Nat) (x : Core) : (d.setCore n x).core n = x := Sparse.get_put_same _ _ _ _
theorem Dev.dirEnt_setDir (d : Dev) (n : Nat) (x : DirEnt) (j : Nat) : (d.setDir n x).dirEnt j = if j = n then x else d.dirEnt j := Sparse.get_put _ _ _ _ _
@[simp] theorem Dev.dirEnt_setDir_same (d : Dev) (n : Nat) (x : DirEnt) : (d.setDir n x).dirEnt n = x := Sparse.get_put_same _ _ _ _
theorem Dev.region_setRegion (d : Dev) (n : Nat) (x : Rgn) (j : Nat) : (d.setRegion n x).region j = if j = n then x else d.region j := Sparse.get_put _ _ _ _ _
@[simp] theorem Dev.region_setRegion_same (d : Dev) (n : Nat) (x : Rgn) : (d.setRegion n x).region n = x := Sparse.get_put_same _ _ _ _
theorem Dev.heatOf_setHeat (d : Dev) (n : Nat) (x : Heat) (j : Nat) : (d.setHeat n x).heatOf j = if j = n then x else d.heatOf j := Sparse.get_put _ _ _ _ _
@[simp] theorem Dev.heatOf_setHeat_same (d : Dev) (n : Nat) (x : Heat) : (d.setHeat n x).heatOf n = x := Sparse.get_put_same _ _ _ _
theorem Dev.alloc_setAlloc (d : Dev) (n : Nat) (x : Alloc) (j : Nat) : (d.setAlloc n x).alloc j = if j = n then x else d.alloc j := Sparse.get_put _ _ _ _ _
@[simp] theorem Dev.alloc_setAlloc_same (d : Dev) (n : Nat) (x : Alloc) : (d.setAlloc n x).alloc n = x := Sparse.get_put_same _ _ _ _
theorem Dev.port_setPort (d : Dev) (n : Nat) (x : Port) (j : Nat) : (d.setPort n x).port j = if j = n then x else d.port j := Sparse.get_put _ _ _ _ _
@[simp] theorem Dev.port_setPort_same (d : Dev) (n : Nat) (x : Port) : (d.setPort n x).port n = x := Sparse.get_put_same _ _ _ _
theorem Dev.sind_setSind (d : Dev) (n : Nat) (x : Sind) (j : Nat) : (d.setSind n x).sind j = if j = n then x else d.sind j := Sparse.get_put _ _ _ _ _
@[simp] theorem Dev.sind_setSind_same (d : Dev) (n : Nat) (x : Sind) : (d.setSind n x).sind n = x := Sparse.get_put_same _ _ _ _
theorem Dev.droop_setDroop (d : Dev) (n : Nat) (x : Droop) (j : Nat) : (d.setDroop n x).droop j = if j = n then x else d.droop j := Sparse.get_put _ _ _ _ _
@[simp] theorem Dev.droop_setDroop_same (d : Dev) (n : Nat) (x : Droop) : (d.setDroop n x).droop n = x := Sparse.get_put_same _ _ _ _
theorem Dev.vr_setVr (d : Dev) (n : Nat) (x : VrIn) (j : Nat) : (d.setVr n x).vr j = if j = n then x else d.vr j := Sparse.get_put _ _ _ _ _
@[simp] theorem Dev.vr_setVr_same (d : Dev) (n : Nat) (x : VrIn) : (d.setVr n x).vr n = x := Sparse.get_put_same _ _ _ _

end Sys2Proof.Machine
end

