-- ==== Sys2Proof/Laws/Ops.lean ====
section
/-! SUPPORT. What each shared operation can do, said once: writes that a path may not make, refusals, counters, events, free values, memory and homes. -/

namespace Sys2Proof.Machine

/-! ### Writes and refusals (R572, R573) -/

/-- A write that its path reaches, in a power state and a partition state that answer it, takes its effect. -/
theorem Dev.onWrite_open (d : Dev) (path : Path) (m : Nat) (go : Dev) (h1 : reaches d path m = true) (h2 : d.responds path m = true)
    (h3 : d.pageLocked m = false) : d.onWrite path m go = go := by
  simp [Dev.onWrite, h1, h2, h3]

/-- All that a write can do: nothing, be refused with cause 3 or 2, or take its effect. -/
theorem Dev.onWrite_cases (d : Dev) (path : Path) (m : Nat) (go : Dev) :
    (reaches d path m = false ∧ d.onWrite path m go = d) ∨
    (reaches d path m = true ∧ d.responds path m = false ∧ d.onWrite path m go = d.refuse path m 3) ∨
    (reaches d path m = true ∧ d.responds path m = true ∧ d.pageLocked m = true ∧ d.onWrite path m go = d.refuse path m 2) ∨
    (reaches d path m = true ∧ d.responds path m = true ∧ d.pageLocked m = false ∧ d.onWrite path m go = go) := by
  unfold Dev.onWrite
  cases h1 : reaches d path m <;> cases h2 : d.responds path m <;> cases h3 : d.pageLocked m <;> simp

@[simp] theorem Dev.guard_some (d : Dev) (path : Path) (m c : Nat) (go : Dev) : d.guard path m (some c) go = d.refuse path m c := rfl
@[simp] theorem Dev.guard_none (d : Dev) (path : Path) (m : Nat) (go : Dev) : d.guard path m none go = go := rfl
@[simp] theorem firstCause_nil : firstCause [] = none := rfl
@[simp] theorem firstCause_true (c : Nat) (r : List (Bool × Nat)) : firstCause ((true, c) :: r) = some c := rfl
@[simp] theorem firstCause_false (c : Nat) (r : List (Bool × Nat)) : firstCause ((false, c) :: r) = firstCause r := rfl

/-! ### Counters (R9) -/

/-- A count changes registers alone. -/
theorem Dev.bump_shape (d : Dev) (key : Nat) : ∃ r, d.bump key = { d with regs := r } := by
  unfold Dev.bump; split <;> exact ⟨_, rfl⟩

/-- A counter below all ones counts, and no other register changes. -/
theorem Dev.reg_bump (d : Dev) (key o : Nat) (h : d.reg key ≠ 0xFFFFFFFF) :
    (d.bump key).reg o = if o = key then d.reg key + 1 else d.reg o := by
  simp only [Dev.bump, if_neg h, Dev.reg_setReg]

/-- A counter at all ones stays, and its overflow bit sets. -/
theorem Dev.reg_bump_full (d : Dev) (key o : Nat) (h : d.reg key = 0xFFFFFFFF) :
    (d.bump key).reg o = if o = (ovfOf key).1 then d.reg (ovfOf key).1 ||| BitVec.ofNat 32 (2 ^ (ovfOf key).2) else d.reg o := by
  simp only [Dev.bump, if_pos h, Dev.orReg, Dev.reg_setReg]

/-- A register written and a count change registers alone. -/
theorem Dev.setRegN_bump_shape (d : Dev) (o v key : Nat) : ∃ r, (d.setRegN o v).bump key = { d with regs := r } := by
  obtain ⟨r, h⟩ := Dev.bump_shape (d.setRegN o v) key
  exact ⟨r, h⟩

/-- Two words written and a count change registers alone. -/
theorem Dev.setReg64_bump_shape (d : Dev) (o v key : Nat) : ∃ r, (d.setReg64 o v).bump key = { d with regs := r } := by
  obtain ⟨r, h⟩ := Dev.bump_shape (d.setReg64 o v) key
  exact ⟨r, h⟩

/-- A refusal changes registers alone. -/
theorem Dev.refuse_shape (d : Dev) (path : Path) (m c : Nat) : ∃ r, d.refuse path m c = { d with regs := r } := by
  exact Dev.setRegN_bump_shape d _ _ _

/-! ### Registers of two words -/

theorem Dev.reg_setRegN (d : Dev) (o n j : Nat) : (d.setRegN o n).reg j = if j = o then BitVec.ofNat 32 n else d.reg j :=
  Dev.reg_setReg d o _ j

theorem Dev.reg_orReg (d : Dev) (o n j : Nat) : (d.orReg o n).reg j = if j = o then d.reg o ||| BitVec.ofNat 32 n else d.reg j :=
  Dev.reg_setReg d o _ j

/-- A value of 64 bits reads as written. -/
theorem Dev.reg64_setReg64 (d : Dev) (o v : Nat) (h : v < 2 ^ 64) : (d.setReg64 o v).reg64 o = v := by
  have h1 : v / 2 ^ 32 < 2 ^ 32 := Nat.div_lt_of_lt_mul (by rw [← Nat.pow_add]; exact h)
  simp only [Dev.reg64, Dev.setReg64, Dev.regN, Dev.reg_setRegN, if_pos, BitVec.toNat_ofNat, Nat.mod_mod, Nat.mod_eq_of_lt h1,
    if_neg (show o ≠ o + 4 by omega)]
  omega

/-- An accumulator takes the sum modulo 2⁶⁴ (R10), where its wrap counter is none of its words. -/
theorem Dev.accumulate_shape (d : Dev) (o w n : Nat) : ∃ r, d.accumulate o w n = { d with regs := r } := by
  have split' : ∀ (c : Prop) [Decidable c] (v : Nat), ∃ r,
      (if c then (d.setReg64 o v).bump w else d.setReg64 o v) = { d with regs := r } := by
    intro c _ v
    split
    · exact Dev.setReg64_bump_shape d o v w
    · exact ⟨_, rfl⟩
  exact split' _ _

/-! ### Events (R343) -/

/-- A dropped event changes the holding queues and registers alone. -/
theorem Dev.dropEvent_shape (d : Dev) (k : Clk) (n : Nat) : ∃ q r, d.dropEvent k n = { d with evq := q, regs := r } := by
  unfold Dev.dropEvent
  obtain ⟨r, h⟩ := Dev.bump_shape (d.setEvQ n (if (d.evQ n).lost = 0 then { d.evQ n with lost := 1, lostBeat := k.beat, lostNotch := k.notch }
    else { d.evQ n with lost := min ((d.evQ n).lost + 1) 0xFFFFFFFF })) (evtLostOff n)
  exact ⟨_, r, h⟩

/-- An event changes the holding queues and registers alone. -/
theorem Dev.raise_shape (d : Dev) (k : Clk) (n : Nat) (e : Bytes) : ∃ q r, d.raise k n e = { d with evq := q, regs := r } := by
  unfold Dev.raise
  dsimp only
  split
  · exact ⟨_, d.regs, rfl⟩
  · split
    · exact ⟨_, d.regs, rfl⟩
    · split
      · obtain ⟨q, r, h⟩ := Dev.dropEvent_shape (d.setEvQ n { d.evQ n with q := eraseFirst (fun x => !undroppable x) (d.evQ n).q ++ [e] }) k n
        exact ⟨q, r, h⟩
      · split
        · exact ⟨_, d.regs, rfl⟩
        · exact Dev.dropEvent_shape d k n

/-- With room in the queue and nothing waiting in the units, an event is the queue's newest, and nothing else changes. -/
theorem Dev.raise_room (d : Dev) (k : Clk) (n : Nat) (e : Bytes) (h1 : (d.evQ n).src = []) (h2 : (d.evQ n).q.length < 64) :
    d.raise k n e = d.setEvQ n { d.evQ n with q := (d.evQ n).q ++ [e] } := by
  simp [Dev.raise, h1, h2]

theorem eraseFirst_length {α : Type} (p : α → Bool) (l : List α) (h : l.any p = true) : (eraseFirst p l).length + 1 = l.length := by
  induction l with
  | nil => simp at h
  | cons x r ih =>
    by_cases hx : p x = true
    · simp [eraseFirst, hx]
    · have hr : r.any p = true := by simpa [hx] using h
      simp [eraseFirst, hx, ih hr]

/-- The holding queues of other rings stay. -/
theorem Dev.evQ_dropEvent (d : Dev) (k : Clk) (n m : Nat) :
    ((d.dropEvent k n).evQ m).q = (d.evQ m).q := by
  unfold Dev.dropEvent
  dsimp only
  obtain ⟨r, h⟩ := Dev.bump_shape (d.setEvQ n (if (d.evQ n).lost = 0 then { d.evQ n with lost := 1, lostBeat := k.beat, lostNotch := k.notch }
    else { d.evQ n with lost := min ((d.evQ n).lost + 1) 0xFFFFFFFF })) (evtLostOff n)
  rw [h]
  show ((d.setEvQ n _).evQ m).q = _
  rw [Dev.evQ_setEvQ]
  by_cases hm : m = n
  · subst hm; simp only [if_true]; split <;> rfl
  · simp [hm]

/-- A holding queue never grows beyond 64 events (R343). -/
theorem Dev.raise_bound (d : Dev) (k : Clk) (n m : Nat) (e : Bytes) (h : ∀ r, (d.evQ r).q.length ≤ 64) : ((d.raise k n e).evQ m).q.length ≤ 64 := by
  unfold Dev.raise
  dsimp only
  split
  · rw [Dev.evQ_setEvQ]; split
    · exact h n
    · exact h m
  · split
    · rw [Dev.evQ_setEvQ]; split
      · simp only [List.length_append, List.length_singleton]; omega
      · exact h m
    · split
      · next hany =>
        rw [Dev.evQ_dropEvent, Dev.evQ_setEvQ]; split
        · have := eraseFirst_length (fun x => !undroppable x) (d.evQ n).q hany
          have := h n
          simp only [List.length_append, List.length_singleton]; omega
        · exact h m
      · split
        · rw [Dev.evQ_setEvQ]; split
          · exact h n
          · exact h m
        · rw [Dev.evQ_dropEvent]; exact h m

/-- Events of the service domain's controllers change what an event changes. -/
theorem Dev.ioEvent_shape (d : Dev) (k : Clk) (e : Bytes) : ∃ q r, d.ioEvent k e = { d with evq := q, regs := r } := by
  unfold Dev.ioEvent; split
  · exact Dev.raise_shape d k pfRing e
  · exact ⟨d.evq, d.regs, rfl⟩

/-! ### Activity, free values, floors -/

/-- Activity changes the counts of the control period alone (R477). -/
theorem Dev.charge_shape (d : Dev) (a k n : Nat) : ∃ c, d.charge a k n = { d with kiln := { d.kiln with cnt := c } } := by
  unfold Dev.charge; split
  · exact ⟨d.kiln.cnt, rfl⟩
  · exact ⟨_, rfl⟩

@[simp] theorem Dev.take_value (d : Dev) (site : Nat) : (d.take site).1 = Config.free site d.fresh := rfl
@[simp] theorem Dev.take_dev (d : Dev) (site : Nat) : (d.take site).2 = { d with fresh := d.fresh + 1 } := rfl

/-- A whole number read from a quotient takes at most one free value, and lies at the quotient or just above it. -/
theorem Dev.whole_spec (d : Dev) (site : Nat) (num den : Int) :
    (∃ n, (d.whole site num den).2 = { d with fresh := n }) ∧
      ((d.whole site num den).1 = num / den ∨ (num % den ≠ 0 ∧ (d.whole site num den).1 = num / den + 1)) := by
  unfold Dev.whole
  split
  · exact ⟨⟨d.fresh, rfl⟩, .inl rfl⟩
  · next h =>
    refine ⟨⟨_, rfl⟩, ?_⟩
    by_cases hb : (d.take site).1.getLsbD 0 = true
    · exact .inr ⟨h, by simp only [hb, if_true]⟩
    · exact .inl (by simp only [hb]; simp)

/-- A floor's change shows in DIE_STATE alone, beside the floor itself. -/
theorem Dev.setFloor_shape (d : Dev) (die kind : Nat) (f : Floor) : ∃ r, d.setFloor die kind f =
    { d with floors := Sparse.put floorReset d.floors (8 * die + kind) f, regs := r } := by
  unfold Dev.setFloor Dev.dieRefresh
  dsimp only
  exact ⟨_, rfl⟩

theorem Dev.floor_setFloor (d : Dev) (die kind i k : Nat) (f : Floor) (hk : kind < 8) (hk' : k < 8) :
    (d.setFloor die kind f).floor i k = if i = die ∧ k = kind then f else d.floor i k := by
  obtain ⟨r, hr⟩ := Dev.setFloor_shape d die kind f
  rw [hr, Dev.floor, Sparse.get_put]
  by_cases h : i = die ∧ k = kind
  · obtain ⟨rfl, rfl⟩ := h; simp
  · rw [if_neg h, if_neg (by omega)]; rfl

/-! ### Device memory -/

/-- What changes no device memory keeps its form. -/
theorem State.onDev_wf (s : State) (f : Dev → Dev) : Memory.wf (s.onDev f).mem = Memory.wf s.mem := rfl

/-- A store keeps memory's form. -/
theorem State.store_wf (s : State) (a : Nat) (bs : Bytes) (h : Memory.wf s.mem = true) : Memory.wf (s.store a bs).mem = true :=
  writeMem_wf bs s.mem a h

/-! ### The PMBus controller (R540, R542) -/

/-- The controller's next transaction changes the controller alone. -/
theorem Dev.pmbNext_shape (d : Dev) : ∃ x, d.pmbNext = { d with pmb := x } := by
  unfold Dev.pmbNext
  dsimp only
  split
  · exact ⟨d.pmb, rfl⟩
  · split
    · exact ⟨_, rfl⟩
    · exact ⟨_, rfl⟩
    · split
      · exact ⟨_, rfl⟩
      · exact ⟨d.pmb, rfl⟩
    · exact ⟨d.pmb, rfl⟩

/-! ### Homes (R243, R245) -/

/-- A request at its home runs where the address has one, and stops by name where it has none. -/
theorem State.atHome_spec (s : State) (a : Nat) (q : HomeReq) (errs : List Nat) (p : Option Nat) :
    (s.dev.place a = none ∧ s.atHome a q errs p = .fault (.notHomed a)) ∨ (s.dev.place a ≠ none ∧ ∃ t, s.atHome a q errs p = .next t) := by
  rw [State.atHome]
  split
  · next h => exact .inl ⟨h, rfl⟩
  · next w h =>
    refine .inr ⟨by simp [h], ?_⟩
    dsimp only
    split <;> exact ⟨_, rfl⟩

end Sys2Proof.Machine
end

