-- ==== Sys2Proof/Laws/Threads.lean ====
section
/-! SUPPORT. What the shared shape of a thread instruction does: which group it changes and what it leaves alone. -/

namespace Sys2Proof.Machine

/-! ### The group that a position names -/

/-- The core, group, block and command that a position names are those of the state. -/
theorem State.thr_some {s : State} {g : At} {x : Thr} (h : s.thr g = some x) :
    x.no = 36 * g.part.val + g.tile.val ∧ x.part = g.part.val ∧ x.tile = g.tile.val ∧ x.core = s.dev.core x.no ∧
      x.core.cid = some x.cmd.cid ∧ s.dev.cmd x.cmd.cid = some x.cmd ∧
      x.core.groups.find? (fun y => y.slot == g.slot.val) = some x.grp ∧
      x.core.blocks.find? (fun b => b.k == x.grp.k) = some x.blk := by
  unfold State.thr at h
  simp only at h
  split at h
  · cases h
  · next cid hc =>
    split at h
    · next cmd grp hcmd hgrp =>
      split at h
      · next blk hb =>
        cases h
        have hid : cmd.cid = cid := by
          have := List.find?_some hcmd
          simpa using this
        subst hid
        exact ⟨rfl, rfl, rfl, rfl, hc, hcmd, hgrp, hb⟩
      · cases h
    · cases h

theorem State.thr_slot {s : State} {g : At} {x : Thr} (h : s.thr g = some x) : x.grp.slot = g.slot.val := by
  have := List.find?_some (State.thr_some h).2.2.2.2.2.2.1
  simpa using this

/-- The position names a group when its parts are there. -/
theorem State.thr_of {s : State} {g : At} {no : Nat} {cmd : Cmd} {grp : Grp} {blk : Blk}
    (hno : no = 36 * g.part.val + g.tile.val)
    (hc : (s.dev.core no).cid = some cmd.cid) (hcmd : s.dev.cmd cmd.cid = some cmd)
    (hg : (s.dev.core no).groups.find? (fun y => y.slot == g.slot.val) = some grp)
    (hb : (s.dev.core no).blocks.find? (fun b => b.k == grp.k) = some blk) :
    s.thr g = some ⟨no, g.part.val, g.tile.val, cmd, s.dev.core no, grp, blk⟩ := by
  subst hno
  unfold State.thr
  simp only [hc, hcmd, hg, hb]

/-- Positions of different cores, or of different slots of one. -/
theorem At.ne_cases {g h : At} (hne : h ≠ g) :
    36 * h.part.val + h.tile.val ≠ 36 * g.part.val + g.tile.val ∨ h.slot.val ≠ g.slot.val := by
  by_contra hc
  apply hne
  obtain ⟨hp, ht, hs⟩ := h
  obtain ⟨gp, gt, gs⟩ := g
  simp only [not_or, not_not] at hc
  have h1 : hp.val = gp.val := by have := ht.isLt; have := gt.isLt; omega
  have h2 : ht.val = gt.val := by have := ht.isLt; have := gt.isLt; omega
  simp [At.mk.injEq, Fin.ext_iff, h1, h2, hc.2]

theorem Dev.core_setCore (d : Dev) (n m : Nat) (c : Core) : (d.setCore n c).core m = if m = n then c else d.core m :=
  Sparse.get_put coreReset d.cores n c m

theorem Core.find_setGrp_same {c : Core} {y x : Grp} {n : Nat} (hx : c.groups.find? (fun z => z.slot == n) = some x) (hy : y.slot = n) :
    (c.setGrp y).groups.find? (fun z => z.slot == n) = some y := by
  unfold Core.setGrp
  revert hx
  generalize c.groups = l
  intro hx
  induction l with
  | nil => simp at hx
  | cons a r ih =>
    simp only [List.map_cons, List.find?_cons] at hx ih ⊢
    by_cases ha : a.slot = n
    · simp [ha, hy]
    · have : (a.slot == n) = false := by simpa using ha
      rw [this] at hx
      have h2 : (if a.slot = y.slot then y else a) = a := by rw [if_neg]; rw [hy]; exact ha
      rw [h2, this]
      exact ih hx

theorem Core.find_setGrp_other {c : Core} {y : Grp} {n : Nat} (hy : y.slot ≠ n) :
    (c.setGrp y).groups.find? (fun z => z.slot == n) = c.groups.find? (fun z => z.slot == n) := by
  unfold Core.setGrp
  simp only
  generalize c.groups = l
  induction l with
  | nil => rfl
  | cons a r ih =>
    simp only [List.map_cons, List.find?_cons]
    by_cases ha : a.slot = y.slot
    · have h1 : (y.slot == n) = false := by simpa using hy
      have h2 : (a.slot == n) = false := by simpa [ha] using hy
      simp [ha, h1, ih]
    · simp [ha, ih]

/-- After its group is replaced the position names the new one. -/
theorem State.thr_putGrp {s : State} {g : At} {x : Thr} {y : Grp} (h : s.thr g = some x) (hs : y.slot = x.grp.slot) (hk : y.k = x.grp.k) :
    (s.putGrp x y).thr g = some { x with core := x.core.setGrp y, grp := y } := by
  obtain ⟨hno, hp, ht, hcore, hcid, hcmd, hgrp, hblk⟩ := State.thr_some h
  have hsl := State.thr_slot h
  have hnew : (s.putGrp x y).dev.core x.no = x.core.setGrp y := by
    simp [State.putGrp, State.onDev, Dev.core_setCore, hcore]
  have := State.thr_of (s := s.putGrp x y) (g := g) (no := x.no) (cmd := x.cmd) (grp := y) (blk := x.blk) hno
    (by rw [hnew]; exact hcid) hcmd (by rw [hnew]; exact Core.find_setGrp_same hgrp (by rw [hs, hsl]))
    (by rw [hnew, hk]; exact hblk)
  rw [this, hnew, ← hp, ← ht]

/-- Another position names what it named. -/
theorem State.thr_putGrp_other {s : State} {g h : At} {x : Thr} {y : Grp} (hx : s.thr g = some x) (hs : y.slot = x.grp.slot) (hne : h ≠ g) :
    ((s.putGrp x y).thr h).map (fun z => (z.grp, z.blk, z.cmd)) = (s.thr h).map (fun z => (z.grp, z.blk, z.cmd)) := by
  obtain ⟨hno, -, -, hcore, hcid, hcmd, hgrp, hblk⟩ := State.thr_some hx
  have hsl := State.thr_slot hx
  have hc : ∀ n, (s.putGrp x y).dev.core n = if n = x.no then (s.dev.core x.no).setGrp y else s.dev.core n := by
    intro n; simp [State.putGrp, State.onDev, Dev.core_setCore]
  have hcm : ∀ n, (s.putGrp x y).dev.cmd n = s.dev.cmd n := fun _ => rfl
  unfold State.thr
  simp only [hc, hcm]
  by_cases hcase : 36 * h.part.val + h.tile.val = x.no
  · have hslot : y.slot ≠ h.slot.val := by
      rcases At.ne_cases hne with h1 | h1
      · exact absurd (hcase.trans hno) h1
      · rw [hs, hsl]; exact fun he => h1 he.symm
    simp only [hcase, if_true, Core.find_setGrp_other hslot]
    have h1 : ((s.dev.core x.no).setGrp y).cid = (s.dev.core x.no).cid := rfl
    have h2 : ((s.dev.core x.no).setGrp y).blocks = (s.dev.core x.no).blocks := rfl
    rw [h1, h2]
    split
    · rfl
    · split
      · split <;> rfl
      · rfl
  · simp only [if_neg hcase]

theorem Dev.cmd_onCmd (d : Dev) (cid n : Nat) (f : Cmd → Cmd) (hf : ∀ c, (f c).cid = c.cid) :
    (d.onCmd cid f).cmd n = (d.cmd n).map (fun c => if c.cid = cid then f c else c) := by
  unfold Dev.onCmd Dev.cmd
  simp only
  induction d.cmds with
  | nil => rfl
  | cons a r ih =>
    simp only [List.map_cons, List.find?_cons]
    have : (if a.cid = cid then f a else a).cid = a.cid := by split <;> simp [hf]
    rw [this]
    split
    · rfl
    · exact ih

/-- A change of a command shows in the group's command alone. -/
theorem State.thr_onCmd (s : State) (g : At) (cid : Nat) (f : Cmd → Cmd) (hf : ∀ c, (f c).cid = c.cid) :
    (s.onDev (fun d => d.onCmd cid f)).thr g = (s.thr g).map (fun x => { x with cmd := if x.cmd.cid = cid then f x.cmd else x.cmd }) := by
  unfold State.thr
  have h1 : ∀ n, (s.onDev (fun d => d.onCmd cid f)).dev.core n = s.dev.core n := fun _ => rfl
  have h2 : ∀ n, (s.onDev (fun d => d.onCmd cid f)).dev.cmd n = (s.dev.cmd n).map (fun c => if c.cid = cid then f c else c) :=
    fun n => Dev.cmd_onCmd s.dev cid n f hf
  simp only [h1, h2]
  cases hc : (s.dev.core (36 * g.part.val + g.tile.val)).cid with
  | none => rfl
  | some n =>
    simp only
    cases hm : s.dev.cmd n with
    | none => rfl
    | some c =>
      simp only [Option.map_some]
      cases hg : (s.dev.core (36 * g.part.val + g.tile.val)).groups.find? (fun x => x.slot == g.slot.val) with
      | none => rfl
      | some grp =>
        simp only
        split <;> rfl

/-- Counting activity changes no group, block or command. -/
theorem State.thr_charge (s : State) (g : At) (a k n : Nat) : (s.onDev (fun d => d.charge a k n)).thr g = s.thr g := by
  have h : ∃ z, s.onDev (fun d => d.charge a k n) = { s with dev := { s.dev with kiln := z } } := by
    unfold State.onDev Dev.charge
    split
    · exact ⟨s.dev.kiln, rfl⟩
    · exact ⟨_, rfl⟩
  obtain ⟨z, hz⟩ := h
  rw [hz]; rfl

/-! ### Issue -/

/-- Reconvergence moves the program counter, the mask and the stack of a group and nothing else. -/
theorem Grp.settle_frame (n : Nat) (g : Grp) :
    Grp.settle n g = { g with pc := (Grp.settle n g).pc, mask := (Grp.settle n g).mask, stack := (Grp.settle n g).stack } := by
  induction n generalizing g with
  | zero => rfl
  | succ n ih =>
    cases hs : g.stack with
    | nil =>
      have : Grp.settle (n + 1) g = g := by simp [Grp.settle, hs]
      rw [this]
    | cons e r =>
      simp only [Grp.settle, hs]
      split
      · split
        · exact ih _
        · exact ih _
      · rfl

theorem Grp.settle_empty (n : Nat) (g : Grp) (h : g.stack = []) : Grp.settle n g = g := by
  cases n with
  | zero => rfl
  | succ n => simp [Grp.settle, h]

theorem Grp.advance_frame (g : Grp) :
    g.advance = { g with pc := g.advance.pc, mask := g.advance.mask, stack := g.advance.stack, held := false } := by
  unfold Grp.advance
  exact Grp.settle_frame 66 { g with pc := g.pc + 8, held := false }

theorem Grp.advance_empty (g : Grp) (h : g.stack = []) : g.advance = { g with pc := g.pc + 8, held := false } :=
  Grp.settle_empty 66 { g with pc := g.pc + 8, held := false } h

/-- A group that nothing holds issues an instruction that decodes: it acts in the taking-part lanes, and counts as issued
unless it was held back. -/
theorem State.issue_eq {s : State} {g : At} {gn : Bool} {gp : BitVec 3} {chk : Chk} {go : Thr → BitVec 32 → State} {x : Thr}
    (h : s.thr g = some x) (hb : x.grp.blocked = false) (hz : x.grp.hazard chk.uses = false) (hf : x.cmd.ph.fellable = true)
    (hp : x.grp.pc < x.cmd.run.codeLen) (hc : chk.fault x.cmd.run.regs x.cmd.run.accN = none) :
    s.issue g gn gp chk go =
      (if (match (go x (x.grp.mask &&& x.grp.guard gn gp)).thr g with
          | some y => y.grp.held
          | none => false) = true
        then go x (x.grp.mask &&& x.grp.guard gn gp)
        else (go x (x.grp.mask &&& x.grp.guard gn gp)).onDev (fun d => d.charge x.part 8 1)) := by
  unfold State.issue
  simp only [h, hb, hz, hf, hc, Bool.not_true, Bool.or_false, Nat.not_le.mpr hp]
  rfl

theorem State.sansThreads_putGrp (s : State) (x : Thr) (y : Grp) : (s.putGrp x y).sansThreads = s.sansThreads := rfl

theorem State.sansThreads_onCmd (s : State) (cid : Nat) (f : Cmd → Cmd) :
    (s.onDev (fun d => d.onCmd cid f)).sansThreads = s.sansThreads := rfl

theorem State.sansThreads_charge (s : State) (a k n : Nat) : (s.onDev (fun d => d.charge a k n)).sansThreads = s.sansThreads := by
  unfold State.onDev Dev.charge
  simp only
  split <;> rfl

theorem Dev.charge_cmds (d : Dev) (a k n : Nat) : (d.charge a k n).cmds = d.cmds := by unfold Dev.charge; split <;> rfl

/-- What issues and replaces its group by one that is not held: the position names the new group in the same block, every
other position what it named before, and beyond the cores and the activity counts nothing changes. -/
theorem State.issue_putGrp {s : State} {g : At} {gn : Bool} {gp : BitVec 3} {chk : Chk} {go : Thr → BitVec 32 → State} {x : Thr} {y : Grp}
    (h : s.acts g chk x) (hgo : go x (x.grp.mask &&& x.grp.guard gn gp) = s.putGrp x y) (hs : y.slot = x.grp.slot) (hk : y.k = x.grp.k)
    (hh : y.held = false) :
    (s.issue g gn gp chk go).thr g = some { x with core := x.core.setGrp y, grp := y } ∧ s.othersKept (s.issue g gn gp chk go) g ∧
      (s.issue g gn gp chk go).sansThreads = s.sansThreads ∧ (s.issue g gn gp chk go).dev.cmds = s.dev.cmds := by
  obtain ⟨h, hb, hz, hf, hp, hc⟩ := h
  have h1 : s.issue g gn gp chk go = (s.putGrp x y).onDev (fun d => d.charge x.part 8 1) := by
    rw [State.issue_eq h hb hz hf hp hc, hgo, State.thr_putGrp h hs hk]
    simp [hh]
  rw [h1]
  refine ⟨by rw [State.thr_charge, State.thr_putGrp h hs hk], ?_, by rw [State.sansThreads_charge, State.sansThreads_putGrp],
    Dev.charge_cmds _ _ _ _⟩
  intro p hp'
  rw [State.thr_charge]
  have := congrArg (Option.map (fun z : Grp × Blk × Cmd => (z.1, z.2.1))) (State.thr_putGrp_other (y := y) h hs hp')
  simpa [Option.map_map, Function.comp_def] using this

/-- The same with the change of its command that the arithmetic instructions make. -/
theorem State.alu_spec {s : State} {g : At} {gn : Bool} {gp : BitVec 3} {chk : Chk} {f : Thr → BitVec 32 → Grp} {x : Thr}
    (h : s.acts g chk x)
    (hs : (f x (x.grp.mask &&& x.grp.guard gn gp)).slot = x.grp.slot) (hk : (f x (x.grp.mask &&& x.grp.guard gn gp)).k = x.grp.k) :
    let y := (f x (x.grp.mask &&& x.grp.guard gn gp)).advance
    (s.alu g gn gp chk f).thr g = some { x with core := x.core.setGrp y, grp := y, cmd := Cmd.usesAlu x.core.noCheck x.cmd } ∧
      s.othersKept (s.alu g gn gp chk f) g ∧ (s.alu g gn gp chk f).sansThreads = s.sansThreads := by
  obtain ⟨h, hb, hz, hf, hp, hc⟩ := h
  intro y
  have hy : y = { f x (x.grp.mask &&& x.grp.guard gn gp) with pc := y.pc, mask := y.mask, stack := y.stack, held := false } :=
    Grp.advance_frame _
  have hys : y.slot = x.grp.slot := by rw [hy]; exact hs
  have hyk : y.k = x.grp.k := by rw [hy]; exact hk
  have hyh : y.held = false := by rw [hy]
  have hmid : ((s.putGrp x y).onDev (fun d => d.onCmd x.cmd.cid (Cmd.usesAlu x.core.noCheck))).thr g =
      some { x with core := x.core.setGrp y, grp := y, cmd := Cmd.usesAlu x.core.noCheck x.cmd } := by
    rw [State.thr_onCmd _ _ _ (f := Cmd.usesAlu x.core.noCheck) (fun _ => rfl), State.thr_putGrp h hys hyk]; simp
  have h1 : s.alu g gn gp chk f =
      ((s.putGrp x y).onDev (fun d => d.onCmd x.cmd.cid (Cmd.usesAlu x.core.noCheck))).onDev (fun d => d.charge x.part 8 1) := by
    unfold State.alu
    rw [State.issue_eq h hb hz hf hp hc]
    refine (if_neg ?_).trans rfl
    change ¬(match ((s.putGrp x y).onDev (fun d => d.onCmd x.cmd.cid (Cmd.usesAlu x.core.noCheck))).thr g with
      | some y => y.grp.held
      | none => false) = true
    rw [hmid]
    simp [hyh]
  rw [h1]
  refine ⟨by rw [State.thr_charge, hmid], ?_, by rw [State.sansThreads_charge, State.sansThreads_onCmd, State.sansThreads_putGrp]⟩
  intro p hp'
  rw [State.thr_charge, State.thr_onCmd _ _ _ (f := Cmd.usesAlu x.core.noCheck) (fun _ => rfl)]
  have := congrArg (Option.map (fun z : Grp × Blk × Cmd => (z.1, z.2.1))) (State.thr_putGrp_other (y := y) h hys hp')
  simpa [Option.map_map, Function.comp_def] using this

theorem State.move_spec {s : State} {g : At} {gn : Bool} {gp : BitVec 3} {chk : Chk} {f : Thr → BitVec 32 → Grp} {x : Thr}
    (h : s.acts g chk x)
    (hs : (f x (x.grp.mask &&& x.grp.guard gn gp)).slot = x.grp.slot) (hk : (f x (x.grp.mask &&& x.grp.guard gn gp)).k = x.grp.k) :
    let y := (f x (x.grp.mask &&& x.grp.guard gn gp)).advance
    (s.move g gn gp chk f).thr g = some { x with core := x.core.setGrp y, grp := y } ∧
      s.othersKept (s.move g gn gp chk f) g ∧ (s.move g gn gp chk f).sansThreads = s.sansThreads ∧
      (s.move g gn gp chk f).dev.cmds = s.dev.cmds := by
  have hy := Grp.advance_frame (f x (x.grp.mask &&& x.grp.guard gn gp))
  exact State.issue_putGrp h rfl (by rw [hy]; exact hs) (by rw [hy]; exact hk) (by rw [hy])

/-! ### Registers -/

theorem Grp.rdT_wrT (g : Grp) (n l : Nat) (w : Word) (r k : Nat) (hl : l < 32) (hk : k < 32) :
    (g.wrT n l w).rdT r k = if r = n ∧ k = l ∧ n ≠ 255 then w else g.rdT r k := by
  unfold Grp.wrT Grp.rdT
  by_cases hn : n = 255
  · simp [hn]
  · simp only [hn, if_false, not_false_iff, and_true, ne_eq]
    by_cases hr : r = 255
    · simp only [hr, if_true]; rw [if_neg]; omega
    · simp only [hr, if_false, Sparse.get_put]
      by_cases he : r = n ∧ k = l
      · rw [if_pos (by omega), if_pos he]
      · rw [if_neg (by omega), if_neg he]

theorem lanesOf_mem (m : BitVec 32) (l : Nat) : l ∈ lanesOf m ↔ l < 32 ∧ bitAt m.toNat l = true := by
  unfold lanesOf; simp [List.mem_filter, List.mem_range]

theorem Grp.rdT_lanes (g : Grp) (m : BitVec 32) (dst : Nat) (f : Nat → Word) (r k : Nat) (hk : k < 32) :
    (g.lanes m dst f).rdT r k = if r = dst ∧ dst ≠ 255 ∧ bitAt m.toNat k = true then f k else g.rdT r k := by
  unfold Grp.lanes
  have key : ∀ (ls : List Nat) (g : Grp), (∀ l ∈ ls, l < 32) →
      (ls.foldl (fun a l => a.wrT dst l (f l)) g).rdT r k = if r = dst ∧ dst ≠ 255 ∧ k ∈ ls then f k else g.rdT r k := by
    intro ls
    induction ls with
    | nil => intro g _; simp
    | cons a t ih =>
      intro g hls
      rw [List.foldl_cons, ih _ (fun l hl => hls l (List.mem_cons_of_mem _ hl)),
        Grp.rdT_wrT _ _ _ _ _ _ (hls a List.mem_cons_self) hk]
      by_cases h1 : r = dst ∧ dst ≠ 255
      · by_cases h2 : k ∈ t
        · simp [h1, h2]
        · by_cases h3 : k = a
          · subst h3; simp [h1, h2]
          · simp [h1, h2, h3]
      · have h4 : ∀ P : Prop, ¬(r = dst ∧ dst ≠ 255 ∧ P) := fun P hP => h1 ⟨hP.1, hP.2.1⟩
        have h5 : ¬(r = dst ∧ k = a ∧ dst ≠ 255) := fun hP => h1 ⟨hP.1, hP.2.2⟩
        rw [if_neg (h4 _), if_neg h5, if_neg (h4 _)]
  rw [key _ _ (fun l hl => ((lanesOf_mem m l).1 hl).1)]
  simp [lanesOf_mem, hk]

theorem Grp.lanes_frame (g : Grp) (m : BitVec 32) (dst : Nat) (f : Nat → Word) :
    g.lanes m dst f = { g with t := (g.lanes m dst f).t } := by
  unfold Grp.lanes
  generalize lanesOf m = ls
  induction ls generalizing g with
  | nil => rfl
  | cons a r ih =>
    rw [List.foldl_cons]
    have h2 : (g.wrT dst a (f a)) = { g with t := (g.wrT dst a (f a)).t } := by unfold Grp.wrT; split <;> rfl
    generalize hz : g.wrT dst a (f a) = z at *
    rw [ih z]
    conv_rhs => rw [ih z]
    rw [h2]

theorem Grp.bitP_wrP (g : Grp) (n : Nat) (m v : BitVec 32) (k l : Nat) (hl : l < 32) :
    (g.wrP n m v).bitP k l = if k = n ∧ bitAt m.toNat l = true then bitAt v.toNat l else g.bitP k l := by
  have key : ∀ w : BitVec 32, bitAt w.toNat l = w.getLsbD l := by
    intro w; simp [bitAt, BitVec.getLsbD, Nat.testBit, Nat.shiftRight_eq_div_pow, Nat.one_and_eq_mod_two]
  unfold Grp.bitP Grp.wrP Grp.rdP
  simp only [key]
  simp only [Sparse.get_put]
  by_cases h : k = n
  · subst h; simp only [if_true, true_and, mergeMask]
    cases hm : m.getLsbD l <;> rw [BitVec.getLsbD_eq_getElem hl] at hm <;> simp [hm, hl]
  · simp [h]

theorem Grp.after_lanes (x : Thr) (m : BitVec 32) (dst : Nat) (v v' : Nat → Word) (hv : ∀ l < 32, v l = v' l) :
    x.grp.after (x.grp.lanes m dst v).advance (x.grp.withT m dst v') x.grp.bitP x.grp.rdU := by
  have hf := Grp.lanes_frame x.grp m dst v
  have ha := Grp.advance_frame (x.grp.lanes m dst v)
  generalize hy : x.grp.lanes m dst v = y at *
  refine ⟨by rw [ha, hf], ?_, ?_, ?_, ?_, fun l _ => by rw [ha, hf]; rfl⟩
  · intro hs
    have : y.stack = [] := by rw [hf]; exact hs
    rw [Grp.advance_empty y this]
    exact ⟨by rw [hf], by rw [hf], this⟩
  · intro r hr l hl
    have : y.advance.rdT r l = y.rdT r l := by rw [ha]; rfl
    rw [this, ← hy, Grp.rdT_lanes _ _ _ _ _ _ hl, Grp.withT]
    split <;> simp [hv l hl]
  · intro n l hl; rw [ha, hf]; rfl
  · intro n; rw [ha, hf]; rfl

/-- An arithmetic instruction that writes a thread register lane by lane. -/
theorem State.alu_lanes {s : State} {g : At} {gn : Bool} {gp : BitVec 3} {chk : Chk} {x : Thr} {dst : Nat} {v : Thr → BitVec 32 → Nat → Word} {v' : Nat → Word}
    (h : s.acts g chk x) (hv : ∀ l < 32, v x (x.taking gn gp) l = v' l) :
    threadNext (.next (s.alu g gn gp chk (fun x m => x.grp.lanes m dst (v x m)))) s g x (x.grp.withT (x.taking gn gp) dst v') x.grp.bitP x.grp.rdU := by
  have hf : ∀ m, (x.grp.lanes m dst (v x m)).slot = x.grp.slot := fun m => by rw [Grp.lanes_frame]
  have hk : ∀ m, (x.grp.lanes m dst (v x m)).k = x.grp.k := fun m => by rw [Grp.lanes_frame]
  have := State.alu_spec (gn := gn) (gp := gp) (f := fun x m => x.grp.lanes m dst (v x m)) h (hf _) (hk _)
  exact ⟨_, _, rfl, this.1, Grp.after_lanes x _ dst _ _ hv, rfl, this.2.1, this.2.2⟩

theorem State.move_lanes {s : State} {g : At} {gn : Bool} {gp : BitVec 3} {chk : Chk} {x : Thr} {dst : Nat} {v : Thr → BitVec 32 → Nat → Word} {v' : Nat → Word}
    (h : s.acts g chk x) (hv : ∀ l < 32, v x (x.taking gn gp) l = v' l) :
    threadNext (.next (s.move g gn gp chk (fun x m => x.grp.lanes m dst (v x m)))) s g x (x.grp.withT (x.taking gn gp) dst v') x.grp.bitP x.grp.rdU := by
  have hf : ∀ m, (x.grp.lanes m dst (v x m)).slot = x.grp.slot := fun m => by rw [Grp.lanes_frame]
  have hk : ∀ m, (x.grp.lanes m dst (v x m)).k = x.grp.k := fun m => by rw [Grp.lanes_frame]
  have := State.move_spec (gn := gn) (gp := gp) (f := fun x m => x.grp.lanes m dst (v x m)) h (hf _) (hk _)
  exact ⟨_, _, rfl, this.1, Grp.after_lanes x _ dst _ _ hv, rfl, this.2.1, this.2.2.1⟩

theorem Grp.after_wrP (x : Thr) (m v : BitVec 32) (n : Nat) (f : Nat → Bool) (hv : ∀ l < 32, bitAt v.toNat l = f l) :
    x.grp.after (x.grp.wrP n m v).advance x.grp.rdT (x.grp.withP m n f) x.grp.rdU := by
  have ha := Grp.advance_frame (x.grp.wrP n m v)
  refine ⟨by rw [ha]; rfl, ?_, ?_, ?_, ?_, fun l _ => by rw [ha]; rfl⟩
  · intro hs
    rw [Grp.advance_empty (x.grp.wrP n m v) hs]
    exact ⟨rfl, rfl, hs⟩
  · intro r hr l hl; rw [ha]; rfl
  · intro k l hl
    have : (x.grp.wrP n m v).advance.rdP k = (x.grp.wrP n m v).rdP k := by rw [ha]; rfl
    rw [this]
    have := Grp.bitP_wrP x.grp n m v k l hl
    rw [Grp.bitP] at this
    rw [this, Grp.withP]
    split <;> simp [hv l hl]
  · intro k; rw [ha]; rfl

theorem Grp.after_wrU (x : Thr) (n : Nat) (v : Word) :
    x.grp.after (x.grp.wrU n v).advance x.grp.rdT x.grp.bitP (x.grp.withU n v) := by
  have ha := Grp.advance_frame (x.grp.wrU n v)
  refine ⟨by rw [ha]; rfl, ?_, ?_, ?_, ?_, fun l _ => by rw [ha]; rfl⟩
  · intro hs
    rw [Grp.advance_empty (x.grp.wrU n v) hs]
    exact ⟨rfl, rfl, hs⟩
  · intro r hr l hl; rw [ha]; rfl
  · intro k l hl; rw [ha]; rfl
  · intro k
    have : (x.grp.wrU n v).advance.rdU k = (x.grp.wrU n v).rdU k := by rw [ha]; rfl
    rw [this]
    exact Sparse.get_put _ _ _ _ _

theorem Grp.after_same (x : Thr) : x.grp.after x.grp.advance x.grp.rdT x.grp.bitP x.grp.rdU := by
  have ha := Grp.advance_frame x.grp
  refine ⟨by rw [ha], ?_, ?_, ?_, ?_, fun l _ => by rw [ha]; rfl⟩
  · intro hs
    rw [Grp.advance_empty x.grp hs]
    exact ⟨rfl, rfl, hs⟩
  · intro r hr l hl; rw [ha]; rfl
  · intro k l hl; rw [ha]; rfl
  · intro k; rw [ha]; rfl

/-- The lane of a mask of chosen lanes. -/
theorem bitAt_maskWhere (f : Nat → Bool) (l : Nat) (hl : l < 32) : bitAt (maskWhere f).toNat l = f l := by
  unfold maskWhere maskOf
  have key : ∀ (n : Nat), n ≤ 32 → (((List.range n).filter f).foldl (fun a l => a + 2 ^ l) 0) < 2 ^ n ∧
      ∀ k < n, bitAt (((List.range n).filter f).foldl (fun a l => a + 2 ^ l) 0) k = f k := by
    intro n
    induction n with
    | zero => intro _; simp
    | succ n ih =>
      intro hn
      obtain ⟨h1, h2⟩ := ih (by omega)
      rw [List.range_succ, List.filter_append, List.foldl_append]
      generalize ((List.range n).filter f).foldl (fun a l => a + 2 ^ l) 0 = z at *
      cases hf : f n with
      | false =>
        simp only [List.filter_cons, hf, List.filter_nil, List.foldl_nil, Bool.false_eq_true, if_false]
        refine ⟨by rw [pow_succ]; omega, ?_⟩
        intro k hk
        rcases Nat.lt_or_ge k n with h | h
        · exact h2 k h
        · have : k = n := by omega
          subst this
          simp [bitAt, Nat.div_eq_of_lt h1, hf]
      | true =>
        simp only [List.filter_cons, hf, List.filter_nil, List.foldl_cons, List.foldl_nil, if_true]
        refine ⟨by rw [pow_succ]; omega, ?_⟩
        intro k hk
        rcases Nat.lt_or_ge k n with h | h
        · rw [← h2 k h]
          unfold bitAt
          have e : 2 ^ n = 2 ^ k * (2 * 2 ^ (n - k - 1)) := by rw [← pow_succ', ← pow_add]; congr 1; omega
          rw [e, Nat.add_mul_div_left _ _ (by positivity), Nat.add_mul_mod_self_left]
        · have : k = n := by omega
          subst this
          unfold bitAt
          rw [Nat.add_div_right _ (by positivity), Nat.div_eq_of_lt h1]; simp [hf]
  obtain ⟨h1, h2⟩ := key 32 (le_refl _)
  rw [BitVec.toNat_ofNat, Nat.mod_eq_of_lt h1]
  exact h2 l hl

end Sys2Proof.Machine
end

