-- ==== Sys2Proof/WellFormed.lean ====
section
/-! DEFINITION. Which commands are well formed: byte strings of the lengths their records have, and numbers within the ranges of the units they name. -/

namespace Sys2Proof

/-- A message is one header slot and the whole data slots its header counts (R418). -/
def Msg.wf (m : Msg) : Bool :=
  m.hdr.length == 16 && m.data.length % 16 == 0 &&
    (match m.hdr with
     | _ :: b1 :: _ => m.data.length / 16 == b1.toNat % 16
     | _ => false)

/-- A tick, a beat or a count fits its 64 bits. -/
def inWord64 (n : Nat) : Bool := decide (n < 2 ^ 64)

/-- A command is well formed. Rows that are not named carry nothing that could be out of shape. -/
def Instr.wf (i : Instr) : Bool :=
  match i with
  | .registerWrite _ off _ => decide (off < 2 ^ 24) && off % 4 == 0
  | .statCounterClear _ off _ => decide (off < 2 ^ 24) && off % 4 == 0
  | .counterLowRead _ off => decide (off < 2 ^ 24) && off % 4 == 0
  | .werrRead _ off => decide (off < 2 ^ 24) && off % 4 == 0
  | .barAccessMisaligned _ off _ => decide (off < 2 ^ 24)
  | .beatSymbol _ sym t => sym.length == 16 && inWord64 t
  | .probe _ sym t d => sym.length == 16 && inWord64 t && inWord64 d
  | .echo _ sym t => sym.length == 16 && inWord64 t
  | .hklIdentityExchange _ _ farPort lanes _ => decide (farPort.toNat < 6) && (lanes == 2 || lanes == 4 || lanes == 8)
  | .hklFlitReceive _ flit => flit.length == 256
  | .writeMessage _ m _ => m.wf
  | .pullMessage _ m => m.wf
  | .contributionMessage _ m => m.wf
  | .rosterMessage _ m => m.wf
  | .swapRequest _ m => m.wf
  | .swapState _ m => m.wf
  | .groupUpdate _ m => m.wf
  | .discardNotice _ m _ => m.wf
  | .passNotice _ m => m.wf
  | .commitNotice _ m => m.wf
  | .fellNotice _ m => m.wf
  | .mismatchNotice _ m => m.wf
  | .doorbellReadDone _ _ ok rec => !ok || rec.length == 16
  | .releaseReadDone _ ok rec => !ok || rec.length == 16
  | .ringEnableReadDone _ ok rec => !ok || rec.length == 16
  | .descriptorFetchDone _ _ _ ds _ => ds.all (fun x => x.length == 64)
  | .invw _ _ _ data _ => data.length == 128
  | .writeLand _ _ _ _ data => data.length == 128
  | .finalWriteArrive _ _ _ _ _ _ data t => data.length == 128 && inWord64 t
  | .repairReadDone _ ok data => !ok || data.length == 4096
  | .dramThermalSample temps t => temps.length == 128 && inWord64 t
  | .junctionSample temps t => temps.length == 72 && inWord64 t
  | .numvfsWrite v => decide (v < 2 ^ 16)
  | .svcWriteFrame _ data nbits => data.length == (nbits + 7) / 8
  | .svcSetPage _ data nbits => data.length == (nbits + 7) / 8
  | .compTransferDone words _ => decide (words.length ≤ 16)
  | .dramTrainingDone failed => failed.all (fun c => decide (c < 128))
  | .selfTestComplete cores routers _ t =>
    cores.all (fun c => decide (c.1 < 576)) && routers.all (fun r => decide (r < 576)) && inWord64 t
  | .bulkSlotIssue _ g _ _ _ => decide (g < 2 ^ 27)
  | .narrowAccess _ c _ _ _ => decide (c < 2 ^ 31)
  | .rowRemapDone _ _ _ row => decide (row < 24576)
  | _ => true

end Sys2Proof
end

