-- ==== Sys2Proof/Tests/Slice0.lean ====
section
/-! SUPPORT. The model's own tests: ill-formed commands that the check refuses, values that the spec writes out, and for every statement states that meet its
hypotheses. -/

open Sys2Proof Sys2Proof.Machine

namespace Sys2Proof.Tests

/-! ### States that the tests share -/

/-- Every register as reset has it, all domains out of reset, bring-up at READY (R549). -/
def devUp : Dev :=
  { devReset with boot := { bootReset with svcUp := true, up := true, checked := true, locked := true, pg := BitVec.allOnes 12 }, regs := [(0x100, 0x107)] }

/-- That device, with nothing waiting. -/
def up : State := { State.reset with dev := devUp }

/-- A group at its first instruction with all lanes active. -/
def grpW : Grp :=
  { slot := 0, k := 0, gi := 0, issue := 0, active := true, wait := 0, created := 0, pc := 0, mask := 0xFFFFFFFF, exited := 0, t := [], p := [], u := [],
    stack := [], loads := [], fence := none, beatWait := none, matWait := none, atBar := false, parked := false, drain := false, held := false, acq := 0, srN := [] }

/-- Its block. -/
def blkW : Blk := { lin := 0, k := 0, seed := 0, lmem := [], release := false, bounded := false }

/-- Its core. -/
def coreW (g : Grp) : Core := { coreReset 0 with cid := some 0, groups := [g], blocks := [blkW] }

/-- Its command, a kernel in progress. -/
def cmdW : Cmd :=
  { cid := 0, part := 0, ring := 0, idx := 0, kind := .descriptor, desc := [], enc := [], eng := 0, ph := .running, ins := [], outs := [⟨1, 1, 0, 4096, 0⟩], handles := [],
    elig := some (0, 0, 0), ready := true, late := false, launched := true, grant := 1, attempt := 0, retries := 0, excl := [], cores := [0], savedCores := 0,
    slots := [], fellEnd := .requeue,
    chk := { cover := 0, absent := 0, ord := false, bnd := false, sig := false, zero := false, corrected := 0, shadows := 0, shadowPend := 0, cores := 1, spares := 0 },
    inDig := 0, outDig := 0, srcDig := 0,
    run := { total := 2, next := 1, retired := 0, regs := 64, groups := 1, lmem := 65536, cfg := 1, accN := 1, code := 0, codeLen := 4096, entry := 0, args := 0, ord := false },
    pos := 0, progN := 0, entryK := 0, entryLive := false, stop := none, status := 0, detail := 0, byte3 := 0, rcpt := none, rcptIdx := 0, behind := none, poisoned := false }

/-- A command of another opcode at a phase. -/
def cmdAt (op : Nat) (ph : Phase) : Cmd := { cmdW with ph := ph, desc := le 1 op ++ zeros 63, cores := [] }

/-- One core with a command. -/
def stW (c : Core) (k : Cmd) : State := { up with dev := { devUp with cores := [(0, c)], cmds := [k] } }

/-- The group's place. -/
def at0 : At := ⟨0, 0, 0⟩

/-- The group with its block and its command. -/
def thrW (g : Grp) : Thr := ⟨0, 0, 0, cmdW, coreW g, g, blkW⟩

/-- A group that is neither held nor outside its code acts where its instruction decodes. -/
theorem acts_of {s : State} {g : At} {c : Chk} {x : Thr} (h1 : s.thr g = some x) (h2 : x.grp.blocked = false ∧ x.cmd.ph.fellable = true ∧ x.grp.pc < x.cmd.run.codeLen)
    (h3 : x.grp.hazard c.uses = false ∧ c.fault x.cmd.run.regs x.cmd.run.accN = none) : s.acts g c x :=
  ⟨h1, h2.1, h3.1, h2.2.1, h2.2.2, h3.2⟩

/-- The plain group acts. -/
theorem acts_plain (c : Chk) (h : grpW.hazard c.uses = false ∧ c.fault 64 1 = none) : (stW (coreW grpW) cmdW).acts at0 c (thrW grpW) :=
  acts_of rfl (by decide) h

/-- A write through the PF's registers is taken. -/
theorem opens_pf : opens devUp .pf 0x20000 := by unfold opens; decide

/-- The device with some registers beside its bring-up status, lowest offset first. -/
def dR (regs : List (Nat × Word)) : Dev := { devUp with regs := (0x100, 0x107) :: regs }

/-- A COPY of the first 4,096 bytes of device memory to the next. -/
def kCopy (ph : Phase) : Cmd :=
  { cmdAt 2 ph with ins := [⟨1, 0, 0, 4096, 0⟩], outs := [⟨2, 1, 0, 4096, 4096⟩] }
/-- The block with one command. -/
def sK (k : Cmd) : State := { up with dev := { devUp with cmds := [k] } }

/-- Line 0 with a directory entry. -/
def sLine (e : DirEnt) : State := { up with dev := { devUp with dir := [(0, e)] } }
def eI : DirEnt := ⟨.i, [], 0, none, []⟩
def eS : DirEnt := ⟨.s, [0, 15], 0, none, []⟩
def eE : DirEnt := ⟨.e, [], 3, none, []⟩

/-! ### Thread instructions -/

/-- t1 and t0 into t4, in every lane, with a format. -/
def fR (fmt : BitVec 4) : RForm := ⟨false, 0, 4, 1, 0, 0, false, false, false, 0, fmt, 0⟩
/-- t1 and 5 into t4. -/
def fI : IForm := ⟨false, 0, 4, 1, 5, false, 0⟩
/-- The plain group's core and command. -/
def s0 : State := stW (coreW grpW) cmdW
/-- An instruction whose checks pass acts in the plain group. -/
def passes (c : Chk) : Prop := grpW.hazard c.uses = false ∧ c.fault 64 1 = none

theorem test_int_met : ∀ o ∈ intRows, s0.acts at0 (o.chk (fR 9)) (thrW grpW) :=
  fun o ho => acts_plain _ ((by decide : ∀ o ∈ intRows, grpW.hazard (o.chk (fR 9)).uses = false ∧ (o.chk (fR 9)).fault 64 1 = none) o ho)

theorem test_intI_met : s0.acts at0 (iChk fI (some 1) (decide (fI.x.toNat < 2)) (.reg 1)) (thrW grpW) ∧
    s0.acts at0 (iChk fI (some 1) (decide (fI.x = 0)) (.reg 1)) (thrW grpW) := ⟨acts_plain _ (by decide), acts_plain _ (by decide)⟩

/-- Destination p3. -/
def fP (fmt : BitVec 4) : RForm := { fR fmt with dst := 3 }

theorem test_isetp_met : s0.acts at0 (rChk (fP 9) (decide ((fP 9).fmt = 9)) (decide ((fP 9).rm = 0)) 0x3C0 (some 1) (some 1) none .pred (decide (6 ≤ (fP 9).m 6 3))) (thrW grpW) ∧
    s0.acts at0 (iChk { fI with dst := 3 } (some 1) (decide (fI.x.toNat < 6)) .pred) (thrW grpW) := ⟨acts_plain _ (by decide), acts_plain _ (by decide)⟩

theorem test_move_met : (∀ o ∈ moveRows, s0.acts at0 (rChk { fR 0 with sa := if o.a then 1 else 0 } true true o.mods (if o.a then some 1 else none)
      (if o.b then some 1 else none) none (.reg 1) false) (thrW grpW)) ∧
    s0.acts at0 (iChk { fI with sa := 0 } none (decide (fI.x = 0)) (.reg 1)) (thrW grpW) :=
  ⟨fun o ho => acts_plain _ ((by decide : ∀ o ∈ moveRows, grpW.hazard (rChk { fR 0 with sa := if o.a then 1 else 0 } true true o.mods (if o.a then some 1 else none)
      (if o.b then some 1 else none) none (.reg 1) false).uses = false ∧ (rChk { fR 0 with sa := if o.a then 1 else 0 } true true o.mods (if o.a then some 1 else none)
      (if o.b then some 1 else none) none (.reg 1) false).fault 64 1 = none) o ho), acts_plain _ (by decide)⟩

theorem test_plop_t2u_met : s0.acts at0 (rChk { fP 0 with sa := 0, sb := 0 } (decide ((fP 0).fmt = 0)) (decide ((fP 0).rm = 0)) 3 none none none .pred
      (decide (8 ≤ (fP 0).sa.toNat) || decide (8 ≤ (fP 0).sb.toNat))) (thrW grpW) ∧
    s0.acts at0 (rChk (fR 0) (decide ((fR 0).fmt = 0)) (decide ((fR 0).rm = 0)) 0 (some 1) none none .uni false) (thrW grpW) ∧
    ((thrW grpW).taking (fR 0).gn (fR 0).gp ≠ 0 ∧ bitAt ((thrW grpW).taking (fR 0).gn (fR 0).gp).toNat 0 = true) ∧
    (thrW grpW).taking false 1 = 0 := ⟨acts_plain _ (by decide), acts_plain _ (by decide), by decide, by decide⟩

theorem test_uniform_met : s0.acts at0 (rChk { fR 9 with sa := 0, sb := 0 } (decide ((fR 9).fmt = 9)) (decide ((fR 9).rm = 0)) 0 none none none .uni
      (decide (64 ≤ (fR 9).sa.toNat) || decide (64 ≤ (fR 9).sb.toNat))) (thrW grpW) ∧
    s0.acts at0 (iChk { fI with sa := 0 } none (decide (fI.x = 0)) .uni) (thrW grpW) := ⟨acts_plain _ (by decide), acts_plain _ (by decide)⟩

theorem test_fp_met : rndOf (fR 8).rm.toNat = some .rne ∧ (∀ o ∈ fpRows, s0.acts at0 (rChk (fR 8) (decide ((fR 8).fmt = 8)) (decide ((fR 8).rm.toNat < 5))
      (if o.fma then 0x3F0 else 0x3C0) (some 1) (some 1) (if o.fma then some 1 else none) (.reg 1) false) (thrW grpW)) ∧
    s0.acts at0 (iChk fI (some 1) (decide (fI.x.toNat < 5)) (.reg 1)) (thrW grpW) :=
  ⟨rfl, fun o ho => acts_plain _ ((by decide : ∀ o ∈ fpRows, grpW.hazard (rChk (fR 8) (decide ((fR 8).fmt = 8)) (decide ((fR 8).rm.toNat < 5))
      (if o.fma then 0x3F0 else 0x3C0) (some 1) (some 1) (if o.fma then some 1 else none) (.reg 1) false).uses = false ∧ (rChk (fR 8) (decide ((fR 8).fmt = 8))
      (decide ((fR 8).rm.toNat < 5)) (if o.fma then 0x3F0 else 0x3C0) (some 1) (some 1) (if o.fma then some 1 else none) (.reg 1) false).fault 64 1 = none) o ho),
    acts_plain _ (by decide)⟩

theorem test_packed_met (fmt : BitVec 4) (h : fmt = 6 ∨ fmt = 7) : ∀ o ∈ packedRows, s0.acts at0 (rChk (fR fmt) (decide ((fR fmt).fmt = 6) || decide ((fR fmt).fmt = 7))
      (decide ((fR fmt).rm.toNat < 5)) (if o.fma then 0x3F0 else 0x3C0) (some 1) (some 1) (if o.fma then some 1 else none) (.reg 1) false) (thrW grpW) := by
  intro o ho
  simp only [packedRows, List.mem_cons, List.not_mem_nil, or_false] at ho
  rcases h with rfl | rfl <;> rcases ho with rfl | rfl | rfl | rfl <;> exact acts_plain _ (by decide)

theorem test_minmax_fsetp_met : s0.acts at0 (rChk (fR 8) (decide ((fR 8).fmt = 8)) (decide ((fR 8).rm = 0)) 0x3C0 (some 1) (some 1) none (.reg 1) false) (thrW grpW) ∧
    s0.acts at0 (rChk (fR 6) (decide ((fR 6).fmt = 6) || decide ((fR 6).fmt = 7)) (decide ((fR 6).rm = 0)) 0x3C0 (some 1) (some 1) none (.reg 1) false) (thrW grpW) ∧
    s0.acts at0 (rChk (fP 8) (decide ((fP 8).fmt = 8)) (decide ((fP 8).rm = 0)) 0x3C7 (some 1) (some 1) none .pred (decide (6 ≤ (fP 8).m 0 3))) (thrW grpW) ∧
    s0.acts at0 (rChk { fP 7 with dst := 6 } (decide ((fP 7).fmt = 6) || decide ((fP 7).fmt = 7)) (decide ((fP 7).rm = 0)) 0x3C7 (some 1) (some 1) none .pred
      (decide (6 ≤ (fP 7).m 0 3) || decide (6 < ({ fP 7 with dst := 6 } : RForm).dst.toNat))) (thrW grpW) :=
  ⟨acts_plain _ (by decide), acts_plain _ (by decide), acts_plain _ (by decide), acts_plain _ (by decide)⟩

theorem test_special_met : s0.acts at0 (rChk (fR 8) (decide ((fR 8).fmt = 8)) (decide ((fR 8).rm = 0)) 0 (some 1) none none (.reg 1) false) (thrW grpW) ∧
    ∃ neg m e, valueOf 8 0x40400000 = .fin neg m e := ⟨acts_plain _ (by decide), false, _, _, rfl⟩

/-- CVT from B16 to S32; CVTBLK packing MX6 values of S32, and unpacking them. -/
def fCvt : RForm := { fR 6 with mods := 0x200 }
def fPack : RForm := { fR 2 with mods := 0x200 }
def fUnpack : RForm := { fR 1 with mods := 0x220 }

theorem test_cvt_met : s0.acts at0 (rChk fCvt (cvtFmt fCvt.fmt.toNat) (decide (fCvt.rm.toNat < 5)) 0x3FF (some 1) none none (.reg 1)
      (!cvtFmt (fCvt.m 6 4) || decide (32 < fmtBits fCvt.fmt.toNat * (fCvt.m 3 3 + 1)) || decide (32 < fmtBits (fCvt.m 6 4) * (fCvt.m 0 3 + 1)))) (thrW grpW) ∧
    (∀ f ∈ [fPack, fUnpack], s0.acts at0 (rChk f (decide (f.fmt = 1) || decide (f.fmt = 2)) (decide (f.rm.toNat < 5)) 0x3E0 (some 1) none none (.reg 1)
      (decide (f.m 6 4 < 6) || decide (8 < f.m 6 4))) (thrW grpW)) ∧ fPack.m 5 1 = 0 ∧ fUnpack.m 5 1 = 1 := by
  refine ⟨acts_plain _ (by decide), fun f hf => ?_, by decide, by decide⟩
  simp only [List.mem_cons, List.not_mem_nil, or_false] at hf
  rcases hf with rfl | rfl <;> exact acts_plain _ (by decide)

/-- Word accesses at t2 into or from t4; offset 0. -/
def fM (order scope : BitVec 2) : MForm := ⟨false, 0, 4, 2, 6, 0, scope, 0, 2, order, 0, false⟩

theorem test_mem_met : s0.acts at0 (mChk { fM 0 0 with sb := 0 } false true true true [] true (some (sizeWords 2))) (thrW grpW) ∧
    ({ fM 0 0 with sb := 0 } : MForm).allowed false false true (thrW grpW) ∧
    s0.acts at0 (mChk { fM 0 0 with dst := 0 } false true true true [⟨6, sizeWords 2, false⟩] false none) (thrW grpW) ∧ (fM 0 0).allowed false true true (thrW grpW) ∧
    (∀ cas, s0.acts at0 (atomChk (fM 0 0) false cas) (thrW grpW)) := by
  refine ⟨acts_plain _ (by decide), by unfold MForm.allowed; decide, acts_plain _ (by decide), by unfold MForm.allowed; decide, fun cas => ?_⟩
  cases cas <;> exact acts_plain _ (by decide)

theorem test_glob_met : s0.acts at0 (mChk { fM 0 0 with sb := 0 } true true true true [] true (some (sizeWords 2))) (thrW grpW) ∧
    ({ fM 0 0 with sb := 0 } : MForm).allowed true false true (thrW grpW) ∧ (thrW grpW).taking false 0 ≠ 0 ∧ ((thrW grpW).core.l1Line 0 0).isSome = false ∧
    s0.acts at0 (mChk { fM 0 0 with dst := 0 } true true true true [⟨6, sizeWords 2, false⟩] false none) (thrW grpW) ∧ (fM 0 0).allowed true true true (thrW grpW) ∧
    (fM 0 0).allowed true true false (thrW grpW) ∧ s0.acts at0 (mChk { fM 0 0 with sb := 0, dst := 0 } true true true true [] true none) (thrW grpW) ∧
    (fM 0 0).allowed true false false (thrW grpW) ∧ (∀ cas, s0.acts at0 (atomChk (fM 0 0) true cas) (thrW grpW)) := by
  refine ⟨acts_plain _ (by decide), by unfold MForm.allowed; decide, by decide, rfl, acts_plain _ (by decide), by unfold MForm.allowed; decide,
    by unfold MForm.allowed; decide, acts_plain _ (by decide), by unfold MForm.allowed; decide, fun cas => ?_⟩
  cases cas <;> exact acts_plain _ (by decide)

/-- A load that hits L1 in every lane. -/
theorem test_ldg_hit_met : let c : Core := { coreW grpW with l1 := [⟨0, zeros 128, 0⟩] }
    (c.l1Line grpW.acq 0).isSome = true ∧ (stW c cmdW).thr at0 = some { thrW grpW with core := c } := by decide

/-- A fence with a store of its group waiting, and with none; a load outstanding. -/
theorem test_fence_load_met : s0.acts at0 (rChk { fR 0 with mods := 0xE, sa := 0, dst := 0 } true true 0xF none none none .none false) (thrW grpW) ∧
    (let g := { grpW with fence := some (2, 3) }; (stW (coreW g) cmdW).thr at0 = some (thrW g) ∧ (stW (coreW g) cmdW).dev.stores = [] ∧ g.loads = []) ∧
    (let g := { grpW with loads := [⟨4, 4, [(0, 0), (31, 128)], none, [], true, false, 1, false⟩] }
     (stW (coreW g) cmdW).thr at0 = some (thrW g) ∧ (stW (coreW g) cmdW).dev.poison = []) := ⟨acts_plain _ (by decide), by decide, by decide⟩

/-- BRA by 64 bytes, reconverging 128 bytes on: taken by all lanes, by none, by the lanes of p1. -/
def fBra (gp : BitVec 3) (rd : BitVec 16) : BForm := ⟨false, gp, 0, rd, 0, 8⟩
def grpHalf (n : Nat) : Grp := { grpW with p := [(1, 0xFFFF)], stack := List.replicate n ⟨0x200, 0xFFFFFFFF, 0x100, 0⟩ }

theorem test_bra_met : (∀ gp rd, (∀ g ∈ [grpHalf 0, grpHalf 31, grpHalf 32], (stW (coreW g) cmdW).acts at0
      ⟨badGuard (fBra gp rd).gn (fBra gp rd).gp || decide ((fBra gp rd).dst ≠ 0) || decide ((fBra gp rd).res ≠ 0), [], none⟩ (thrW g))) ∧
    (thrW (grpHalf 0)).taking false 0 = (grpHalf 0).mask ∧ (thrW (grpHalf 0)).taking false 2 = 0 ∧
    ((thrW (grpHalf 0)).taking false 1 ≠ (grpHalf 0).mask ∧ (thrW (grpHalf 0)).taking false 1 ≠ 0) ∧ (grpHalf 31).stack.length < 32 ∧ 32 ≤ (grpHalf 32).stack.length := by
  refine ⟨fun gp rd g hg => ?_, by decide, by decide, by decide, by decide, by decide⟩
  simp only [List.mem_cons, List.not_mem_nil, or_false] at hg
  rcases hg with rfl | rfl | rfl <;> refine ⟨rfl, rfl, rfl, rfl, by decide, ?_⟩ <;> simp [Chk.fault, badGuard, fBra]

theorem test_settle_met : (grpHalf 32).stack.length ≤ 32 ∧ (∀ e ∈ (grpHalf 32).stack, e.altMask &&& (grpHalf 32).exited = 0) ∧ (grpHalf 32).mask &&& (grpHalf 32).exited = 0 := by
  decide

/-- EXIT of some lanes, of the last lanes with an atomic outstanding, and of the last lanes of the block. -/
theorem test_exit_met : s0.acts at0 (rChk { fR 0 with dst := 0, sa := 0 } true true 0 none none none .none false) (thrW grpW) ∧
    grpW.exited ||| (thrW (grpHalf 0)).taking false 1 ≠ 0xFFFFFFFF ∧ grpW.exited ||| (thrW grpW).taking false 0 = 0xFFFFFFFF ∧
    (∀ y ∈ (thrW grpW).core.groups, y.slot ≠ grpW.slot → y.k ≠ grpW.k) ∧
    (∃ l ∈ [(⟨4, 4, [(0, 0)], some 0, [⟨0, 1, 0, none⟩], false, false, 1, false⟩ : Load)], l.aop ≠ none) ∧
    (let z := { grpW with slot := 1 }; ∃ y ∈ ({ coreW grpW with groups := [grpW, z] } : Core).groups, y.slot ≠ grpW.slot ∧ y.k = grpW.k) :=
  ⟨acts_plain _ (by decide), by decide, by decide, by decide, ⟨_, List.mem_singleton.2 rfl, by decide⟩, ⟨{ grpW with slot := 1 }, by decide⟩⟩

theorem test_barrier_met : ~~~grpW.exited &&& ~~~((thrW grpW).taking false 0) = 0 ∧
    (stW { coreW grpW with blocks := [{ blkW with release := true }] } cmdW).dev.core 0 = { coreW grpW with blocks := [{ blkW with release := true }] } ∧
    (s0.dev.core 0).blocks.find? (fun z => z.k == 0) = some blkW ∧ blkW.release = false := by decide

/-- YIELD asked to park: with nothing outstanding, and with a matrix operation in its queue. -/
theorem test_yield_met : (stW (coreW grpW) { cmdW with ph := .parking }).thr at0 = some { thrW grpW with cmd := { cmdW with ph := .parking } } ∧
    (thrW grpW).taking false 0 = ~~~grpW.exited ∧ grpW.loads = [] ∧ Phase.parking.fellable = true ∧ (thrW grpW).core.run ++ (thrW grpW).core.mq = [] := by decide

/-- BEATWAIT for beat 5, notch 1,023, before, at and after it. -/
def grpBeat : Grp := { grpW with t := [(32 * 2, 5), (32 * 3, 0), (32 * 4, 1023)] }

theorem test_beatwait_met : isLowest ((thrW grpBeat).taking false 0) 0 ∧ grpBeat.rd64 false 2 0 = 5 ∧ (grpBeat.rdT 4 0).toNat = 1023 ∧ (1023 : Nat) < 1024 ∧
    s0.acts at0 (rChk { fR 0 with sa := 2, sb := 4, dst := 0 } true true 0 (some 2) (some 1) none .none false) (thrW grpW) ∧
    (let b (n k : Nat) : BeatUnit := { beatReset with st := .locked, ever := true, counted := true, num := n, notch := k }
     (b 5 1022).reached 5 1023 = false ∧ (b 5 1023).reached 5 1023 = true ∧ (b 6 0).reached 5 1023 = true) := by
  refine ⟨⟨by decide, by decide, by decide⟩, by decide, by decide, by decide, acts_plain _ (by decide), by decide⟩

theorem test_chkmark_met : s0.acts at0 (rChk { fR 0 with sa := 0 } true true 1 none none none (.reg 1) false) (thrW grpW) ∧
    s0.acts at0 (rChk { fR 0 with sa := 0, dst := 0, mods := 1 } true true 1 none none none .none false) (thrW grpW) ∧
    s0.dev.blockResolved 0 0 0 = true ∧ (stW { coreW grpW with cmps := [⟨0, 0, tileCleared⟩] } cmdW).dev.blockResolved 0 0 0 = false :=
  ⟨acts_plain _ (by decide), acts_plain _ (by decide), by decide, by decide⟩

theorem test_nop_beatrd_met : s0.acts at0 (rChk { fR 0 with sa := 0, dst := 0 } true true 0 none none none .none false) (thrW grpW) ∧
    (let f : RForm := { fR 0 with sa := 0, dst := 252 }
     let chk := rChk f (decide (f.fmt = 0)) (decide (f.rm = 0)) 0 none none none (.reg 1) (decide (f.dst.toNat % 2 ≠ 0) || decide (252 < f.dst.toNat))
     let k := { cmdW with run := { cmdW.run with regs := 255 } }
     (stW (coreW grpW) k).acts at0 { chk with uses := chk.uses ++ [⟨f.dst.toNat + 1, 1, false⟩, ⟨f.dst.toNat + 2, 1, false⟩] } { thrW grpW with cmd := k }) :=
  ⟨acts_plain _ (by decide), acts_of rfl (by decide) (by decide)⟩

/-! ### The matrix unit -/

/-- MMA of two operands of format code 4 with CLR, from t1 and t2 into t4; MRD to S32 from t1; MCLR; MWAIT on t1. -/
def fMma : XForm := ⟨false, 0, 4, 1, 2, 255, 0x44200⟩
def fMrd : XForm := ⟨false, 0, 4, 1, 0, 0, 0x80000⟩
def fMclr : XForm := ⟨false, 0, 4, 0, 0, 0, 0⟩
/-- The matrix operands lie at offsets 0 and 32,768. -/
def grpMat : Grp := { grpW with t := [(64, 32768)] }

theorem test_matrix_met : (∀ e ∈ matRows.zip [fMma, fMrd, fMclr], (stW (coreW grpMat) cmdW).acts at0 (e.1.chk e.2) (thrW grpMat)) ∧
    isLowest ((thrW grpMat).taking false 0) 0 ∧ (thrW grpMat).core.mq.length < 16 := by
  refine ⟨fun e he => ?_, ⟨by decide, by decide, by decide⟩, by decide⟩
  simp only [matRows, List.zip_cons_cons, List.zip_nil_left, List.mem_cons, List.not_mem_nil, or_false] at he
  rcases he with rfl | rfl | rfl <;> exact acts_of rfl (by decide) (by decide)

theorem test_mma_operands_met : ∃ o ∈ matRows, o.ok fMma (thrW grpMat) 0 ∧ mmaMeets fMma (thrW grpMat) .unscaled := by
  refine ⟨_, List.mem_cons_self, ⟨.unscaled, by decide, by decide, .inl (by decide), ?_⟩, .inl (by decide)⟩
  decide

theorem test_mrd_operands_met : ∃ o ∈ matRows, o.ok fMrd (thrW grpMat) 0 ∧ o.sr fMrd = 0 := by
  refine ⟨_, List.mem_cons_of_mem _ List.mem_cons_self, ?_, by decide⟩
  show xm fMrd 16 4 ≠ 1 ∧ _
  decide

theorem test_mwait_met : s0.acts at0 (xChk ⟨false, 0, 0, 1, 0, 0, 0⟩ false [1] false false) (thrW grpW) ∧ isLowest ((thrW grpW).taking false 0) 0 ∧
    (let t : Word := 1; t ≠ 0 ∧ 2 ^ 31 ≤ ((0 : Word) - t).toNat ∧ ((1 : Word) - t).toNat < 2 ^ 31) := ⟨acts_plain _ (by decide), ⟨by decide, by decide, by decide⟩, by decide⟩

/-- An operation on accumulator 0, queued and in progress. -/
def opW (k : MatKind) : MatOp := ⟨k, 1, 0, 0, 0, true, false, 4, 4, 0, 32768, 0, 0, 0, 0, 0, 0xFFFFFFFF, 0, false⟩

theorem test_matrix_ops_met : (∀ k, (stW { coreW grpW with mq := [opW k] } cmdW).dev.core 0 = { coreW grpW with mq := [opW k] } ∧ (coreW grpW).run = [] ∧ (coreW grpW).cid = some 0) ∧
    (∀ r ∈ [opW .mma], ({ opW .mclr with acc := 1 } : MatOp).acc ≠ r.acc) ∧ flag (s0.dev.reg 0x80000) 3 = true ∧
    flag (({ devUp with regs := [(0x100, 0x107), (0x80000, 0)] } : Dev).reg 0x80000) 3 = false ∧
    (∀ k, (stW { coreW grpW with run := [opW k] } cmdW).dev.core 0 = { coreW grpW with run := [opW k] }) ∧
    (coreW grpW).cid.bind s0.dev.cmd = some cmdW ∧ (coreW grpW).blocks.find? (fun z => z.k == 0) = some blkW :=
  ⟨fun _ => ⟨rfl, rfl, rfl⟩, by decide, by decide, by decide, fun _ => rfl, rfl, rfl⟩

/-- A cleared tile takes the product of the value 1 at element (0, 0): its sum stays far below 2⁹⁵ units. -/
theorem test_wide_met : let one : Array (List (Fv × Nat)) := #[[(.fin false 1 0, 0)]]
    natAt tileCleared.fl 0 = 0 ∧ (∀ p ∈ (products false one one 0 0).map (·.2), p.isFin = true) ∧ (products false one one 0 0).map (·.2) = [.fin false 1 0] := by
  decide

/-- The word of IADD t4, t1, t2 of I32 (Table: Instruction forms), and one with an opcode of no row. -/
theorem test_word_met : wbits 0x1004010200000900 56 8 = 0x10 ∧ (∀ o ∈ opcodeMap, wbits 0xFF00000000000000 56 8 ≠ o.1) ∧ s0.thr at0 = some (thrW grpW) := by
  refine ⟨by decide, fun o ho => ?_, rfl⟩
  exact (by decide : ∀ n ∈ opcodeMap.map (·.1), wbits 0xFF00000000000000 56 8 ≠ n) o.1 (List.mem_map_of_mem ho)

/-! ### Cores, commands, checks and records -/

/-- The next block of a kernel goes to core 0 of a partition whose 32 active tiles are in use by it (R165). -/
def kDisp : Cmd := { cmdW with cores := [0, 1], desc := le 1 4 ++ zeros 63, run := { cmdW.run with total := 4, next := 2, lmem := 16384 } }

theorem test_cycle_met : (stW { coreW grpW with stall := 5 } cmdW).dev.core 0 = { coreW grpW with stall := 5 } ∧ (coreW grpW).cid = some 0 ∧
    (up.dev.core 0).cid = none ∧ (up.dev.reg 0x120080 = BitVec.ofNat 32 16) ∧ ((coreW grpW).stall = 0 ∧ (coreW grpW).groups = [grpW] ∧ grpW.active = true ∧ grpW.wait = 0 ∧ grpW.issue < 4) ∧
    ((stW (coreW grpW) cmdW).mem = [] ∧ (stW (coreW grpW) cmdW).wordOf 0 grpW = 0) := by decide

theorem test_dispatch_met : (let s := stW (coreW grpW) kDisp; s.dev.cmd 0 = some kDisp ∧ kDisp.op = 4 ∧ kDisp.ph = .running ∧ kDisp.run.next < kDisp.run.total ∧
    s.dev.dispatchTo kDisp (s.wearTile 0) = some 1) := by decide

theorem test_start_met : (∀ o ∈ startRows, (sK (cmdAt o.op .loaded)).dev.cmd 0 = some (cmdAt o.op .loaded) ∧ (cmdAt o.op .loaded).op = o.op ∧ (cmdAt o.op .loaded).ph = .loaded ∧
      (cmdAt 0 .loaded).op ≠ o.op) ∧ ((cmdAt 3 .granted).ph = .granted ∧ (cmdAt 3 .granted).ins = []) := by decide

theorem test_intake_met : (sK (kCopy .granted)).dev.cmd 0 = some (kCopy .granted) ∧ (kCopy .granted).ph = .granted ∧ (kCopy .granted).chk.zero = false ∧
    (sK (kCopy .granted)).dev.poison = [] ∧ ((kCopy .running).ph = .running ∧ (kCopy .running).op = 2 ∧ (kCopy .running).outs = ⟨2, 1, 0, 4096, 4096⟩ :: [] ∧
    isHost 4096 = false ∧ isHost (2 ^ 63) = true) ∧ (∃ r, (kCopy .running).ins = [r] ∧ r.len = 4096) := by
  refine ⟨by decide, by decide, by decide, by decide, by decide, ⟨_, rfl, rfl⟩⟩

/-- A submission ring of 64 entries with a fetch read of one descriptor in flight. -/
def dFetch : Dev := { devUp with regs := [(0x100, 0x107), (srOff 0 + 8, 0x106)], sr := [(0, { srReset 0 with inFetch := [(63, 1)], prod := 0, cons := 63 })] }

theorem test_fetch_met : (dFetch.sring 0).inFetch = (63, 1) :: [] ∧ (dFetch.sring 0).err = false ∧ dFetch.srN 0 = 6 := by decide

/-- A NOP descriptor passes the checks; one of no opcode fails them. -/
theorem test_descriptor_met : ((up.looks devUp [] 0).descriptor (zeros 64)).2 = none ∧ ((up.looks devUp [] 0).descriptor (le 1 0xFF ++ zeros 63)).2 ≠ none ∧
    (∀ c ∈ up.dev.cmds, c.cid ≠ up.dev.nextCid) := by decide

/-- A list of one entry of zeros, at address 0. -/
def kList : Cmd := { cmdAt 1 .running with desc := le 1 1 ++ zeros 35 ++ le 4 1 ++ zeros 24, ins := [⟨1, 0, 0, 32, 0⟩], outs := [] }

theorem test_entry_met : (let s : State := { up with dev := { devUp with cmds := [kList], nextCid := 1 } }
    s.dev.cmd 0 = some kList ∧ kList.op = 1 ∧ kList.entryLive = false ∧ kList.stop = none ∧ kList.entryK < fieldAt kList.desc 36 4 ∧ (∀ x ∈ s.dev.cmds, x.cid ≠ s.dev.nextCid)) := by
  decide

theorem test_commit_met : ∀ o ∈ commitRows, (sK (cmdAt o.1 .loaded)).dev.cmd 0 = some (cmdAt o.1 .loaded) ∧ (cmdAt o.1 .loaded).op = o.1 ∧ (cmdAt o.1 .loaded).ph = .loaded := by
  intro o ho
  simp only [commitRows, List.mem_cons, List.not_mem_nil, or_false] at ho
  rcases ho with rfl | rfl | rfl | rfl | rfl | rfl <;> exact ⟨rfl, rfl, rfl⟩

/-- WAIT of value 0 is met at once, and one of value 1 is not while its tally is 0. -/
theorem test_wait_met : (up.dev.tallyOf 0 0 + 2 ^ 64 - 0) % 2 ^ 64 < 2 ^ 63 ∧ ¬(up.dev.tallyOf 0 0 + 2 ^ 64 - 1) % 2 ^ 64 < 2 ^ 63 := by decide

/-- CANCEL of the command with tag 0 at index 1 of ring 0, which waits, runs, or has committed. -/
def kCancel : Cmd := { cmdAt 12 .loaded with cid := 1, idx := 2, desc := le 1 12 ++ zeros 31 ++ le 2 1 ++ zeros 30, outs := [] }
def kTarget (ph : Phase) : Cmd := { cmdAt 2 ph with idx := 1 }

theorem test_cancel_met : ∀ ph ∈ [Phase.waiting, .running, .receipt, .completion], let s : State := { up with dev := { devUp with cmds := [kTarget ph, kCancel] } }
    s.dev.cmd 1 = some kCancel ∧ kCancel.op = 12 ∧ s.dev.cancelTarget kCancel = some (kTarget ph) ∧ s.dev.cmd (kTarget ph).cid = some (kTarget ph) ∧
    (∀ q ∈ (s.dev.srv 0).seqs, q.cid ≠ 0) ∧ (ph = .running → ph.fellable = true) := by decide

/-- A comparison whose tile agrees with its line sums, and one with an element upset. -/
theorem test_compare_passes_met : ∀ l, (tileCleared.upset []).linePasses l = true := fun l => by
  simp [Tile.linePasses, Tile.upset, tileCleared, lineSum, lineOr, intAt, natAt, Sparse.get]

theorem test_compare_fails_met : (tileCleared.upset [⟨0, 0, 1⟩]).linePasses 0 = false := by decide +kernel

theorem test_compare_met : (let c : Core := { coreW grpW with cmps := [⟨0, 0, tileCleared⟩] }; (stW c cmdW).dev.core 0 = c ∧ (stW c cmdW).dev.cmd 0 = some cmdW ∧ cmdW.run.retired < cmdW.run.total) := by
  decide

theorem test_shadow_met : (let c : Core := { coreReset 0 with shadow := some (1, 0) }; (stW c cmdW).dev.core 0 = c ∧ (1 : Nat) ≠ 0xFF) ∧ up.dev.reg 0x80028 ≠ 0xFFFFFFFF ∧
    fld (up.dev.reg 0x80000) 0 3 = 2 := by decide

theorem test_host_timeout_met : (∃ r ∈ [(⟨1, 0, 0, 64, 2 ^ 63⟩ : Range)], isHost r.addr = true) ∧
    (∃ l ∈ [(⟨4, 4, [(0, 2 ^ 63)], none, [], false, false, 1, false⟩ : Load)], ∃ e ∈ l.lanes, isHost e.2 = true) := by decide

/-- The receipt ring of partition 0, of 64 entries, enabled and empty, with a receipt waiting. -/
def dRcpt : Dev :=
  { devUp with regs := [(0x100, 0x107), (drCfgOff 0, 0x106), (drCfgOff 256, 0x106)],
               dr := [(0, { drReset 0 with wait := [⟨zeros 32, some 0, false⟩] }), (256, { drReset 256 with wait := [⟨zeros 128, some 0, false⟩] })], cmds := [cmdAt 0 .receipt] }

theorem test_records_met : hasRoom dRcpt 256 ∧ hasRoom dRcpt 0 ∧ (dRcpt.dring 256).wait = ⟨zeros 128, some 0, false⟩ :: [] ∧ dRcpt.commitStalled 0 = false ∧
    dRcpt.cmd 0 = some (cmdAt 0 .receipt) ∧ (∀ x ∈ dRcpt.cmds, x.part < 16) ∧ dRcpt.unshown 0 0 = false ∧ ¬hasRoom devUp 256 := by
  unfold hasRoom; decide

/-- A seal that waits since tick 0. -/
def sealW : SealRec := ⟨0, 1, 1, 1, 0, 0, 0, 0, zeros 32, zeros 48, 0, false, [0]⟩
def chW : Chain := { (devUp.chain 0) with waiting := [sealW], signing := some sealW, signed := [sealW] }
def dSeal : Dev := { devUp with chains := [(0, chW)], regs := [(0x100, 0x107), (drCfgOff 304, 1)], cmds := [cmdAt 10 .completion] }

theorem test_seals_met : (dSeal.chain 0).signing = some sealW ∧ (dSeal.chain 0).signed = sealW :: [] ∧ (dSeal.chain 0).waiting = sealW :: [] ∧ sealW.stalled = false ∧
    sealW.tick + 160000000 ≤ 160000000 ∧ 159999999 < sealW.tick + 160000000 ∧ dSeal.reg 0x80038 ≠ 0xFFFFFFFF ∧ hasRoom dSeal 304 := by unfold hasRoom; decide

/-- The PF event ring, enabled; one event held; events dropped. -/
def dEvt (q : EvQ) : Dev := { devUp with regs := [(0x100, 0x107), (drCfgOff (evRingNo 16), 0x106)], evq := [(16, q)] }

theorem test_events_met : (let d := dEvt ⟨[zeros 32], [], 0, 0, 0⟩; (d.evQ (evNo .pf)).q = zeros 32 :: [] ∧ hasRoom d (evRingNo (evNo .pf))) ∧
    (let d := dEvt ⟨[], [], 3, 7, 1⟩; (d.evQ (evNo .pf)).q = [] ∧ (d.evQ (evNo .pf)).lost ≠ 0 ∧ hasRoom d (evRingNo (evNo .pf))) := by unfold hasRoom; decide

/-- An entry has waited MOD_DLY notches. -/
theorem test_interrupt_met : let r := devRingNo (.completion 0 0)
    let d : Dev := { devUp with regs := [(0x100, 0x107), (drCfgOff r, 0x306), (drCfgOff r + 4, 0x300)], dr := [(r, { drReset r with since := some 3 })] }
    d.drInt r = true ∧ (d.dring r).since = some 3 ∧ d.drModDly r = 3 := by decide

/-- With a duty of 16 a core issues in every cycle; the duty of 1 lets it issue in some and not in others, wherever they lie. -/
theorem test_issue_met : (∀ c : Core, up.dev.issues 0 c = true) ∧
    ∀ n : Nat, (∃ k < 16, (k + n) * 1 % 16 < 1) ∧ ∃ k < 16, ¬(k + n) * 1 % 16 < 1 := by
  refine ⟨fun c => ?_, fun n => ⟨⟨(16 - n % 16) % 16, by omega, by omega⟩, ⟨(17 - n % 16) % 16, by omega, by omega⟩⟩⟩
  have h : up.dev.regN (0x120080 + 4 * (0 / 36)) = 16 := by decide
  simp only [Dev.issues, h]
  simp

/-! ### The host port and registers -/

theorem test_wake_met : up.dev.ready = true ∧ (({ devUp with wakes := [(0, ⟨true, false, false⟩)] } : Dev).wakeOf 0) = ⟨true, false, false⟩ ∧
    (devUp.wakeOf 16).asked = false ∧ (0 : Nat) ∈ devUp.owned 0 ∧ devUp.partSt 0 ≠ 3 ∧ State.reset.dev.ready = false ∧
    (dR [(srOff 0 + 8, 0x106)]).srEn 0 = true ∧ (dR [(drCfgOff 256, 0x106)]).drFull 256 = false := by decide

/-- A doorbell or release record: number, index, number again. -/
def recW (seq idx : Nat) : Bytes := le 4 seq ++ le 2 idx ++ zeros 6 ++ le 4 seq
/-- A ring of 64 entries whose record is being read, 10 of them taken up by producer 15 and consumer 5. -/
def dBell (retry : Bool) : Dev :=
  { (dR [(srOff 0 + 8, 0x106), (drCfgOff 0, 0x106)]) with
    sr := [(0, { srReset 0 with reading := true, retry := retry, prod := 15, cons := 5 })],
    dr := [(0, { drReset 0 with reading := true, retry := retry, prod := 15, cons := 5 })] }

/-- The last producer index that fits is 4, one behind the consumer; 5 and 64 do not. -/
theorem test_doorbell_met : (∀ b, ((dBell b).sring 0).reading = true ∧ ((dBell b).sring 0).retry = b) ∧
    (let d := dBell false; let x := d.sring 0; let n := 2 ^ d.srN 0
     let fits (i : Nat) : Bool := decide (i < n ∧ (i + n - x.prod) % n ≤ n - 1 - (x.prod + n - x.cons) % n)
     fits 15 = true ∧ fits 4 = true ∧ fits 5 = false ∧ fits 64 = false ∧ x.lastSeq = 0) ∧
    fieldAt (recW 1 4) 0 4 = fieldAt (recW 1 4) 12 4 ∧ zeroAt (recW 1 4) 6 6 = true ∧ fieldAt (recW 1 4) 4 2 = 4 ∧ fieldAt (recW 1 4) 0 4 = 1 ∧
    fieldAt (le 4 1 ++ zeros 12) 0 4 ≠ fieldAt (le 4 1 ++ zeros 12) 12 4 ∧ (devUp.sring 0).reading = false := by decide

/-- A release record may take the consumer to the producer, 15, and no further. -/
theorem test_release_met : (∀ b, ((dBell b).dring 0).reading = true ∧ ((dBell b).dring 0).retry = b) ∧
    (let d := dBell false; let x := d.dring 0; let n := 2 ^ d.drN 0
     let fits (i : Nat) : Bool := decide (i < n ∧ (i + n - x.cons) % n ≤ (x.prod + n - x.cons) % n)
     fits 5 = true ∧ fits 15 = true ∧ fits 16 = false ∧ fits 64 = false) ∧ (devUp.dring 0).reading = false := by decide

/-- A host address in 64 bits at the top of the range: low and high words. -/
theorem test_sq_enable_met : let d := dR [(srOff 0, 0), (srOff 0 + 4, 0x80000000), (srOff 0 + 0x10, 0), (srOff 0 + 0x14, 0x80000000), (srOff 0 + 0x18, 0), (srOff 0 + 0x1C, 0x80000000)]
    let v : Word := 0x106
    opens d .pf (srOff 0 + 8) ∧ d.slotPending 0 0 = false ∧ inLims (regRule (srOff 0 + 8)).lims v = true ∧ flag (d.reg (srOff 0 + 8)) 8 = false ∧ flag v 8 = true ∧
    hostRange (d.reg64 (srOff 0)) (64 * 2 ^ fld v 0 5) = true ∧ hostRange (d.reg64 (srOff 0 + 0x10)) 16 = true ∧ hostRange (d.reg64 (srOff 0 + 0x18)) 16 = true ∧
    flag (d.commBind 0) 0 = false := by unfold opens; decide

theorem test_sq_disable_met : let d := dR [(srOff 0 + 8, 0x106)]
    let v : Word := 6
    opens d .pf (srOff 0 + 8) ∧ d.slotPending 0 0 = false ∧ inLims (regRule (srOff 0 + 8)).lims v = true ∧ flag (d.reg (srOff 0 + 8)) 8 = true ∧ flag v 8 = false ∧
    fld (d.reg (srOff 0 + 8)) 0 5 = fld v 0 5 ∧ fld (d.reg (srOff 0 + 8)) 12 4 = fld v 12 4 ∧ d.ringBusy 0 = false ∧
    ({ d with cmds := [cmdW] } : Dev).ringBusy 0 = true := by unfold opens; decide

theorem test_enable_read_met : (let d : Dev := { devUp with sr := [(0, { srReset 0 with enPend := some (1, srOff 0 + 8, 0x106) })], dr := [(0, { drReset 0 with enPend := some (1, drCfgOff 0, 0x106) })] }
      (d.sring 0).enPend = some (1, srOff 0 + 8, 0x106) ∧ (d.dring 0).enPend = some (1, drCfgOff 0, 0x106) ∧
        ¬((d.setReg (srOff 0 + 8) ((0x106 : Word) &&& BitVec.ofNat 32 (regRule (srOff 0 + 8)).mask)).isComm 0 = true ∧ d.allocFree (0 / 16) < 4) ∧
        (({ d with regs := Sparse.put regReset d.regs 0xE4000 1 } : Dev).setReg (srOff 0 + 8) ((0x2106 : Word) &&& BitVec.ofNat 32 (regRule (srOff 0 + 8)).mask)).isComm 0 = true ∧
        ({ d with allocs := [(0, { d.alloc 0 with used := d.allocTotal 0 })] } : Dev).allocFree (0 / 16) < 4) ∧
    recTorn (recW 7 0) = false ∧ recIdx (recW 7 0) = 0 ∧ recTorn (le 4 1 ++ zeros 12) = true ∧ recIdx (recW 7 1) ≠ 0 := by decide

theorem test_dr_enable_met : (∀ q ∈ [DevRing.completion 0 0, .receipt 0, .event 0, .progress 0, .pfEvent], let r := devRingNo q
      let d := dR [(drCfgOff r - 8, 0), (drCfgOff r - 4, 0x80000000), (drCfgOff r + 8, 0), (drCfgOff r + 12, 0x80000000)]
      d.drPending r = false ∧ inLims (regRule (drCfgOff r)).lims 0x106 = true ∧ fld (0x106 : Word) 16 11 < vectors (d.ringFn r) ∧ flag (d.reg (drCfgOff r)) 8 = false ∧
      hostRange (d.drAddr r) (drEntry r * 2 ^ 6) = true ∧ (isSealRing r = false ∧ reaches d .pf (drCfgOff r) = true)) := by decide

theorem test_seal_ring_met : let r := devRingNo (.seal 0)
    let d := dR [(drCfgOff r, 1)]
    isSealRing r = true ∧ opens d .pf (drCfgOff r) ∧ d.drPending r = false ∧ inLims (regRule (drCfgOff r)).lims 0 = true ∧ flag (d.reg (drCfgOff r)) 0 = true ∧ d.drWaiting r = false ∧
    ({ d with chains := [(0, { (d.chain 0) with signed := [sealW] })] } : Dev).drWaiting r = true := by unfold opens; decide

theorem test_buffer_met : opens devUp .pf (bufOff 0 + 4) ∧ devUp.bufCheck .pf 0 (devUp.bufSel .pf 0) (devUp.bufStage .pf 0) ≠ 0 ∧ devUp.handleBusy 0 0 = false ∧
    ({ devUp with cmds := [{ cmdW with handles := [0] }] } : Dev).handleBusy 0 0 = true ∧ opens devUp .pf (ptn 0 + 0x108) ∧ devUp.live 0 = false ∧
    (dR [(srOff 0 + 8, 0x106)]).live 0 = true := by unfold opens; decide

theorem test_host_link_met : (∀ p < 16, devUp.live p = false) ∧ (∃ p < 16, (dR [(srOff 0 + 8, 0x106)]).live p = true) ∧ wakePage .pf 0 = none ∧ msixArea .pf 0 = false ∧
    (∃ off fn, fn < 17 ∧ wakePage .pf off = some fn) ∧ ∃ off, msixArea .pf off = true := by
  refine ⟨by decide, ⟨0, by decide, by decide⟩, by decide, by decide, ?_, ?_⟩
  · exact ⟨0x190FFC, 16, by decide, by decide⟩
  · exact ⟨0xF80000, by decide⟩

theorem test_registers_met : (∀ m ∈ plainRegs, inLims (regRule m).lims 1 = true) ∧ inLims (regRule 0x80000).lims 0 = true ∧ (∃ m ∈ plainRegs, ∃ v, inLims (regRule m).lims v = false) ∧
    mgmtOff up.dev .pf 0x10010 = some 0x10010 ∧ reaches up.dev .pf 0x10010 = true ∧ up.dev.responds .pf 0x10010 = true ∧ up.wide 0x10010 = some 0 := by
  refine ⟨by decide, by decide, ⟨0x160000, by decide, 0, by decide⟩, by decide, by decide, by decide, by decide⟩

/-- A window of 4 KiB at address 0, one that does not begin at a page, and one beyond memory. -/
theorem test_window_met : opens devUp .pf 0x20040 ∧ fld (0x1000 : Word) 0 12 = 0 ∧ fld (0x10 : Word) 0 12 ≠ 0 ∧ ((devUp.setReg 0x20048 0x1000).window 0).2 = 0x1000 ∧
    devUp.inOneRange 0 0x1000 = true ∧ devUp.inOneRange (2 ^ 62) 0x1000 = false := by unfold opens; decide

/-! ### Coherence and stacked memory -/

theorem test_settled_met : settledLine up 0 (up.dev.dirEnt 0) ∧ settledLine (sLine eS) 127 eS ∧ settledLine (sLine eE) 0 eE := by
  unfold settledLine; decide

theorem test_home_met : (up.dev.dirEnt 0).st = .i ∧ up.dev.sliceEvict 0 = up.dev ∧ up.dev.stores = [] ∧ (up.dev.l2St 3 0 ≠ .m) ∧
    (({ devUp with dir := [(0, eE)], l2 := [(3, .m)] } : Dev).l2St 3 0 = .m) ∧ (eE.owner = 3 ∧ eS.sharers.filter (fun q => q ≠ 0) = [15]) := by
  refine ⟨by decide, ?_, by decide, by decide, by decide, by decide⟩
  rfl

/-- RdS of partition 1, whose line partition 3 owns: the snoop is out, and its answer is on its way. -/
def eT (wait answered : List Nat) : DirEnt := { eE with txn := some ⟨.rds 1, wait, answered⟩ }

theorem test_transaction_met : (((sLine (eT [3] [])).dev.place 0).isSome = true ∧ ((sLine (eT [3] [])).dev.dirEnt (0 / 128)).txn = some ⟨.rds 1, [3], []⟩) ∧
    (3 ∈ (⟨.rds 1, [3], []⟩ : Txn).wait ∧ (sLine (eT [3] [])).dev.silent 3 = false) ∧ ((sLine (eT [] [3])).dev.dirEnt 0).queue = [] ∧ (sLine (eT [] [3])).dev.poison = [] := by
  decide

theorem test_invw_met : up.dev.sealedLine 0 = none ∧ 
    (let d : Dev := { devUp with regs := [(0x100, 0x107), (rgnOff 0, 0), (rgnOff 0 + 0x10, 1), (rgnOff 0 + 0x24, 2)] }; d.rgnSt 0 = 2) := by decide

/-- Lane 0 of an atomic add of 1 to address 0. -/
theorem test_atm_met : let g := { grpW with loads := [⟨4, 4, [(0, 0)], some 0, [⟨0, 1, 0, none⟩], false, false, 1, false⟩] }
    (stW (coreW g) cmdW).dev.atomOf 0 0 0 = some (0, 4, ⟨0, 1, 0, none⟩, 0) ∧ settledLine (stW (coreW g) cmdW) 0 eI ∧
    (stW (coreW g) cmdW).dev.atomHeld 0 0 0 0 = false ∧ (stW (coreW g) cmdW).dev.stores = [] ∧ ((stW (coreW g) cmdW).dev.core 0).groups = [] ++ g :: [] ∧
    (∀ l ∈ g.loads, l.lacks 0 = true) ∧ eI.queue = [] := by unfold settledLine; decide

/-- The same atomic, issued after a load of its group from the same line. -/
theorem test_atm_held_met : let g := { grpW with loads := [⟨5, 4, [(1, 64)], none, [], true, false, 1, false⟩, ⟨4, 4, [(0, 0)], some 0, [⟨0, 1, 0, none⟩], false, false, 2, false⟩] }
    (stW (coreW g) cmdW).dev.atomHeld 0 0 0 (0 / 128) = true ∧ (stW (coreW g) cmdW).dev.atomOf 0 0 0 = some (0, 4, ⟨0, 1, 0, none⟩, 0) := by decide

/-- A flagged final write whose stream has landed one of its two writes. -/
def finW (count : Nat) : Final := ⟨.hub 0, 5, 0, count, 0, 2 ^ 128 - 1, zeros 128, 0⟩
def sFin (fs : List Final) : State := { up with dev := { devUp with finals := fs, streams := [⟨.hub 0, 5, 1⟩], cmds := [kCopy .running] } }

theorem test_final_met : (∀ p l, HoldPort.hub 0 ≠ .core p l) ∧ (up.dev.place 0).isSome = true ∧ ((sFin []).dev.landed (.hub 0) 5 < 2 ∧ ¬(sFin []).dev.landed (.hub 0) 5 < 1) ∧
    (∀ x ∈ (sFin [finW 2]).dev.finals, (sFin [finW 2]).dev.landed x.port x.stream < x.count) ∧ ((0x2 : Word) ≠ 0xFFFFFFFF) ∧
    ¬((List.replicate 64 (finW 2)).filter (fun y => y.port = .hub 0)).length < 64 ∧
    (sFin [finW 2]).dev.finals.find? (fun y => decide (y.port = .hub 0) && y.stream == 5) = some (finW 2) ∧ (sFin [finW 2]).dev.cmd 0 = some (kCopy .running) ∧
    (kCopy .running).ph.fellable = true := by
  refine ⟨(fun _ _ h => by cases h), by decide, by decide, by decide, by decide, by simp [finW], by decide, by decide, by decide⟩

theorem test_no_sealed_line : ∀ a, up.dev.sealedLine a = none := fun a => by
  have h : ∀ r ∈ List.range 64, up.dev.rgnSt r = 0 := by decide
  have h1 : up.dev.regionAt [1, 2, 3] a = none := List.find?_eq_none.2 (fun r hr => by simp [h r hr])
  have h2 : up.dev.tableAt [1, 2, 3] a = none := List.find?_eq_none.2 (fun r hr => by simp [h r hr])
  simp only [Dev.sealedLine, h1, h2]

theorem test_near_met : opens devUp .pf 0xC0000 ∧ devUp.nearLocked = false ∧ devUp.nearGib ≠ 48 ∧ (∃ r, ({ devUp with regs := r } : Dev).nearLocked = true) ∧ 48 < fld (49 : Word) 0 6 := by
  refine ⟨by unfold opens; decide, by decide, by decide, ⟨[(0x100, 0x107), (srOff 0 + 8, 0x106)], by decide⟩, by decide⟩

/-- A row of die 3 being copied. -/
def sRow : State := { up with dev := { devUp with rowBusy := [rowKey 3 31 31 24575] } }

theorem test_rows_met : (rowKey 3 31 31 24575 ∈ sRow.dev.rowBusy) ∧ granRow 0 0 ∉ up.dev.rowBusy ∧
    (Sparse.get (fun _ => []) up.dev.narrow 0).length < 1638 ∧ (List.replicate 1638 (5 : Nat))[1637]? = some 5 := by
  refine ⟨by decide, by decide, by decide, by rw [List.getElem?_replicate, if_pos (by omega)]⟩

theorem test_codeword_met : granRow 0 0 ∉ up.dev.rowBusy ∧ Sparse.get (fun _ => 0) up.dev.rowCe (granRow 0 0) + 1 < fld (up.dev.reg 0xA000C) 0 8 ∧ up.dev.reg 0xA0120 ≠ 0xFFFFFFFF ∧
    up.dev.regionAt [2, 3] 0 = none ∧ up.dev.tableAt [2, 3] 0 = none := by decide

/-- Region 0 at a state: 4 KiB at 1 MiB, digests at 2 MiB, backing copy in host memory. -/
def dRgn (st : Word) : Dev :=
  dR [(rgnOff 0, 0x100000), (rgnOff 0 + 4, 0), (rgnOff 0 + 8, 1), (rgnOff 0 + 0xC, 0), (rgnOff 0 + 0x10, 0x200000), (rgnOff 0 + 0x14, 0), (rgnOff 0 + 0x18, 0),
      (rgnOff 0 + 0x1C, 0x80000000), (rgnOff 0 + 0x24, st)]

theorem test_region_met : (∀ n ∈ [0, 1, 2, 3, 4, 5], (dRgn (BitVec.ofNat 32 n)).rgnSt 0 = n) ∧ opens (dRgn 0) .pf (rgnOff 0 + 0x20) ∧ (dRgn 0).rgnBad 0 = false ∧ devUp.rgnBad 0 = true ∧
    (dRgn 2).sealedEntry 0 = false ∧ (dRgn 1).rgnPages 0 = 1 ∧ ((dRgn 1).region 0).verify = false ∧
    (let d : Dev := { dRgn 3 with rgn := [(0, ⟨false, [], [(0, none, 7)], 0⟩)] }; (d.region 0).pages = (0, none, 7) :: [] ∧ (d.region 0).tries = 0 ∧
      d.rgnBase 0 + 4096 * d.rgnPages 0 ≤ d.rgnTable 0) := by unfold opens; decide

/-- Cruise on, in its window. -/
def sCru : State := { up with dev := { dR [(0xA0000, 1)] with bgOpen := [0] } }

theorem test_cruise_met : flag (sCru.dev.reg 0xA0000) 0 = true ∧ sCru.winOpen 0 = true ∧ (sCru.dev.reg64 0xA0108 + 4) % 402653184 ≠ 0 ∧ ¬flag ((dR [(0xA0000, 0)]).reg 0xA0000) 0 = true ∧
    (dRgn 2).nextSealed 0 0 = some (0, 0) ∧ (dR [(0xA0108, 4)]).reg64 0xA0108 ≠ 0 ∧ 0 ∉ up.dev.lateSaid ∧ (up.dev.reg64 0xA0108 = 0) ∧
    (∀ e ∈ (dRgn 2).pageGranules 0 0, granRow e.1 e.2 ∉ (dRgn 2).rowBusy) ∧ ((dRgn 2).pageGranules 0 0).length = 9 ∧
    (Sparse.get (fun _ => []) sCru.dev.cruiseUse 0).length < 328 := by decide

theorem test_cruise_budget_met : (List.replicate 328 (5 : Nat))[327]? = some 5 := by rw [List.getElem?_replicate, if_pos (by omega)]

/-! ### Resets, the scheduler, serving and layering -/

/-- The device with one command at a phase, in a partition whose state is `st`. -/
def sPart (st : Word) (cs : List Cmd) : State := { up with dev := { dR [(0x160300, st)] with cmds := cs } }

theorem test_part_reset_met : up.dev.partSt 0 ≠ 3 ∧ up.dev.ready = true ∧ (sPart 3 []).dev.partSt 0 = 3 ∧
    (∀ ph ∈ [Phase.waiting, .running], (sPart 0 [cmdAt 2 ph]).dev.cmd (cmdAt 2 ph).cid = some (cmdAt 2 ph) ∧ (cmdAt 2 ph).part = 0 ∧ (cmdAt 2 ph).kind = .descriptor ∧
      (cmdAt 2 ph).op ≠ 1 ∧ (cmdAt 2 ph).op ≠ 7) ∧ (∀ n, (up.dev.srv n).seqs = []) ∧
    ((sPart 3 []).dev.cmdsOf 0 = [] ∧ (sPart 3 []).dev.unwritten 0 = false) ∧
    (({ (sPart 3 []).dev with dr := [(0, { drReset 0 with wait := [⟨zeros 32, none, false⟩] })] } : Dev).unwritten 0 = true) := by
  refine ⟨by decide, by decide, by decide, by decide, fun _ => rfl, by decide, by decide⟩

theorem test_device_reset_met : up.dev.boot.svcUp = true ∧ reaches up.dev .pf 0x160014 = true ∧ flag (1 : Word) 0 = true ∧ flag (0 : Word) 0 = false := by decide

theorem test_silent_met : let e : DirEnt := { eE with txn := some ⟨.rds 1, [3], []⟩ }
    (e.queue = [] ∧ 3 ∈ (⟨.rds 1, [3], []⟩ : Txn).wait ∧ 5 ∉ (⟨.rds 1, [3], []⟩ : Txn).wait) ∧ ((sLine e).dev.dirEnt 0).txn = some ⟨.rds 1, [3], []⟩ ∧ (up.dev.place 0).isSome = true ∧
    flag ((dR [(0x160000, 3)]).reg 0x160000) 8 = false ∧ up.dev.partSt 3 < 2 ∧ up.dev.reg 0xC0054 ≠ 0xFFFFFFFF := by decide

/-- A waiting COPY of ring 0, whose partition takes copies. -/
def kWait : Cmd := { kCopy .waiting with launched := false, grant := 0, eng := 0 }

theorem test_select_met : ∃ e : Fin 5, let d := ((sK kWait).dev.at 5).refresh up.clk up.beat
    (∃ c, d.mayGrant 0 e.val = true ∧ d.choose up.clk 0 (d.rivals up.beat 0 e.val) = some c ∧ c.op ≠ 5 ∧ e.val ≠ 4 ∧ c.launched = false ∧ c.kind = .descriptor ∧
      d.inFlight 0 e.val < engineLimit e.val) ∧ Sparse.get (fun _ => 0) d.held (8 * 0 + e.val) = 0 := by
  refine ⟨0, ⟨?_, ?_⟩⟩
  · exact ⟨kWait, by decide⟩
  · decide

/-- A parking kernel of one core, whose group has and has not parked. -/
def sPark (parked : Bool) (slots : Word) : State :=
  { up with dev := { dR [(0x20318, slots)] with cores := [(0, coreW { grpW with parked := parked })], cmds := [{ cmdW with ph := .parking }] } }

theorem test_preempt_met : (sPark true 4).dev.unparked { cmdW with ph := .parking } = 0 ∧ (sPark false 4).dev.unparked { cmdW with ph := .parking } ≠ 0 ∧
    (sPark true 4).dev.freeSaveSlots 0 = [0, 1, 2, 3] ∧ (sPark true 0).dev.freeSaveSlots 0 = [] ∧ (sPark true 4).dev.cmd 0 = some { cmdW with ph := .parking } := by decide

theorem test_save_met : let c : Cmd := { cmdW with ph := .saving, slots := [63] }
    (stW (coreW grpW) c).dev.cmd 0 = some c ∧ c.cores.length = c.slots.length ∧ c.cores.Nodup ∧ c.slots.Nodup ∧ (∀ l ∈ c.cores, l < 36) ∧ (∀ n ∈ c.slots, n < 64) ∧
    (stW (coreW grpW) c).dev.unresolved c = false := by decide

theorem test_restore_met : let c : Cmd := { cmdW with ph := .restoring, slots := [63], desc := le 1 4 ++ zeros 63 }
    (sK c).dev.cmd 0 = some c ∧ c.cores.length = c.slots.length ∧ c.op = 4 ∧ c.run.retired < c.run.total := by decide

theorem test_fell_met : ∀ ph ∈ [Phase.felling, .draining, .running], ∀ e ∈ [FellEnd.requeue, .complete 5 1], let c : Cmd := { cmdW with ph := ph, fellEnd := e }
    (sK c).dev.cmd 0 = some c ∧ c.kind = .descriptor ∧ c.elig.isSome = true ∧ c.ready = true ∧ (∀ x ∈ (sK c).dev.cmds, x.ph ≠ .waiting) := by decide

/-- Serving with one sequence of a request for 100 tokens, of which none is done. -/
def seqW : Seq := ⟨511, 0, true, 0, 0, 0, [0, 1, 2, 3], 0, 0, none, 0, false, false⟩

theorem test_serve_enable_met : reaches devUp .pf 0x20400 = true ∧ devUp.responds .pf 0x20400 = true ∧ devUp.pageLocked 0x20400 = false ∧ devUp.srvEn 0 = false ∧
    devUp.srvReady 0 = false ∧ flag (0x105 : Word) 0 = true ∧ flag (0x104 : Word) 0 = false ∧ inLims (regRule 0x20400).lims 0x104 = true := by decide

theorem test_serve_req_met : (sK { cmdAt 7 .loaded with chk := { cmdW.chk with zero := true } }).dev.cmd 0 = some { cmdAt 7 .loaded with chk := { cmdW.chk with zero := true } } ∧
    (cmdAt 7 .loaded).op = 7 ∧ up.dev.atStepEnd 0 = true := by decide

theorem test_kv_wait_met : let d : Dev := { devUp with serve := [(0, ⟨[seqW], [], 0, none, false, [511]⟩)], cmds := [cmdAt 7 .running] }
    seqW ∈ (d.srv 0).seqs ∧ (d.srv 0).seqs.find? (fun x => x.slot == 511) = some seqW ∧ d.cmd seqW.cid = some (cmdAt 7 .running) ∧ 511 ∈ (d.srv 0).wait ∧
    seqW.since + fld (d.reg 0x20428) 0 16 ≤ 65535 := by decide

theorem test_launch_met : flag (up.dev.reg 0x20400) 1 = false ∧ (up.dev.srv 0).ready = false ∧ flag ((dR [(0x20400, 3)]).reg 0x20400) 1 = true := by decide

theorem test_layer_met : (sK (cmdAt 6 .loaded)).dev.cmd 0 = some (cmdAt 6 .loaded) ∧ (cmdAt 6 .loaded).op = 6 ∧ (cmdAt 6 .running).op = 6 ∧ (cmdAt 6 .running).ph = .running := by decide

/-! ### Beats, the fabric tables and the mesh -/

/-- The beat unit learning, with `n` intervals of 16,000 ticks behind it. -/
def uLearn (n : Nat) : BeatUnit := { beatReset with powered := true, lastEdge := some 100000, learn := if n = 0 then none else some ⟨16000, n, 16000 * n⟩ }
/-- The beat unit locked at 16,000 ticks, its last boundary at tick 100,000. -/
def uLock : BeatUnit :=
  { beatReset with powered := true, st := .locked, p16 := 256000, b16 := 1600000, n16 := 1600000, counted := true, ever := true, num := 9, curEdge := some 100000, lastAcc := 100000 }

theorem test_learn_met : (∀ n ∈ [0, 1, 14, 15], let u := uLearn n; u.powered = true ∧ u.fromLinks = false ∧ u.st = .unlocked ∧ u.win = none ∧ u.lastEdge = some 100000) ∧
    (100 * (max 16160 16000 - min 16160 16000) ≤ 16000) ∧ ¬(100 * (max 16161 16000 - min 16161 16000) ≤ 16000) ∧ (108000 - 100000 = 8000) ∧ (107999 - 100000 < 8000) := by decide

/-- An edge at tick 114,000 is the earliest that may be the next boundary, predicted at 116,000. -/
theorem test_track_met : uLock.st = .locked ∧ uLock.win = none ∧ uLock.fromLinks = false ∧ 16 * 114000 < uLock.b16 + uLock.p16 ∧
    8 * (uLock.b16 + uLock.p16) ≤ 128 * 114000 + uLock.p16 ∧ 128 * 113999 + uLock.p16 < 8 * (uLock.b16 + uLock.p16) ∧
    (let w : Win := ⟨1600000, 256000, false⟩; 128 * 102000 ≤ 8 * w.t16 + w.p16) ∧ uLock.anom < 7 := by decide

/-- The boundary is due at tick 116,000, and its window is past at 118,001. -/
theorem test_boundary_met : uLock.due 116000 = true ∧ uLock.due 115999 = false ∧ uLock.pendSrc = none ∧ uLock.fires = [] ∧
    (let w : Win := ⟨1856000, 256000, false⟩; 8 * w.t16 + w.p16 < 128 * 118001 ∧ ¬8 * w.t16 + w.p16 < 128 * 118000) ∧
    (uLock.predicts = true ∧ uLock.silent = false ∧ 16 * uLock.lastAcc + 2 * uLock.p16 ≤ 16 * 132000 ∧ 16 * 131999 < 16 * uLock.lastAcc + 2 * uLock.p16) ∧
    ((uLearn 0).noLockSaid = false ∧ (uLearn 0).enAt + 160000000 ≤ 160000000) ∧
    (let f : Fire := ⟨116000, 1856000, true⟩; let u := { uLock with fires := [f] }; u.fires = f :: [] ∧ f.tick ≤ 116000 ∧ u.fired = none) := by decide

theorem test_beat_ctrl_met : reaches up.dev .pf 0x10000 = true ∧ reaches State.reset.dev (.vf 0) 0x10000 = false ∧ fld (6 : Word) 1 2 = 3 ∧ (uLock.en = true ∧ flag (0x18 : Word) 0 = false) ∧
    (let u := { uLock with en := false, st := .off }; u.en = false ∧ flag (0x19 : Word) 0 = true ∧ u.powered = true) ∧ (beatReset.powered = false) ∧
    (BitVec.ofNat 2 (fld (0x19 : Word) 1 2) = uLock.srcSel ∧ BitVec.ofNat 2 (fld (0x1B : Word) 1 2) ≠ uLock.srcSel ∧ fld (0x1B : Word) 1 2 ≠ 3) ∧
    (reaches up.dev .pf 0x10020 = true ∧ beatReset.st = .unlocked ∧ beatReset.num = 0) := by decide

/-- A beat symbol: type 1, hop count 2, latency 0 (R50), and a unit that takes its edges from the links. -/
def symW : Bytes := beatSym 2 9 0 0 0
def uLink : BeatUnit := { uLearn 0 with src := 2, role := .member, comp := [107000] }

theorem test_symbol_met : symOk symW = true ∧ fieldAt symW 0 1 = 1 ∧ symOk (zeros 16) = false := by decide +kernel

theorem test_member_met : uLink.fromLinks = true ∧ uLink.portHops = [] ∧ uLink.st ≠ .off ∧ uLink.powered = true ∧ uLink.win = none ∧ uLink.comp = 107000 :: [] ∧
    (107000 - 100000 < 8000) ∧ ((9 : BitVec 64).toNat < uLink.numAhead 1 ∨ uLink.numAhead 1 ≤ (9 : BitVec 64).toNat) := by decide

/-- Notch 1 begins at tick 100,016, the first at or after 15.625 ticks. -/
theorem test_notch_met : uLock.fired = none ∧ uLock.counted = true ∧ uLock.predicts = true ∧ uLock.notch < 1023 ∧
    1024 * uLock.n16 + (uLock.notch + 1) * uLock.p16 ≤ 16384 * 100016 ∧ 16384 * 100015 < 1024 * uLock.n16 + (uLock.notch + 1) * uLock.p16 ∧
    (let u := { uLock with fired := some ⟨116000, 1856000, true⟩, notch := 1023 }; u.counted = true ∧ 1023 ≤ u.notch ∧ u.holdAt = none ∧ u.role ≠ .lead) ∧
    (up.beat.counting = false ∧ up.dev.ready = true ∧ uLock.counting = true) := by decide

theorem test_core_map_met : opens devUp .pf (0x161000 + 8 * 575) ∧ opens devUp .pf (fstOff (.core 0) + 4) ∧ devUp.stagedOk .pf 0x161000 = false ∧
    ({ devUp with staged := [(pathKey .pf 0x161000, devUp.regN 0x161004 + 1)] } : Dev).stagedOk .pf 0x161000 = true ∧
    devUp.mapState 0 0 = 0 ∧ (∃ sp rest, devUp.workingSpares 0 = sp :: rest) ∧ fld (2 : Word) 0 2 = 2 := by
  refine ⟨by unfold opens; decide, by unfold opens; decide, by decide, by decide, by decide, ⟨_, _, rfl⟩, by decide⟩

theorem test_self_test_met : let d : Dev := { dR [(0x161000, 2)] with testing := [0] }
    0 ∈ d.testing ∧ d.mapState 0 0 = 2 ∧ flag (d.reg 0x161000) 2 = false ∧ (1 : Nat) ∉ d.testing ∧ Sparse.get (fun _ => 0) d.reasons 0 ≠ 4 ∧
    (let e : Dev := { dR [] with testing := [576] }; 0 ∉ e.testing ∧ 576 + 0 ∈ e.testing) := by decide

theorem test_table_duties_met : opens devUp .pf 0x160800 ∧ opens devUp .pf (0x160800 + 8 * 63) ∧ fld ((dR [(0x160800, 3)]).reg 0x160800) 0 2 = 3 ∧ (beatReset.role ≠ .lead) := by
  unfold opens; decide

theorem test_wear_met : flag (devUp.reg 0x160100) 0 = true ∧ Sparse.get (fun _ => 0) devUp.swaps 0 = 0 ∧
    (let s : State := { up with dev := { devUp with swaps := [(0, 64 * 0 + 14 + 1)] } }
     Sparse.get (fun _ => 0) s.dev.swaps 0 = 64 * 0 + 14 + 1 ∧ s.winOpen 2 = true ∧ (s.dev.core 0).blocks = [] ∧ (s.dev.core 14).shadow = none ∧ s.dev.mapState 0 0 = 0 ∧
     s.dev.mapState 0 14 = 1) := by decide

theorem test_mesh_met : devUp.retriesOf 0 5 6 = 0 ∧ ({ devUp with linkRetry := [(0, 5, 6, 8)] } : Dev).retriesOf 0 5 6 = 8 ∧
    (let d : Dev := { devUp with suspects := [(0, 5, 6, [])] }; (0, 5, 6, []) ∈ d.suspects ∧ ∀ x ∈ d.suspects, x.2.2.2 = []) ∧
    (∃ t ∈ routeXY 0 13, t ∈ [1]) ∧ (∀ t ∈ routeYX 0 13, t ∉ [1]) ∧ (∃ m, routeOf [1, 12] 0 13 = some (2, m) ∨ routeOf [1, 12] 0 13 = none) := by
  refine ⟨by decide, by decide, by decide, by decide, by decide, ?_⟩
  exact ⟨0, by decide⟩

/-! ### Collectives -/

/-- A collective of partition 0 of packages 0 and 1 over 4,096 elements of format code 8. -/
def collW : Coll :=
  { cid := 0, key := 0, gen := 1, num := 1, members := [0, 16], code := 0, fmt := 8, rm := 0, n := 4096, inAddr := 0, outAddr := 65536, frames := 0, landing := true, comm := false,
    stage := 0, staged := [], ownNext := 0, own := [], share := 0, shares := [], delivered := 0, passes := [], passed := false, agreed := false }
/-- Its command at a phase. -/
def kColl (ph : Phase) : Cmd := cmdAt 5 ph
/-- The device with a collective. -/
def sColl (x : Coll) (k : Cmd) : State := { up with dev := { devUp with cmds := [k], net := { netReset with colls := [x] } } }

/-- Two requests of one cycle in the landing allocator of partition 0. -/
def alW : Alloc := ⟨0, [⟨0, 1, 4, 0, true⟩, ⟨1, 0, 4, 0, true⟩]⟩

theorem test_alloc_met : (alW.settle 0 0).wait ≠ [] ∧ (∀ w ∈ alW.wait, w.new = true) ∧ (∃ q, (⟨0, [⟨0, 1, 4, 0, false⟩, ⟨1, 0, 4, 0, true⟩]⟩ : Alloc).wait.find? (fun w => !w.new) = some q) ∧
    (up.dev.alloc 0).wait = [] ∧ 4 ≤ up.dev.allocFree 0 ∧
    (let s : State := { sColl { collW with landing := false } (kColl .loaded) with dev := { (sColl { collW with landing := false } (kColl .loaded)).dev with allocs := [(0, ⟨0, [⟨0, 0, 4, 0, false⟩]⟩)] } }
     ((s.dev.alloc 0).settle 0 0).wait = [⟨0, 0, 4, 0, false⟩] ∧ s.dev.coll 0 = some { collW with landing := false } ∧ s.dev.cmd 0 = some (kColl .loaded) ∧ (kColl .loaded).ph ≠ .running ∧
     (s.dev.alloc 0).wait.find? (fun w => w.who == 0) = some ⟨0, 0, 4, 0, false⟩ ∧ 0 < fld (s.dev.reg 0xE0018) 0 8) := by
  refine ⟨by decide +kernel, by decide +kernel, ⟨_, rfl⟩, by decide +kernel, by decide +kernel, by decide +kernel⟩

theorem test_kv_grant_met : let q := { seqW with want := 2 }
    let d : Dev := { devUp with serve := [(0, ⟨[q], [7, 8], 0, none, false, [511]⟩)] }
    (d.srv 0).wait = 511 :: [] ∧ (d.srv 0).seqs = [q] ∧ q.slot = 511 ∧ q.admitted = true ∧ q.want ≤ (d.srv 0).free.length ∧ (d.srv 0).free.length < 3 := by decide

theorem test_digest_pass_met : (sK (kCopy .digest)).dev.cmd 0 = some (kCopy .digest) ∧ (sK (kCopy .digest)).dev.coll 0 = none ∧ (sK (kCopy .digest)).dev.poisonIn (kCopy .digest).outs = none ∧
    ({ (sK (kCopy .digest)).dev with poison := [32] } : Dev).poisonIn (kCopy .digest).outs ≠ none ∧ (kCopy .digest).chk.zero = false ∧ (kCopy .digest).poisoned = false ∧
    (kCopy .digest).outs = ⟨2, 1, 0, 4096, 4096⟩ :: [] := by decide

theorem test_stage_met : (sColl collW (kColl .loaded)).dev.cmd 0 = some (kColl .loaded) ∧ (kColl .loaded).op = 5 ∧ (sColl collW (kColl .loaded)).dev.coll 0 = some collW ∧
    ({ collW with code := 1, members := [0, 1] } : Coll).acts = false ∧ collW.own = [] ∧ isHost collW.inAddr = false := by decide

/-- A message header for an operation tag of a collective: type, length, destination, source, codes, flags, tag, and a word of 64 bits. -/
def hdrW (ty len src codes tag w : Nat) : Bytes := le 1 ty ++ le 1 len ++ le 1 0 ++ le 1 src ++ le 1 codes ++ le 1 0 ++ le 2 tag ++ le 8 w

theorem test_pull_met : let x := { collW with staged := [(0, zeros 192)], stage := 65536 }
    let m : Msg := ⟨hdrW 4 0 0 0 x.tag 0, []⟩
    let s := sColl x (kColl .running)
    s.dev.collAt (fieldAt m.hdr 6 2) (fieldAt m.hdr 4 1 / 16) = some x ∧ x.tag = fieldAt m.hdr 6 2 ∧ x.code % 16 = fieldAt m.hdr 4 1 / 16 ∧ 0 = fieldAt m.hdr 8 8 % 2 ^ 27 ∧
    (x.chunks ≤ x.stage ∧ x.frames ≤ x.own.length ∧ x.own = []) ∧ fieldAt m.hdr 3 1 % 64 = s.dev.pkgId ∧ 0 < (zeros 192).length ∧
    s.dev.net.discards.contains (fieldAt m.hdr 6 2, fieldAt m.hdr 3 1 % 64) = false ∧ s.dev.collAt 65535 3 = none := by decide +kernel

/-- The owner of chunk 0 with no contribution yet, and the first arriving with this package's signature and another. -/
def ownW : OwnChunk := ⟨0, true, 2, [], 0, []⟩

theorem test_absorb_met : collW.members.Nodup ∧ ownW.added = 0 ∧ (let x := { collW with own := [ownW], frames := 1, stage := 65536, n := 4 }
    x.quiet ∧ (⟨0, true, 2, [(0, 0, zeros 16), (16, 0, zeros 16)], 0, []⟩ : OwnChunk).whole 0 16 = some (zeros 16) ∧ (zeros 16 ≠ x.lead ∨ zeros 16 = x.lead)) := by
  unfold Coll.quiet; decide +kernel

theorem test_contribution_met : let x := { collW with own := [ownW], frames := 1, stage := 65536 }
    let m : Msg := ⟨hdrW 3 1 1 0 x.tag 0, x.lead⟩
    (sColl x (kColl .running)).dev.net.colls = [x] ∧ x.tag = fieldAt m.hdr 6 2 ∧ x.acts = true ∧ x.own = [ownW] ∧ ownW.idx = fieldAt m.hdr 8 8 % 2 ^ 27 ∧ m.data.take 16 = x.lead ∧
    (x.absorb x.members.length { ownW with parts := [(0, 0, [])] }).added < x.members.length ∧ (kColl .running).ph.fellable = true := by decide +kernel

/-- A write message of 16 bytes to address 65,536 for a collective's output. -/
def msgWr : Msg := ⟨hdrW 1 1 1 0 collW.tag 65536, zeros 16⟩

theorem test_write_message_met : bitAt (fieldAt msgWr.hdr 5 1) 0 = false ∧ isHost (fieldAt msgWr.hdr 8 8) = false ∧ fieldAt msgWr.hdr 8 8 % 16 = 0 ∧ 16 ≤ msgWr.data.length ∧
    up.dev.homed 65536 = true ∧ up.dev.homed (65536 + 15) = true ∧ up.dev.finals = [] ∧ up.dev.net.colls = [] ∧
    (let s := sColl collW (kColl .running); s.dev.net.colls = [collW] ∧ collW.tag = fieldAt msgWr.hdr 6 2 ∧ collW.code % 16 = fieldAt msgWr.hdr 4 1 / 16 ∧
      collW.outAddr ≤ 65536 ∧ 65536 < collW.outAddr + collW.n * collW.width ∧ s.dev.cmd 0 = some (kColl .running)) ∧ isHost (2 ^ 63) = true := by decide +kernel

theorem test_notices_met : let m : Msg := ⟨le 1 5 ++ zeros 2 ++ le 1 1 ++ zeros 5 ++ le 2 collW.tag ++ zeros 5, []⟩
    let s := sColl collW (kColl .running)
    collW.tag = fieldAt m.hdr 9 2 ∧ s.dev.collAt (fieldAt m.hdr 9 2) (fieldAt m.hdr 4 1 / 16) = some collW ∧ up.dev.collAt (fieldAt m.hdr 9 2) 0 = none ∧
    (let member := 16 * (fieldAt m.hdr 3 1 % 64) + fieldAt m.hdr 4 1 % 16; (∃ q ∈ collW.members, q ≠ member ∧ q ∉ collW.passes) ∧
      ∀ q ∈ ({ collW with passes := [0] } : Coll).members, q = member ∨ q ∈ ({ collW with passes := [0] } : Coll).passes) ∧ collW.agreed = false ∧ (kColl .running).kind = .descriptor := by
  decide +kernel

theorem test_coll_timeout_met : (∃ o ∈ [ownW], o.added < o.pulled) ∧ (∀ n, (up.dev.dirEnt n).txn = none) := ⟨by decide, fun _ => rfl⟩

/-! ### Links and the stand -/

/-- A stand of four packages on X, every link up to training, on a package of a role. -/
def dL (regs : List (Nat × Word)) : Dev := { dR ([(0xE0008, 3)] ++ regs) with boot := { devUp.boot with links := true } }
def sL (r : Role) (regs : List (Nat × Word)) : State := { up with beat := { beatReset with role := r }, dev := dL regs }
/-- Port 0 in a training state, enabled. -/
def rPort (st : Word) : List (Nat × Word) := [(0xE0100, 1), (0xE0104, st)]

theorem test_port_write_met : opens (dL (rPort 2)) .pf 0xE0100 ∧ (flag (0 : Word) 0 = false ∧ up.dev.portSt 0 = 0 ∧ (dL (rPort 2)).portSt 0 = 2) ∧
    (flag (1 : Word) 0 = true ∧ up.dev.boot.links = false) ∧ ((dL []).boot.links = true ∧ flag ((dL [(0xE0100, 0)]).reg 0xE0100) 0 = false ∧ (dL (rPort 4)).portSt 0 = 4) ∧
    (flag ((dL (rPort 2)).reg 0xE0100) 0 = true ∧ (dL (rPort 2)).portSt 0 ≠ 4 ∧ flag (3 : Word) 1 = true ∧ flag (1 : Word) 1 = false) := by
  unfold opens; decide

/-- The first and the third failure of a retrain within 1 s. -/
def dAgain (fails : List Nat) : Dev := { dL (rPort 1) with net := { netReset with ports := [(0, { (devUp.port 0) with again := true, fails := fails })] }, now := 1600000005 }

theorem test_training_met : (dAgain []).portSt 0 = 1 ∧ ((dAgain []).port 0).again = true ∧ (dL (rPort 1)).portSt 0 = 1 ∧ ((dL (rPort 1)).port 0).again = false ∧
    (3 ≤ (1600000005 :: ((dAgain [6, 7]).port 0).fails.filter (fun f => decide (1600000005 < f + 1600000000))).length) ∧
    ((1600000005 :: ((dAgain [5, 7]).port 0).fails.filter (fun f => decide (1600000005 < f + 1600000000))).length < 3) ∧
    ((sL .lead (rPort 1)).beat.role = .lead ∧ (sL .lead (rPort 1)).dev.neighbour 0 ≠ none ∧ (sL .lead [(0xE0124, 1)]).dev.neighbour 1 = none ∧
      (sL .lead [(0xE0124, 1)]).dev.portSt 1 = 1) := by decide

theorem test_identity_met : (sL .lead (rPort 1)).cabled 0 1 1 = true ∧ (sL .lead (rPort 1)).cabled 0 1 0 = false ∧ (15 : Nat) < 16 ∧
    (let s : State := { up with beat := { beatReset with role := .lead }, dev := { (dL (rPort 1)) with strapId := 1 } }
     s.cabled 0 2 1 = true ∧ s.cabled 1 0 0 = true ∧ s.dev.pkgId = 1) ∧ (sL .member (rPort 1)).cabled 0 1 1 = true := by decide

/-- The one link of a member, and one of two. -/
theorem test_last_link_met : ((sL .member (rPort 1)).beat.role = .member ∧ ((sL .member (rPort 1)).dev.portSt 0 = 1 ∨ (sL .member (rPort 1)).dev.portSt 0 = 2) ∧
      ∀ q : Fin 6, q.val ≠ 0 → (sL .member (rPort 1)).dev.portSt q.val ≠ 1 ∧ (sL .member (rPort 1)).dev.portSt q.val ≠ 2) ∧
    (sL .member (rPort 2 ++ [(0xE0124, 2)])).dev.portSt 1 = 2 ∧ (sL .member (rPort 1)).cabled 0 1 0 = false := by decide

/-- A member whose last link fails its training is alone; one with another link stays a member (R30). -/
theorem test_last_link_lost : ((match exec (.linkTrainingTimeout 0) (sL .member (rPort 1)) with
      | .next s => s.beat.role
      | _ => .lead) = .alone) ∧
    (match exec (.linkTrainingTimeout 0) (sL .member (rPort 1 ++ [(0xE0124, 2)])) with
      | .next s => s.beat.role
      | _ => .lead) = .member := by decide

/-- A link that is up, a message of 16 bytes for this package, and the flit that brings it first. -/
def sUp : State := sL .member (rPort 2)
def mW : Msg := ⟨hdrW 1 1 0 0 0 65536, zeros 16⟩
def fW : Bytes := flitOf 1 1 0 false (msgBytes mW)

theorem test_flit_met : sUp.dev.portSt 0 = 2 ∧ fieldAt fW 248 8 = crc64 (fW.take 248) ∧ (sUp.dev.port 0).queue = [] ∧ bitAt (fieldAt fW 2 2) 12 = false ∧
    (fieldAt fW 0 2 / 4096 = 1 ∧ fieldAt fW 0 2 % 4096 = ((sUp.dev.port 0).rx + 1) % 4096) ∧ messagesOf 15 ((fW.drop 8).take 240) = ([mW], 0) ∧
    fieldAt mW.hdr 2 1 % 64 = sUp.dev.pkgId ∧ fieldAt mW.hdr 0 1 ≠ 4 := by decide +kernel

theorem test_flit_other_met : ¬(fieldAt (zeros 248 ++ [1] ++ zeros 7) 248 8 = crc64 ((zeros 248 ++ [1] ++ zeros 7).take 248)) ∧
    (let f := flitOf 2 1 0 false []
     fieldAt f 248 8 = crc64 (f.take 248) ∧ fieldAt f 0 2 / 4096 = 1 ∧ fieldAt f 0 2 % 4096 ≠ ((sUp.dev.port 0).rx + 1) % 4096) ∧
    (let f := flitOf 0 0 5 false []
     fieldAt f 248 8 = crc64 (f.take 248) ∧ fieldAt f 0 2 / 4096 ≠ 1) ∧
    (mW.hdr.length = 16 ∧ mW.data.length = 16 * (fieldAt mW.hdr 1 1 % 16) ∧ fieldAt mW.hdr 0 1 = 1) := by decide +kernel

/-- A flit in the replay buffer after some replays. -/
def pSent (tries : Nat) : Port := { (devUp.port 0) with sent := [⟨1, [], tries, some 0⟩] }

theorem test_replay_met : (∃ f ∈ (pSent 8).sent, 8 ≤ f.tries) ∧ (∀ f ∈ (pSent 7).sent, f.tries < 8) := by decide

/-- A probe that carries time 1,000, and its echo after 4 ticks. -/
def probeW : Bytes := let b := le 1 2 ++ zeros 8 ++ le 4 1000 ++ zeros 1
  b ++ le 2 (crc16 b)
def echoW : Bytes := let b := le 1 3 ++ zeros 8 ++ le 4 1000 ++ le 1 4
  b ++ le 2 (crc16 b)

theorem test_probe_met : (symOk probeW = true ∧ fieldAt probeW 0 1 = 2 ∧ sUp.dev.portSt 0 = 2) ∧ (symOk echoW = true ∧ fieldAt echoW 0 1 = 3 ∧
    fieldAt echoW 9 4 ∈ ({ (devUp.port 0) with probes := [1000] } : Port).probes) ∧ ¬(symOk echoW = true ∧ fieldAt echoW 9 4 ∈ (devUp.port 0).probes) ∧
    sUp.dev.upPorts = [0] := by decide +kernel

theorem test_admit_met : (sL .lead []).beat.role = .lead ∧ (sL .lead []).dev.net.swap = none ∧ ((3 : BitVec 6).toNat ≠ (sL .lead []).dev.pkgId) ∧ (sL .lead []).dev.inShape 3 = true ∧
    (sL .lead []).dev.pkgState 3 = 0 ∧ (sL .lead []).dev.inShape 4 = false ∧
    ((sL .alone (rPort 2)).dev.net.leadSeen = false ∧ (sL .alone (rPort 2)).dev.upPorts ≠ [] ∧ flag ((sL .alone (rPort 2)).dev.reg 0xE000C) 1 = false) := by decide

/-- A roster message from package `src` with `b` in byte 9 and some entries. -/
def rosterW (src b : Nat) (es : List Nat) : Msg := ⟨le 1 6 ++ zeros 2 ++ le 1 src ++ zeros 5 ++ le 1 b ++ zeros 6, es.flatMap (le 2)⟩

theorem test_roster_met : (let m := rosterW 1 0 [1 + 256]; rosterEntries m = [(1, 1)] ∧ (1, 3) ∉ rosterEntries m ∧ fieldAt m.hdr 9 1 % 4 = 0 ∧ fieldAt m.hdr 3 1 % 64 = 1 ∧
      bitAt (fieldAt m.hdr 9 1) 1 = false) ∧
    (let m := rosterW 1 0 [1 + 768]; (1, 3) ∈ rosterEntries m ∧ (sL .lead [(0x160808, 1)]).dev.pkgState 1 = 1) ∧ rosterEntries (rosterW 1 0 []) = [] ∧
    (let m := rosterW 1 1 [256]; rosterEntries m = [(0, 1)] ∧ fieldAt m.hdr 9 1 % 4 = 1 ∧ (sL .alone []).dev.pkgId = 0) := by decide

/-- A handover under way to or from package 1, at beat 10. -/
def swW (isA agreed : Bool) : Swap := ⟨isA, 1, 10, [], [], agreed, none, none, some 256000⟩
def sSwap (w : Swap) : State := let s := sL (if w.isA then .lead else .member) [(0xE000C, 0x100), (0xE0014, 1)]
  { s with dev := { s.dev with net := { netReset with swap := some w } } }

theorem test_lead_swap_met : opens (dL []) .pf 0xE0010 ∧ flag (0x101 : Word) 8 = true ∧ fld (0x101 : Word) 0 6 = 1 ∧ (dL [(0x160808, 1)]).onRoster 1 = true ∧
    (dL []).onRoster 1 = false ∧ (fld ((dL []).reg 0xE0014) 0 3 ≠ 1) ∧ ((sSwap (swW true false)).dev.net.swap.isSome = true) ∧ ((sSwap (swW true false)).dev.leadId = 1) := by
  unfold opens; decide

/-- A swap request of package `a` for package `b`. -/
def swReq (a b : Nat) : Msg := ⟨zeros 9 ++ le 1 a ++ le 1 b ++ zeros 5, []⟩

theorem test_swap_request_met : (fieldAt (swReq 0 1).hdr 9 1 % 64, fieldAt (swReq 0 1).hdr 10 1 % 64) = ((sSwap (swW true false)).dev.pkgId, (swW true false).other) ∧
    (fieldAt (swReq 2 1).hdr 9 1 % 64 ≠ (sSwap (swW true false)).dev.pkgId) ∧ ((sL .lead []).dev.net.swap = none) ∧
    ((sL .member [(0xE0014, 1)]).beat.role ≠ .lead ∧ fld ((sL .member [(0xE0014, 1)]).dev.reg 0xE0014) 0 3 = 1) := by decide

theorem test_swap_state_met : let m : Msg := ⟨zeros 3 ++ le 1 1 ++ zeros 12, le 4 20 ++ zeros 16⟩
    let s := sL .member [(0xE000C, 0x100)]
    s.beat.role = .member ∧ fieldAt m.hdr 3 1 % 64 = s.dev.leadId ∧ s.dev.net.swap = none ∧ fieldAt m.data 0 4 ≤ m.data.length ∧
    ((sSwap (swW false false)).beat.role = .member ∧ (sSwap (swW false false)).dev.net.swap = some (swW false false)) := by decide

theorem test_swap_digest_met : (swW true false).isA = true ∧ digest (swW true false).sent = ((BitVec.ofNat 128 (digest (swW true false).sent)).toNat) ∧
    (swW true true).agreed = true := ⟨rfl, by decide +kernel, rfl⟩

theorem test_swap_beat_met : let u : BeatUnit := { uLock with fired := some ⟨116000, 1856000, true⟩, notch := 1023, role := .lead }
    u.counted = true ∧ 1023 ≤ u.notch ∧ u.holdAt = none ∧ u.skipTo = none ∧ (swW true true).beat = (u.num + 1) % 2 ^ 64 ∧ (sSwap (swW true true)).dev.net.updates = [] ∧
    (sSwap (swW true true)).dev.net.requests = [] ∧ (swW false true).p16 = some 256000 := by decide

/-- An entry of packages 0 and 1, partition 0, staged under key 5, and the update that brings it. -/
def dG (gen : Word) : Dev :=
  { dL [(0xE1000, 5), (0xE1004, gen), (0xE1008, 65), (0x160808, 1)] with net := { netReset with gmem := [(1, 16)] } }

theorem test_group_write_met : opens (dG 0) .pf 0xE1018 ∧ (dG 0).stagedGroup.1 = 5 ∧ (dG 0).stagedGroup.2.members = [0, 16] ∧ (dG 0).reg 0xE1004 = BitVec.ofNat 32 ((dG 0).grpLatest 5).gen ∧
    (dG 0).groupFault (dG 0).stagedGroup.1 (dG 0).stagedGroup.2 = 0 ∧ (dG 1).reg 0xE1004 ≠ BitVec.ofNat 32 ((dG 1).grpLatest 5).gen ∧
    (dL [(0xE1000, 320)]).stagedGroup.1 = 320 ∧ ((dL [(0xE1000, 319)]).stagedGroup.1 < 320) := by unfold opens; decide

theorem test_group_update_met : let m : Msg := ⟨zeros 9 ++ le 1 5 ++ zeros 1 ++ le 4 1 ++ zeros 1, le 8 26 ++ le 4 65 ++ zeros 4 ++ le 2 0 ++ le 2 16⟩
    fieldAt m.hdr 9 1 + 256 * (fieldAt m.hdr 10 1 % 2) = 5 ∧ fieldAt m.hdr 11 4 = 1 ∧ (∀ u ∈ (dL []).net.updates, ¬(u.1 = 5 ∧ u.2.1.gen = 1)) ∧
    (let u : Nat × GroupEnt × Nat := (5, ⟨true, [0], 0, 0, 0, 1, 1⟩, 26); u ∈ [u] ∧ u.1 = 5 ∧ u.2.1.gen = 1) := by decide


/-! ### Power -/

theorem test_rails_met : (up.dev.boot.pg.getLsbD 0 = true ∧ up.dev.boot.pg.getLsbD 11 = true ∧ up.dev.boot.svcUp = true) ∧ (State.reset.dev.boot.pg.getLsbD 0 = false) ∧
    (up.dev.reg 0x120408 ≠ 0xFFFFFFFF) ∧
    (let b : Boot := { bootReset with pg := 3 }; b.svcUp = false ∧ b.pg.getLsbD 0 = true ∧ b.pg.getLsbD 1 = true ∧ b.pg.getLsbD 2 = false) ∧
    (let b : Boot := { bootReset with pg := 3, svcUp := true }; b.svcUp = true ∧ b.pg ≠ BitVec.allOnes 12) := by decide

/-- A die's droop unit, stretching since tick 100 or not. -/
def drW (on : Option Nat) (runN : Nat) : Droop := ⟨on, 0, 0, 0, runN⟩

theorem test_droop_met : (up.dev.ready = true ∧ up.dev.dieIdle 0 = true ∧ (up.dev.droop 0).on = none) ∧ ((stW (coreW grpW) cmdW).dev.dieIdle 0 = false) ∧ (State.reset.dev.ready = false) ∧
    ((1599999 : Nat) < (drW none 0).start + 1600000) ∧ (1600000 - (drW (some 100) 0).start < 20 * (drW (some 100) 0).upTo 1600000) ∧
    (20 * (drW none 0).upTo 1600000 ≤ 1600000 - (drW none 0).start ∧ (drW none 9).runN = 9 ∧ 100 * ((drW none 9).run + (drW none 9).upTo 1600000) ≤ 16000000) := by decide

/-- Alert input 0 asserted. -/
def dVr : Dev := { devUp with kiln := { kilnReset with vr := [(0, ⟨true, 0, false, false⟩)] }, floors := [(3, ⟨3, true, some 50⟩)] }

theorem test_vr_alert_met : up.dev.ready = true ∧ (up.dev.vr 0).low = false ∧ (vrRails 0).filter (fun r => flag (up.dev.reg (0x140200 + 0x10 * r)) 7) = [] ∧ up.dev.boot.up = true ∧
    ((vrRails 4).filter (fun r => flag ((dR [(0x140260, 0x80)]).reg (0x140200 + 0x10 * r)) 7) = [6] ∧ (dR [(0x140260, 0x80)]).pmb.cur = none) ∧ (dVr.vr 0).low = true ∧
    (dVr.vr 0).said = false ∧ (∀ h < 6, h ≠ 0 → (dVr.vr h).low = true → 0 ∉ vrDies h) := by decide

theorem test_vr_floor_met : (∃ k, dVr.floor k 3 = ⟨3, true, some 50⟩ ∧ dVr.vrHeld 0 = true ∧ ({ dVr with kiln := kilnReset } : Dev).vrHeld k = false) := ⟨0, by decide⟩

/-- Readings in tenths of a degree: every layer at 40 °C but layer 0 of die 0. -/
def tempsW (x : Int) : List (Option Int) := List.replicate 4 (some x) ++ List.replicate 124 (some 400)

theorem test_temperatures_met : (∀ x ∈ [(969 : Int), 1000, 1049], 1050 > x) ∧ up.dev.ready = true ∧ (up.dev.heatOf 0).hot = 0 ∧
    (let d : Dev := { devUp with heat := [(0, ⟨1050, 1, 0⟩), (64, ⟨1100, 1, 0⟩)] }; (d.heatOf 0).hot + 1 = 2 ∧ (d.heatOf 64).hot.testBit 0 = true) ∧
    (hottest ((List.range 4).filterMap (fun i => validTemp (((tempsW 1050)[i]?).getD none)))).getD 1000 = 1050 := by decide +kernel

theorem test_floor_step_met : (let f : Floor := ⟨1, true, some 50⟩
    f.active = true ∧ f.since = some 50 ∧ f.step 49 true true = f ∧ f.step 50 true true ≠ f ∧ f.step 50 false true ≠ f) ∧ ((⟨0, false, none⟩ : Floor).active = false) := by decide

/-- The service space in PS5, after a trip at tick 0 or not. -/
def dPs5 (trip : Option Nat) : Dev := { dR [(0x120008, 8)] with kiln := { kilnReset with tripAt := trip } }

theorem test_power_cmd_met : (∀ path ∈ [Path.pf, .svc], opens devUp path 0x120000) ∧ opens (dPs5 none) .svc 0x120000 ∧ flag ((dPs5 none).reg 0x120008) 3 = true ∧
    flag (devUp.reg 0x120008) 3 = false ∧ devUp.kiln.pd = 0 ∧ (∀ u, (dPs5 none).kiln.tripAt = some u → u + 96000000000 ≤ 0 ∧ u + 96000000000 ≤ 0) ∧
    ((dPs5 (some 5)).kiln.tripAt = some 5 ∧ 96000000004 < 5 + 96000000000) ∧ (devUp.boot.checked = true ∧ flag (devUp.reg 0x100) 9 = false) := by
  refine ⟨by unfold opens; decide, by unfold opens; decide, by decide, by decide, by decide, fun _ h => by simp [dPs5] at h, by decide, by decide⟩

theorem test_power_down_ends_met : let s := sK (kCopy .waiting)
    s.dev.cmd 0 = some (kCopy .waiting) ∧ (kCopy .waiting).part < 16 ∧ (kCopy .waiting).kind = .descriptor ∧ (∀ n, (s.dev.srv n).seqs = []) ∧
    (∀ x ∈ s.dev.cmds, ∀ par i, x.kind = .entry par i → par ≠ 0) ∧ (kCopy .running).ph.fellable = true ∧ (kCopy .running).op ≠ 1 ∧ (kCopy .running).op ≠ 7 := by
  refine ⟨by decide, by decide, by decide, fun _ => rfl, ?_, by decide, by decide, by decide⟩
  intro x hx par i h
  simp only [sK, List.mem_cons, List.not_mem_nil, or_false] at hx
  subst hx
  cases h

theorem test_drain_met : let d : Dev := { devUp with kiln := { kilnReset with pd := 2 } }
    d.kiln.pd = 2 ∧ (∀ c ∈ d.cmds, c.ph = .completion) ∧ ¬(∃ p < 16, d.unsealed p = true) ∧ d.drained = true ∧ (∀ p < 16, d.unwritten p = false) ∧
    (let e : Dev := { d with chains := [(0, { (d.chain 0) with log := [(3, 0)] })] }; e.unsealed 0 = true) ∧
    (let e : Dev := { d with chains := [(1, { (d.chain 0) with signing := some ⟨1, 1, 1, 1, 9, 0, 0, 0, [], [], 0, false, []⟩ })] }; e.drained = false ∧ e.unwritten 1 = true) := by decide


/-! ### Energy and the PMBus controller -/

/-- The default coefficients, every die at PS1, a package cap of `cap` W: each partition's static energy of a period is 1,703 µJ. -/
def dE (cap : Word) (kil : Kiln) (regs : List (Nat × Word)) : Dev := { dR ([(0x120004, 1), (0x120010, 0x100000), (0x120014, 0x100000), (0x120018, 0x100000), (0x12001C, 0x100000), (0x120020, cap)] ++ regs) with kiln := kil }
/-- The cones of a period of every account. -/
def gains (d : Dev) : List Nat := (List.range 17).map (fun n => (periodCones d n).1)

theorem test_gains : gains (dE 1 kilnReset []) = List.replicate 16 1703 ++ [0] := by decide +kernel

/-- 27,248 µJ are above the effective cap of 1 W, at most that of 300 W and above 0.95 of it, and at or below 0.95 of that of 1,000 W. -/
theorem test_cap_met : (List.replicate 16 1703 ++ [0]).sum = 27248 ∧ (dE 1 kilnReset []).boot.up = true ∧ State.reset.dev.boot.up = false ∧ fld ((dE 1 kilnReset []).reg 0x120140) 0 2 = 0 ∧
    92 * ((dE 1 kilnReset []).reg 0x120020).toNat < 27248 ∧ (95 * (92 * ((dE 300 kilnReset []).reg 0x120020).toNat) < 100 * 27248 ∧ 27248 ≤ 92 * ((dE 300 kilnReset []).reg 0x120020).toNat) ∧
    100 * 27248 ≤ 95 * (92 * ((dE 1000 kilnReset []).reg 0x120020).toNat) ∧ (dE 1 kilnReset []).quietNow = true ∧ (dE 1 kilnReset []).kiln.quiet = none ∧
    (∀ i < 4, ((dE 1 kilnReset []).floor i 4).ps < 3) ∧ (dE 1 { kilnReset with low := [(16, 9)] } []).lowRun 16 = 9 ∧ (dE 1 kilnReset []).lowRun 16 = 0 ∧
    (let d : Dev := { (dE 1 kilnReset []) with floors := [(4, ⟨3, true, none⟩), (12, ⟨3, true, none⟩), (20, ⟨3, true, none⟩), (28, ⟨3, true, none⟩)] }
     ∀ i < 4, 3 ≤ (d.floor i 4).ps) := by decide

/-- With a partition cap of 1 W, of 19 W and none. -/
theorem test_duty_met : (let d := dE 1 kilnReset [(0x120040, 1)]; fld (d.reg 0x120040) 0 11 ≠ 0 ∧ 92 * fld (d.reg 0x120040) 0 11 < 1703 ∧ (d.reg 0x120080).toNat = 16) ∧
    (let d := dE 1 { kilnReset with low := [(0, 9)] } [(0x120040, 19)]
     95 * (92 * fld (d.reg 0x120040) 0 11) < 100 * 1703 ∧ 1703 ≤ 92 * fld (d.reg 0x120040) 0 11 ∧ d.lowRun 0 = 9) ∧
    (fld ((dE 1 kilnReset []).reg 0x120040) 0 11 = 0 ∧ (dE 1 kilnReset []).lowRun 0 < 9) := by decide

/-- One round of the quiescent window whose measured energy is the modelled static energy times `k`. -/
def kQ (k : Nat) : Kiln := { kilnReset with quietN := [⟨1000 * k, 1000, 0⟩], periods := 51, quiet := some 1 }

theorem test_quiescent_met : (let d : Dev := { devUp with kiln := kQ 1 }
      d.kiln.quietN ≠ [] ∧ 0 < 65536 * (d.kiln.quietN.map (fun r => (r.st : Int))).sum ∧ (∀ q, d.kiln.quiet = some q → q + 50 ≤ d.kiln.periods) ∧
      fitLies (65536 * 1000) (65536 * 1000) ∧ 0x8000 ≤ d.gainB ∧ d.gainB ≤ 0x20000) ∧ ¬fitLies (65536 * 3000) (65536 * 1000) ∧ opens devUp .pf (coefOff 14) := by
  refine ⟨⟨by decide, by decide, fun q h => ?_, by unfold fitLies; decide, by decide, by decide⟩, by unfold fitLies; decide, by unfold opens; decide⟩
  cases h
  decide

theorem test_b_fit_met : (dR [(0x120140, 1)]).reg 0x120140 = 1 ∧ (let r : Sample := ⟨20, 10, 10⟩; decide (r.st ≤ 10 * r.dy) = true ∧
    0 < 65536 * (r.dy : Int) ∧ fitLies (65536 * (r.pm : Int) - 65536 * r.st) (65536 * r.dy)) ∧ (devUp.reg 0x120140 ≠ 1) := by unfold fitLies; decide

/-- Three rounds that both gains 1 fit exactly. -/
theorem test_regression_met : let rw : List Sample := [⟨3, 1, 2⟩, ⟨5, 1, 4⟩, ⟨4, 2, 2⟩]
    let sum (f : Sample → Int) : Int := (rw.map f).sum
    let xx := sum (fun r => (r.st : Int) * r.st)
    let xy := sum (fun r => (r.st : Int) * r.dy)
    let yy := sum (fun r => (r.dy : Int) * r.dy)
    let xp := sum (fun r => (r.st : Int) * r.pm)
    let yp := sum (fun r => (r.dy : Int) * r.pm)
    let sy := sum (fun r => (r.dy : Int))
    let det := xx * yy - xy * xy
    0 < det ∧ sy * sy ≤ 400 * ((rw.length : Int) * yy - sy * sy) ∧ fitLies (xp * yy - yp * xy) det ∧ fitLies (yp * xx - xp * xy) det ∧
    sum (fun r => ((r.pm : Int) * det - (xp * yy - yp * xy) * r.st - (yp * xx - xp * xy) * r.dy) * ((r.pm : Int) * det - (xp * yy - yp * xy) * r.st - (yp * xx - xp * xy) * r.dy)) = 0 ∧
    (dR [(0x120140, 2)]).reg 0x120140 = 2 ∧ 2 < ((dR [(0x120140, 3)]).reg 0x120140).toNat := by
  unfold fitLies; decide

/-- Rails 2 and 7 polled, the rotation at rail 7; and a transaction in progress. -/
def dP (cur : Option PmbTx) (rnd : Option PmbRound) : Dev := { dR [(0x140100, 1), (0x140220, 0x80), (0x140270, 0x80)] with pmb := { pmbReset with turn := 3, cur := cur, round := rnd } }

theorem test_round_met : flag ((dP none none).reg 0x140100) 0 = true ∧ (dP none none).pmb.round = none ∧
    (List.range 12).filter (fun r => flag ((dP none none).reg (0x140200 + 0x10 * r)) 7) = [2, 7] ∧ (dP none none).pmb.turn ≤ 7 ∧
    (∀ x ∈ [2, 7], x < 7 → x < (dP none none).pmb.turn ∧ (dP none none).pmb.turn ≤ 7) ∧ ((List.range 12).filter (fun r => flag (devUp.reg (0x140200 + 0x10 * r)) 7) = []) := by decide

theorem test_manual_met : opens (dP none none) .pf 0x140108 ∧ ¬(11 < fld (0x8000050B : Word) 0 4 ∨ 5 < fld (0x8000050B : Word) 8 3) ∧ flag (0x8000050B : Word) 31 = true ∧
    (11 < fld (0x8000050C : Word) 0 4) ∧ (5 < fld (0x8000060B : Word) 8 3) := by unfold opens; decide

/-- The last reading of a round: 25 °C, in range. -/
theorem test_transaction_done_met : let o : PmbRound := ⟨[], true, 0, 0, 0, 0, 0⟩
    let d : Dev := { dP (some ⟨.round, 2, 0x8D⟩) (some o) with kiln := { kilnReset with periods := 40 } }
    d.pmb.cur = some ⟨.round, 2, 0x8D⟩ ∧ d.inRange 2 0x8D 25 = true ∧ d.pmb.round = some o ∧ d.pmb.alerts = [] ∧ d.pmb.manual = none ∧
    (o.ok = true ∧ 0 < d.kiln.periods - o.period ∧ d.kiln.periods - o.period ≤ 40 ∧ d.boot.up = true) ∧
    (d.inRange 2 0x8C 0 = true) ∧ (let v : VrIn := ⟨true, 0, false, true⟩; v.due = true) ∧ ((dP (some ⟨.alert 0, 2, 0x79⟩) none).pmb.cur ≠ none) := by decide +kernel


/-! ### The service port, indicators and background duties -/

/-- A write frame of the word 5 with its CRC, at page `p`, register word 0. -/
def frW : Bytes := let b := be 4 5
  b ++ le 1 (crc8 ((0 : Byte) :: b))

theorem test_frame_met : up.dev.boot.svcUp = true ∧ (State.reset.dev.boot.svcUp = false) ∧ ((0 : Byte).toNat / 64 = 0 ∧ (192 : Byte).toNat = 192) ∧ frW.length * 8 = 40 ∧
    ((40 : Nat) % 32 = 8 ∧ 40 / 32 = 1) ∧ crc8 ((0 : Byte) :: frW.dropLast) = (frW.getLastD 0).toNat ∧ crc8 ((0 : Byte) :: (zeros 4 ++ [1]).dropLast) ≠ ((zeros 4 ++ [1]).getLastD 0).toNat ∧
    ¬((32 * 65 + 8) / 32 ≤ 64) ∧ ((64 * 32 + 8) / 32 ≤ 64) ∧ ((5 : Word).toNat < 1024 ∧ 1024 ≤ (1024 : Word).toNat) := by decide +kernel

/-- With page 768 set, register words 0, 64 and 65 of the fault domain stand at offsets 0x160000, 0x160100 and 0x160104. -/
theorem test_frame_word_met : (let d := dR [(0x140004, 0x300)]; 64 * fld (d.reg 0x140004) 0 10 + 0 = 0xC000 + (0x160000 - 0x160000) / 4 ∧ flag (d.reg 0x140000) 0 = false) ∧
    (let d := dR [(0x140004, 0x301)]; 64 * fld (d.reg 0x140004) 0 10 + 1 = 0xC000 + (0x160104 - 0x160000) / 4) ∧ inLims (regRule 0x160000).lims 0x103 = true ∧ inLims (regRule 0x160000).lims 0 = false ∧
    inLims (regRule 0x160104).lims 0 = false ∧ ((65 : Byte).toNat / 64 = 1 ∧ (128 : Byte).toNat < (129 : Byte).toNat) := by
  refine ⟨by decide, by decide, by decide, by decide, by decide, by decide⟩

/-- A companion read of one word, asked for or driving. -/
def dComp (drives : Bool) : Dev := { dR [(0x140004, if drives then 0x4000 else 0), (0x140024, 1)] with svc := { svcReset with comp := some 0x80000000 } }

theorem test_companion_met : opens devUp .pf 0x140020 ∧ fld (devUp.reg 0x140024) 0 3 ≠ 1 ∧ fld ((dComp false).reg 0x140024) 0 3 = 1 ∧ fld (0x80000002 : Word) 0 2 ≠ 3 ∧
    flag (0x80000002 : Word) 31 = true ∧ fld (3 : Word) 0 2 = 3 ∧ (dComp true).svc.comp = some 0x80000000 ∧ flag ((dComp true).reg 0x140004) 14 = true ∧
    flag ((dComp false).reg 0x140004) 14 = false := by unfold opens; decide

/-- Sink 0 at a duty of 6/256 ms, its pulse out or not. -/
def dSind (cfg : Word) (x : Sind) : Dev := { dR [(0x140400, cfg)] with sinds := [(0, x)] }

theorem test_indicator_met : (let cfg : Word := 0x1006; fld cfg 0 9 = 6 ∧ fld cfg 12 4 ≠ 0 ∧ fld cfg 16 2 = 0) ∧ (let cfg : Word := 0x41005; fld cfg 0 9 = 5 ∧ flag cfg 18 = true ∧ fld cfg 12 4 ≠ 0) ∧
    (fld (0 : Word) 0 9 = 0) ∧ ((⟨0, 6, false, false, [true, true]⟩ : Sind).on = 6 ∧ (true :: (⟨0, 6, false, false, [true, true]⟩ : Sind).hist).take 3 = [true, true, true]) ∧
    ((⟨0, 5, false, false, []⟩ : Sind).on < 6) ∧ (flag ((dR [(0x140488, 1)]).reg 0x140488) 0 = true ∧ flag ((dR [(0x12000C, 0x2000), (0x140488, 1)]).reg 0x12000C) 13 = true) ∧
    (up.dev.partSt 0 ≠ 2) := by decide

/-- A beat unit that counts, at the first notch of a window's beat. -/
def sWin (num notch : Nat) (regs : List (Nat × Word)) : State := { up with beat := { uLock with en := true, num := num, notch := notch }, dev := dR regs }

theorem test_duty_window_met : (let s := sWin 1 8 [(0x230, 4), (0x234, 1), (0x238, 8 + 1024 * 2), (0x254, 0x80000000)]
      fld (s.dev.reg 0x234) 0 24 < fld (s.dev.reg 0x230) 0 24 ∧ s.beat.counting = true ∧ s.beat.num % fld (s.dev.reg 0x230) 0 24 = fld (s.dev.reg 0x234) 0 24 ∧
      s.beat.notch = fld (s.dev.reg 0x238) 0 10 ∧ isHost (s.dev.reg64 0x250) = true ∧ s.dev.ready = true ∧ (s.dev.reg 0x258).toNat + 1 < 2 ^ 32) ∧
    (let s := sWin 1 9 [(0x230, 4), (0x234, 1), (0x238, 8 + 1024 * 2)]
     let pos := (s.beat.num + fld (s.dev.reg 0x230) 0 24 - fld (s.dev.reg 0x234) 0 24) % fld (s.dev.reg 0x230) 0 24 * 1024 + s.beat.notch
     fld (s.dev.reg 0x238) 0 10 ≤ pos ∧ pos < fld (s.dev.reg 0x238) 0 10 + fld (s.dev.reg 0x238) 10 22 ∧ s.beat.notch ≠ fld (s.dev.reg 0x238) 0 10) ∧
    (let s := sWin 1 10 [(0x230, 4), (0x234, 1), (0x238, 8 + 1024 * 2)]
     ¬((s.beat.num + fld (s.dev.reg 0x230) 0 24 - fld (s.dev.reg 0x234) 0 24) % fld (s.dev.reg 0x230) 0 24 * 1024 + s.beat.notch <
       fld (s.dev.reg 0x238) 0 10 + fld (s.dev.reg 0x238) 10 22)) := by decide

/-- A calibration pass at unit `u`. -/
def dCal (u : Word) (due : Bool) : Dev := { dR [(0x244, u)] with svc := { svcReset with calRun := true, calBusy := true, calDue := due } }

theorem test_calibration_met : (up.dev.ready = true ∧ up.dev.svc.calRun = false) ∧ ((dCal 0 false).svc.calRun = true ∧ fld ((dCal 0 false).reg 0x244) 0 8 = 0 ∧ (dCal 0 false).svc.calBusy = true) ∧
    (fld ((dCal 127 false).reg 0x244) 0 8 = 32 * 3 + 31) ∧ (fld ((dCal 132 true).reg 0x244) 0 8 = 128 + 4 ∧ (dCal 132 true).svc.calDue = true) ∧ (dCal 1 false).reg 0x248 ≠ 0xFFFFFFFF ∧
    ([5, -40] : List Int)[1]? = some (-40) := by decide


/-! ### Bring-up, pins, the queue -/

/-- The device in a stage of bring-up, in reset until stage 3. -/
def dBoot (st : Nat) (b : Boot) : Dev := { devReset with boot := b, regs := [(0x100, BitVec.ofNat 32 st)] }
def bUp : Boot := { bootReset with svcUp := true, pg := BitVec.allOnes 12 }
def bIn : Boot := { bUp with checked := true, up := true }

theorem test_boot_stage_met : (∀ st ∈ [1, 2, 3, 4, 5, 6], atStage (dBoot st bUp) st) ∧ ¬atStage devReset 1 ∧ (¬((dBoot 3 bIn).boot.svcUp = false ∨ flag ((dBoot 3 bIn).reg 0x100) 9 = true ∨
    (dBoot 3 bIn).ready = true)) ∧ (dBoot 3 bIn).boot.locked = false ∧ bIn.perst = false ∧ bIn.tries = 0 ∧ ({ bIn with tries := 1 } : Boot).tries ≠ 0 ∧
    (let fails := [127, 33]; 33 ∈ fails ∧ (∀ x ∈ fails, 33 ≤ x) ∧ 33 < 128) := by unfold atStage; decide

theorem test_boot_release_met : atStage (dBoot 2 { bUp with checked := true }) 2 ∧ ({ bUp with checked := true } : Boot).pg = BitVec.allOnes 12 ∧
    flag ((dBoot 2 { bUp with checked := true }).reg 0x120008) 3 = false ∧ bUp.tap ∉ ([0x00, 0x03, 0x04, 0x05, 0x06] : List (BitVec 8)) ∧ bUp.up = false := by unfold atStage; decide

/-- A copy of version 4,294,967,295 and an image of 4 bytes of 0, and one left open. -/
def fwBytes : Bytes := [0x55, 0x4C, 0x46, 0x57] ++ le 4 4294967295 ++ le 4 4 ++ zeros 52 ++ sha384 (zeros 4) ++ zeros 144 ++ zeros 4

/-- Words of bytes. -/
def fwWords : List Word := (List.range 65).map (fun i => BitVec.ofNat 32 (fieldAt fwBytes (4 * i) 4))

theorem test_firmware_met : passesCheck true (FwCopy.bytes false (.written fwWords true)) 4294967295 ∧ (¬∃ v, passesCheck true (FwCopy.bytes true (.written fwWords false)) v) := by
  refine ⟨⟨fwWords.flatMap (fun w => le 4 w.toNat), by rw [FwCopy.bytes], rfl, by decide +kernel, by decide +kernel, ?_, by decide +kernel, by decide +kernel, by decide +kernel, by decide +kernel,
    by decide +kernel, by decide +kernel, by decide +kernel⟩, ?_⟩
  · have h := Config.fuseVersion.isLt
    omega
  · rintro ⟨v, b, h, -⟩
    cases h

theorem test_self_test_boot_stage_met : let d := dBoot 6 { bIn with locked := true }
    atStage d 6 ∧ flag (d.reg 0x104) 0 = true ∧ [((5, 3) : Nat × Nat)].find? (fun x => x.1 == 5) = some (5, 3) ∧ (3 : Nat) ≠ 2 ∧ fld (d.reg (0x161000 + 8 * 5)) 0 2 < 2 ∧
    atStage (dBoot 3 { bIn with locked := true }) 3 := by unfold atStage; decide

/-- The spare copy as open, by the copy that booted. -/
theorem test_firmware_write_met : (∀ path ∈ [Path.pf, .svc], opens devUp path 0x110 ∧ opens devUp path 0x114 ∧ opens devUp path 0x104) ∧ flag (3 : Word) 0 = true ∧ flag (2 : Word) 0 = false ∧
    flag (2 : Word) 1 = true ∧ (∀ ws, bootReset.fwB ≠ .written ws false) ∧ (∃ ws, ({ bootReset with fwB := .written [] false } : Boot).fwB = .written ws false ∧ ws.length < 1048576) ∧
    (∃ ws : List Word, 1048576 ≤ ws.length) ∧ (up.dev.boot.links = false ∧ up.dev.ready = true) := by
  refine ⟨by unfold opens; decide +kernel, by decide, by decide, by decide, (fun _ h => by cases h), ⟨[], rfl, by decide⟩, ⟨List.replicate 1048576 0, ?_⟩, by decide⟩
  rw [List.length_replicate]

theorem test_pins_met : up.dev.boot.perst = false ∧ up.dev.boot.due = false ∧ up.dev.boot.svcUp = true ∧ flag (up.dev.reg 0x120008) 3 = false ∧
    up.dev.boot.tap ∉ ([0x00, 0x03, 0x04, 0x05, 0x06] : List (BitVec 8)) ∧ (7 : BitVec 8).toNat = 7 ∧ (6 : BitVec 8).toNat < 7 ∧
    (∃ i c, (i = Instr.samplePreload ∧ c = (1 : BitVec 8)) ∧ c ∉ ([0x00, 0x03, 0x04, 0x05, 0x06] : List (BitVec 8))) := by
  refine ⟨by decide, by decide, by decide, by decide, by decide, by decide, by decide, ⟨_, _, ⟨rfl, rfl⟩, by decide⟩⟩

theorem test_undecodable_met : (thrW { grpW with pc := 4096 }).cmd.run.codeLen ≤ 4096 ∧ ((fR 8).fmt ≠ 9) ∧ ((({ fR 9 with gn := true } : RForm).gp = 0)) ∧
    (∃ o ∈ intRows, ∃ u ∈ (o.chk { fR 9 with dst := 64 }).uses, u.uni = false ∧ u.reg ≠ 255 ∧ 64 ≤ u.reg) ∧ s0.thr ⟨0, 0, 1⟩ = none := by decide

theorem test_home_exists_met : up.dev.place 0 ≠ none ∧ up.dev.place (2 ^ 62) = none ∧ homeAddr (.snoop (2 ^ 62) 0) = some (2 ^ 62) := by
  refine ⟨by decide, by decide, rfl⟩

theorem test_kept_met : Kept State.reset := ⟨rfl, fun _ => Nat.zero_le _, by decide⟩

/-- A step of the empty queue, and one of a command. -/
theorem test_step_idle : step up = .next up := rfl
theorem test_step_front : step { up with pending := [.bypass 3, .bypass 4] } = .next { up with pending := [.bypass 4] } := rfl


/-! ### Ill-formed commands, and values the spec states -/

/-- A well-formed message of no data, and one that counts a slot it does not have. -/
def mOk : Msg := ⟨zeros 16, []⟩
def mBad : Msg := ⟨[0, 1] ++ zeros 14, []⟩

/-- Each message check turns the bad message away and takes the good one. -/
theorem test_wf_messages : ∀ f ∈ ([(.writeMessage 0 · 0), .pullMessage none, .contributionMessage none, .rosterMessage 0, .swapRequest none, .swapState 0, .groupUpdate 0,
    (.discardNotice 0 · 0), .passNotice none, .commitNotice none, .fellNotice none, .mismatchNotice none] : List (Msg → Instr)), (f mBad).wf = false ∧ (f mOk).wf = true := by decide

/-- Offsets are words of the register space. -/
theorem test_wf_offsets : ∀ i ∈ ([.registerWrite .pf 2 0, .registerWrite .pf 0x1000000 0, .statCounterClear .pf 2 0, .statCounterClear .pf 0x1000000 0, .counterLowRead .pf 2,
    .counterLowRead .pf 0x1000000, .werrRead .pf 2, .werrRead .pf 0x1000000, .barAccessMisaligned .pf 0x1000000 true, .numvfsWrite 65536] : List Instr), i.wf = false := by decide

/-- Symbols, flits and identities have their lengths and ranges. -/
theorem test_wf_links : ∀ i ∈ ([.beatSymbol 0 (zeros 15) 0, .beatSymbol 0 (zeros 16) (2 ^ 64), .probe 0 (zeros 17) 0 0, .probe 0 (zeros 16) 0 (2 ^ 64), .echo 0 [] 0, .hklIdentityExchange 0 0 6 4 false,
    .hklIdentityExchange 0 0 0 3 false, .hklFlitReceive 0 (zeros 255)] : List Instr), i.wf = false := by decide +kernel

/-- Records, lines and granules have their sizes. -/
theorem test_wf_records : ∀ i ∈ ([.doorbellReadDone 0 0 true [], .releaseReadDone .pfEvent true [], .ringEnableReadDone (.sub 0 0) true [], .descriptorFetchDone 0 0 true [zeros 63] [],
    .invw 0 .host 0 (zeros 127) [], .writeLand (.hub 0) 0 0 0 [], .finalWriteArrive (.hub 0) 0 0 0 0 0 [] 0, .repairReadDone 0 true [], .bulkSlotIssue 0 (2 ^ 27) false [] none,
    .narrowAccess 0 (2 ^ 31) false [] none, .rowRemapDone 0 0 0 24576] : List Instr), i.wf = false := by decide +kernel

/-- Samples, frames and bring-up results have theirs. -/
theorem test_wf_samples : ∀ i ∈ ([.dramThermalSample [] 0, .junctionSample [] 0, .svcWriteFrame 0 [0] 9, .svcSetPage 0 [] 1, .compTransferDone (List.replicate 17 0) true, .dramTrainingDone [128],
    .selfTestComplete [(576, 0)] [] true 0, .selfTestComplete [] [576] true 0, .selfTestComplete [] [] true (2 ^ 64)] : List Instr), i.wf = false := by decide

/-- A failed read brings no record, and rows without a check are well formed. -/
theorem test_wf_taken : ∀ i ∈ ([.doorbellReadDone 0 0 false [], .registerWrite .pf 0xFFFFFC 0, .hklIdentityExchange 0 63 5 8 true, .beatSymbol 0 (zeros 16) 0, .bypass 255, .controlPeriod] : List Instr),
    i.wf = true := by decide

/-- The ASCII string "123456789". -/
def digits : Bytes := [0x31, 0x32, 0x33, 0x34, 0x35, 0x36, 0x37, 0x38, 0x39]

/-- The check values that R415, R420, R458 and R529 state. -/
theorem test_crcs : crc8 digits = 0xF4 ∧ crc16 digits = 0x29B1 ∧ crc32 digits = 0xCBF43926 ∧ crc64 digits = 0x62EC59E3F1A4F00A := by decide +kernel

/-- The worked case of R479: partition 5 in PS0 of an SL16-A gains 8,502 cones, and 0.4 µJ is carried. -/
def dWorked : Dev := { devUp with kiln := { kilnReset with cnt := [(84, 12000000000), (88, 5000000), (89, 400000000), (91, 2000000), (92, 10000)] } }

/-- The energy of an account of a die in PS0 of an SL16-A, written out. -/
def energyPs0 (d : Dev) (n : Nat) : Nat :=
  let k (off : Nat) : Nat := (d.reg off).toNat
  let core := ((List.range 8).map (fun i => d.activity n i * k (0x120100 + 4 * i))).sum + d.activity n 8 * k 0x120120
  let rest := d.activity n 9 * k 0x120124 + d.activity n 10 * k 0x120128 + d.activity n 11 * k 0x12012C + d.activity n 12 * k 0x120130
  16 * k 0x120148 * (256 * core + 256 * rest) + 100000000 * k 0x120144 * (256 * (4 * k 0x120134 + k 0x120138))

theorem test_period_energy_ps0 (d : Dev) (n : Nat) (h : Config.isC = false) (hn : n ≠ 16) (e : d.effState (n / 4) = 0) (c : d.dieState (n / 4) = 0) :
    periodEnergy d n = energyPs0 d n := by
  simp [periodEnergy, energyPs0, sigma, h, hn, e, c]

theorem test_energy_worked : energyPs0 dWorked 5 = 8502400000000 * 2 ^ 28 := by decide +kernel

theorem test_worked_case (h : Config.isC = false) : periodCones dWorked 5 = (8502, 400000000 * 2 ^ 28) := by
  have e := test_period_energy_ps0 dWorked 5 h (by decide) (by decide) (by decide)
  rw [test_energy_worked] at e
  have r : Sparse.get (fun _ => 0) dWorked.kiln.res 5 = 0 := rfl
  simp only [periodCones, e, r, Nat.zero_add]
  decide +kernel


end Sys2Proof.Tests
end

section
/-! SUPPORT. Reconvergence (R157, R159), core faults (R167) and BRA (R156, R158, R186): what each does, and the statement about branches. -/

namespace Sys2Proof.Machine

/-! ### Reconvergence -/

/-- The group does not reconverge: its stack is empty, or its path has lanes and has not reached its reconvergence address. -/
def Grp.onPath (g : Grp) : Prop := g.stack = [] ∨ ∃ e r, g.stack = e :: r ∧ g.mask ≠ 0 ∧ g.pc ≠ e.reconv

/-- How often a stack can still reconverge: twice for an entry whose alternate path waits, once for any other. -/
def turnsLeft (es : List DivEnt) : Nat := (es.map (fun e => if e.altMask = 0 then 1 else 2)).sum

/-- No lane that has exited is active or waits on an alternate path. -/
def Grp.sparesExited (g : Grp) : Prop := g.mask &&& g.exited = 0 ∧ ∀ e ∈ g.stack, e.altMask &&& g.exited = 0

theorem turnsLeft_cons (e : DivEnt) (r : List DivEnt) : turnsLeft (e :: r) = (if e.altMask = 0 then 1 else 2) + turnsLeft r := by
  simp [turnsLeft]

theorem turnsLeft_le (es : List DivEnt) : turnsLeft es ≤ 2 * es.length := by
  induction es with
  | nil => exact Nat.zero_le _
  | cons e r ih => rw [turnsLeft_cons, List.length_cons]; split <;> omega

theorem eq_nil_of_turnsLeft_eq_zero {es : List DivEnt} (h : turnsLeft es = 0) : es = [] := by
  cases es with
  | nil => rfl
  | cons e r => rw [turnsLeft_cons] at h; split at h <;> omega

/-- Reconvergence ends on a path to run when its bound covers the turns that the stack allows. -/
theorem Grp.settle_onPath (n : Nat) (g : Grp) (h : turnsLeft g.stack ≤ n) : (Grp.settle n g).onPath := by
  fun_induction Grp.settle n g with
  | case1 g => exact .inl (eq_nil_of_turnsLeft_eq_zero (Nat.le_zero.1 h))
  | case2 n g hs => exact .inl hs
  | case3 n g e r hs _ halt ih =>
    rw [hs, turnsLeft_cons, if_neg halt] at h
    exact ih (by rw [turnsLeft_cons, if_pos rfl]; omega)
  | case4 n g e r hs _ halt ih =>
    rw [hs, turnsLeft_cons, if_pos (not_not.1 halt)] at h
    exact ih (by show turnsLeft r ≤ n; omega)
  | case5 n g e r hs hstay => exact .inr ⟨e, r, hs, not_or.1 hstay⟩

/-- Reconvergence makes no lane run that has exited. -/
theorem Grp.settle_sparesExited (n : Nat) (g : Grp) (h : g.sparesExited) : (Grp.settle n g).sparesExited := by
  fun_induction Grp.settle n g with
  | case1 g => exact h
  | case2 n g hs => exact h
  | case3 n g e r hs _ _ ih =>
    obtain ⟨-, hes⟩ := h
    rw [hs, List.forall_mem_cons] at hes
    exact ih ⟨hes.1, List.forall_mem_cons.2 ⟨BitVec.zero_and, hes.2⟩⟩
  | case4 n g e r hs _ _ ih =>
    obtain ⟨-, hes⟩ := h
    rw [hs, List.forall_mem_cons] at hes
    have hfull : (e.full &&& ~~~g.exited) &&& g.exited = 0 := by
      rw [BitVec.and_assoc, BitVec.and_comm (~~~g.exited), BitVec.and_not_self]
      exact BitVec.and_zero
    exact ih ⟨hfull, hes.2⟩
  | case5 n g e r hs _ => exact h

theorem Grp.goTo_frame (g : Grp) (pc : Nat) (mask : BitVec 32) :
    g.goTo pc mask = { g with pc := (g.goTo pc mask).pc, mask := (g.goTo pc mask).mask, stack := (g.goTo pc mask).stack, held := false } :=
  Grp.settle_frame 66 { g with pc := pc, mask := mask, held := false }

/-! ### What felling a command leaves alone -/

/-- The commands in flight and the holding queues of events are the same. -/
def Dev.SameCmdsEvents (d d' : Dev) : Prop := d'.cmds = d.cmds ∧ d'.evq = d.evq

theorem Dev.SameCmdsEvents.trans {a b c : Dev} (h : a.SameCmdsEvents b) (k : b.SameCmdsEvents c) : a.SameCmdsEvents c :=
  ⟨k.1.trans h.1, k.2.trans h.2⟩

theorem Dev.sameCmdsEvents_foldl {α : Type} (f : Dev → α → Dev) (hf : ∀ (d : Dev) (a : α), d.SameCmdsEvents (f d a)) (l : List α)
    (d : Dev) : d.SameCmdsEvents (l.foldl f d) := by
  induction l generalizing d with
  | nil => exact ⟨rfl, rfl⟩
  | cons a r ih => exact (hf d a).trans (ih (f d a))

theorem Dev.sameCmdsEvents_charge (d : Dev) (a k n : Nat) : d.SameCmdsEvents (d.charge a k n) := by
  obtain ⟨c, h⟩ := Dev.charge_shape d a k n
  rw [h]
  exact ⟨rfl, rfl⟩

theorem Dev.sameCmdsEvents_flush (n : Nat) (d : Dev) (p : Nat) : d.SameCmdsEvents (d.flush n p) := by
  fun_induction Dev.flush n d p with
  | case1 => exact ⟨rfl, rfl⟩
  | case2 => exact ⟨rfl, rfl⟩
  | case3 => exact ⟨rfl, rfl⟩
  | case4 n d p _ _ _ _ _ _ _ _ ih =>
    obtain ⟨hcmds, hevq⟩ := (Dev.sameCmdsEvents_charge _ _ _ _).trans ih
    exact ⟨hcmds, hevq⟩

theorem Dev.sameCmdsEvents_netSend (d : Dev) (part cid inp : Option Nat) (m : Msg) : d.SameCmdsEvents (d.netSend part cid inp m) := by
  unfold Dev.netSend
  dsimp only
  split
  · exact ⟨rfl, rfl⟩
  · split
    · exact ⟨rfl, rfl⟩
    · exact Dev.sameCmdsEvents_flush _ (d.setPort _ _) _

theorem Dev.sameCmdsEvents_setAlloc (d : Dev) (a : Nat) (x : Alloc) : d.SameCmdsEvents (d.setAlloc a x) := ⟨rfl, rfl⟩

theorem Dev.sameCmdsEvents_collFree (d : Dev) (c : Coll) : d.SameCmdsEvents (d.collFree c) := by
  unfold Dev.collFree
  dsimp only
  generalize hd1 : (d.setAlloc _ _).setAlloc 16 _ = d1
  have h1 : d.SameCmdsEvents d1 := hd1 ▸ (Dev.sameCmdsEvents_setAlloc d _ _).trans (Dev.sameCmdsEvents_setAlloc _ 16 _)
  split
  · exact h1
  · split
    · exact h1.trans ((Dev.sameCmdsEvents_setAlloc d1 _ _).trans (Dev.sameCmdsEvents_setAlloc _ 16 _))
    · exact h1.trans (Dev.sameCmdsEvents_setAlloc d1 16 _)

theorem Dev.sameCmdsEvents_collEnd (d : Dev) (cid : Nat) (tell : Bool) : d.SameCmdsEvents (d.collEnd cid tell) := by
  unfold Dev.collEnd
  split
  · exact ⟨rfl, rfl⟩
  · next c _ =>
    have hfree : d.SameCmdsEvents ((d.dropOut cid).collFree c) := Dev.sameCmdsEvents_collFree (d.dropOut cid) c
    dsimp only
    split
    · refine hfree.trans (.trans ?_ (Dev.sameCmdsEvents_foldl _ (fun _ _ => Dev.sameCmdsEvents_netSend _ _ _ _ _) _ _))
      exact Dev.sameCmdsEvents_foldl _ (fun _ _ => Dev.sameCmdsEvents_netSend _ _ _ _ _) _ _
    · exact hfree

theorem Dev.sameCmdsEvents_onCores (d : Dev) (p : Nat) (ls : List Nat) (f : Core → Core) : d.SameCmdsEvents (d.onCores p ls f) := by
  refine Dev.sameCmdsEvents_foldl _ (fun a l => ?_) ls d
  exact ⟨Dev.setCore_cmds a _ _, Dev.setCore_evq a _ _⟩

theorem Dev.sameCmdsEvents_bump (d : Dev) (key : Nat) : d.SameCmdsEvents (d.bump key) := by
  obtain ⟨r, h⟩ := Dev.bump_shape d key
  rw [h]
  exact ⟨rfl, rfl⟩

theorem Dev.sameCmdsEvents_bumpClient (d : Dev) (p c j : Nat) : d.SameCmdsEvents (d.bumpClient p c j) := by
  unfold Dev.bumpClient
  split <;> exact ⟨rfl, rfl⟩

theorem Dev.cmd_congr {d d' : Dev} (h : d'.cmds = d.cmds) (cid : Nat) : d'.cmd cid = d.cmd cid := by
  unfold Dev.cmd
  rw [h]

theorem Dev.cmd_cid {d : Dev} {cid : Nat} {c : Cmd} (h : d.cmd cid = some c) : c.cid = cid := by
  simpa using List.find?_some h

/-- A command that is replaced reads as its replacement. -/
theorem Dev.cmd_setCmd_same {d : Dev} {cid : Nat} {c c' : Cmd} (h : d.cmd cid = some c) (hc : c'.cid = cid) :
    (d.setCmd c').cmd cid = some c' := by
  have hset : d.setCmd c' = d.onCmd cid (fun x => if x.cid = cid then c' else x) := by
    unfold Dev.setCmd Dev.onCmd
    simp only [hc]
    congr 2
    funext x
    split <;> rfl
  have hkeeps : ∀ x : Cmd, (if x.cid = cid then c' else x).cid = x.cid := by
    intro x
    split
    · next hx => exact hc.trans hx.symm
    · rfl
  rw [hset, Dev.cmd_onCmd _ _ _ _ hkeeps, h]
  simp [Dev.cmd_cid h]

/-- Felling sets the end of its command and raises no event. -/
theorem Dev.fell_spec {d : Dev} {cid : Nat} {c : Cmd} (h : d.cmd cid = some c) (fin : FellEnd) :
    (d.fell cid fin).cmd cid = some { c with ph := .felling, fellEnd := fin, slots := [], entryLive := false } ∧ (d.fell cid fin).evq = d.evq := by
  unfold Dev.fell
  simp only [h]
  generalize hc' : ({ c with ph := .felling, fellEnd := fin, slots := [], entryLive := false } : Cmd) = c'
  generalize hd1 : ((d.onCores c.part c.cores Core.emptied).dropSamples cid) = d1
  generalize hd2 : ((({ d1 with streams := _, stores := _, finals := _, finalsQ := _ } : Dev).freeSlots c.part c.slots).collEnd cid true) = d2
  have h1 : d.SameCmdsEvents d1 := hd1 ▸ Dev.sameCmdsEvents_onCores d c.part c.cores Core.emptied
  have h2 : d.SameCmdsEvents d2 := hd2 ▸ h1.trans (Dev.sameCmdsEvents_collEnd _ cid true)
  have hset : (d2.setCmd c').cmd cid = some c' :=
    Dev.cmd_setCmd_same ((Dev.cmd_congr h2.1 cid).trans h) (hc' ▸ (Dev.cmd_cid h : c.cid = cid))
  have h3 : (d2.setCmd c').SameCmdsEvents (if d.inStep c = true then (d2.setCmd c').bump (ptn c.part + 0x328)
      else ((d2.setCmd c').bump (ptn c.part + 0x328)).bumpClient c.part c.client 2) := by
    have hb := Dev.sameCmdsEvents_bump (d2.setCmd c') (ptn c.part + 0x328)
    split
    · exact hb
    · exact hb.trans (Dev.sameCmdsEvents_bumpClient _ _ _ _)
  exact ⟨(Dev.cmd_congr h3.1 cid).trans hset, h3.2.trans h2.2⟩

/-! ### Core faults -/

theorem Dev.evQ_congr {d d' : Dev} (h : d'.evq = d.evq) (r : Nat) : d'.evQ r = d.evQ r := by
  unfold Dev.evQ
  rw [h]

/-- An event is the newest of its ring's queue, also after what touches no queue. -/
theorem gotEvent_of_raise (d d' : Dev) (k : Clk) (r : Nat) (e : Bytes) (h : d'.evq = (d.raise k r e).evq) : gotEvent d d' r e := by
  intro hsrc hroom
  rw [Dev.evQ_congr h, Dev.raise_room d k r e hsrc hroom, Dev.evQ_setEvQ_same]
  exact ⟨rfl, hsrc⟩

/-- A core fault of a command in flight ends it with kernel-fault and tells its ring (R167, R380). -/
theorem Dev.kernelFault_spec {d : Dev} {cid : Nat} {c : Cmd} (h : d.cmd cid = some c) (hf : c.ph.fellable = true)
    (k : Clk) (part tile gi code : Nat) (mask : BitVec 32) (pc : Nat) :
    (d.kernelFault k cid part tile gi code mask pc).cmd cid =
        some { c with ph := .felling, fellEnd := .complete 5 code, slots := [], entryLive := false } ∧
      gotEvent d (d.kernelFault k cid part tile gi code mask pc) part
        (kernelFaultEvent k code (d.mapNum part tile) gi part c.tag mask.toNat pc) := by
  unfold Dev.kernelFault
  simp only [h, hf, Bool.not_true, Bool.false_eq_true, if_false]
  generalize kernelFaultEvent k code (d.mapNum part tile) gi part c.tag mask.toNat pc = e
  obtain ⟨q, r, hshape⟩ := Dev.raise_shape d k part e
  have hcmd : (d.raise k part e).cmd cid = some c := (Dev.cmd_congr (by rw [hshape]) cid).trans h
  obtain ⟨hfell, hev⟩ := Dev.fell_spec hcmd (.complete 5 code)
  exact ⟨hfell, gotEvent_of_raise d _ k part e hev⟩

/-- What issues and faults in all active lanes ends its command. -/
theorem State.issue_faultThr {s : State} {g : At} {gn : Bool} {gp : BitVec 3} {chk : Chk} {go : Thr → BitVec 32 → State} {x : Thr} {code : Nat}
    (h : s.acts g chk x) (hgo : go x (x.taking gn gp) = s.faultThr x code x.grp.mask) :
    kernelFaults (.next (s.issue g gn gp chk go)) s x code := by
  obtain ⟨hthr, hb, hz, hf, hp, hc⟩ := h
  obtain ⟨-, -, -, -, -, hcmd, -, -⟩ := State.thr_some hthr
  obtain ⟨hfell, hev⟩ := Dev.kernelFault_spec hcmd hf s.clk x.part x.tile x.grp.gi code x.grp.mask x.grp.pc
  have hgo' : go x (x.grp.mask &&& x.grp.guard gn gp) = s.faultThr x code x.grp.mask := hgo
  have hissue : s.issue g gn gp chk go = s.faultThr x code x.grp.mask ∨
      s.issue g gn gp chk go = (s.faultThr x code x.grp.mask).onDev (fun d => d.charge x.part 8 1) := by
    rw [State.issue_eq hthr hb hz hf hp hc, hgo']
    exact ite_eq_or_eq _ _ _
  obtain hheld | hcounted := hissue
  · rw [hheld]
    exact ⟨_, _, rfl, hfell, rfl, rfl, rfl, rfl, rfl, rfl, hev⟩
  · obtain ⟨hcmds, hevq⟩ := Dev.sameCmdsEvents_charge (s.faultThr x code x.grp.mask).dev x.part 8 1
    rw [hcounted]
    refine ⟨_, _, rfl, (Dev.cmd_congr hcmds _).trans hfell, rfl, rfl, rfl, rfl, rfl, rfl, fun hsrc hroom => ?_⟩
    rw [State.onDev_dev, Dev.evQ_congr hevq]
    exact hev hsrc hroom

/-! ### Going on -/

/-- What issues and replaces its group by one that is not held goes on with that group. -/
theorem State.issue_groupNext {s : State} {g : At} {gn : Bool} {gp : BitVec 3} {chk : Chk} {go : Thr → BitVec 32 → State} {x : Thr} {y : Grp}
    (h : s.acts g chk x) (hgo : go x (x.taking gn gp) = s.putGrp x y) (hs : y.slot = x.grp.slot) (hk : y.k = x.grp.k) (hh : y.held = false) :
    groupNext (.next (s.issue g gn gp chk go)) s g x y := by
  obtain ⟨hthr, hothers, hrest, -⟩ := State.issue_putGrp h hgo hs hk hh
  exact ⟨_, _, rfl, hthr, rfl, rfl, hothers, hrest⟩

/-- What issues and only goes on to the next instruction keeps its registers. -/
theorem State.issue_advance {s : State} {g : At} {gn : Bool} {gp : BitVec 3} {chk : Chk} {go : Thr → BitVec 32 → State} {x : Thr}
    (h : s.acts g chk x) (hgo : go x (x.taking gn gp) = s.putGrp x x.grp.advance) :
    threadNext (.next (s.issue g gn gp chk go)) s g x x.grp.rdT x.grp.bitP x.grp.rdU := by
  have hy := Grp.advance_frame x.grp
  obtain ⟨hthr, hothers, hrest, -⟩ := State.issue_putGrp h hgo (by rw [hy]) (by rw [hy]) (by rw [hy])
  exact ⟨_, _, rfl, hthr, Grp.after_same x, rfl, hothers, hrest⟩

/-- What issues and moves its group to another address goes on there, once it has reconverged. -/
theorem State.issue_goTo {s : State} {g : At} {gn : Bool} {gp : BitVec 3} {chk : Chk} {go : Thr → BitVec 32 → State} {x : Thr} {y : Grp}
    {pc : Nat} {mask : BitVec 32} (h : s.acts g chk x) (hgo : go x (x.taking gn gp) = s.putGrp x (y.goTo pc mask))
    (hs : y.slot = x.grp.slot) (hk : y.k = x.grp.k) :
    groupNext (.next (s.issue g gn gp chk go)) s g x (y.goTo pc mask) := by
  have hy := Grp.goTo_frame y pc mask
  exact State.issue_groupNext h hgo (by rw [hy]; exact hs) (by rw [hy]; exact hk) (by rw [hy])

/-! ### BRA -/

/-- The reconvergence address is a program counter that wraps. -/
theorem pcPlus_natCast (pc n : Nat) : pcPlus pc n = (pc + 8 * n) % 2 ^ 32 := by
  unfold pcPlus
  omega

/-- R156, R158, R186: the five ways of BRA, by the lanes that take part, RDIST and the depth of the stack. -/
theorem branchesMoveOrSplitTheirPath : BranchesMoveOrSplitTheirPath := by
  intro s g f x hacts m target meets
  refine ⟨fun hall => ?_, fun hall hnone => ?_, fun hall hnone hr => ?_, fun hall hnone hr hd => ?_, fun hall hnone hr hd => ?_⟩
  · have hpath : Grp.settle 66 { x.grp with pc := target, held := false } = x.grp.goTo target m := by rw [hall]; rfl
    rw [hpath]
    exact State.issue_goTo hacts (if_pos hall) rfl rfl
  · exact State.issue_advance hacts ((if_neg hall).trans (if_pos hnone))
  · exact State.issue_faultThr hacts ((if_neg hall).trans ((if_neg hnone).trans (if_pos hr)))
  · exact State.issue_faultThr hacts ((if_neg hall).trans ((if_neg hnone).trans ((if_neg hr).trans (if_pos hd))))
  · have hmeets : meets = pcPlus x.grp.pc f.rdist.toNat := (pcPlus_natCast x.grp.pc f.rdist.toNat).symm
    rw [hmeets]
    exact State.issue_goTo
      (y := { x.grp with stack := ⟨pcPlus x.grp.pc f.rdist.toNat, x.grp.mask, x.grp.pc + 8, x.grp.mask &&& ~~~m⟩ :: x.grp.stack })
      hacts ((if_neg hall).trans ((if_neg hnone).trans ((if_neg hr).trans (if_neg (Nat.not_le.2 hd))))) rfl rfl

/-- R157, R159: 66 turns suffice for a stack of 32 entries. -/
theorem reconvergenceLeavesAPathToRun : ReconvergenceLeavesAPathToRun := by
  refine ⟨fun _ => rfl, fun x hlen hes hmask => ?_⟩
  have hexited : (Grp.settle 66 x).exited = x.exited := by rw [Grp.settle_frame]
  have hturns : turnsLeft x.stack ≤ 66 := (turnsLeft_le x.stack).trans (by omega)
  obtain ⟨hlive, -⟩ := Grp.settle_sparesExited 66 x ⟨hmask, hes⟩
  exact ⟨Grp.settle_onPath 66 x hturns, hlive, hexited, Grp.settle_frame 66 x⟩

/-- Settles O9: BRA by its five cases, reconvergence by induction on its turns. -/
theorem branchesSplitTheirPathAndReconverge : Obligations.BranchesSplitTheirPathAndReconverge :=
  ⟨branchesMoveOrSplitTheirPath, reconvergenceLeavesAPathToRun⟩

end Sys2Proof.Machine
end

section
/-! SUPPORT. The lowest lane of a mask, when a wait on a matrix token is over (R200), and MWAIT: the statement about matrix waits. -/

namespace Sys2Proof.Machine

/-! ### The lowest lane -/

@[simp] theorem lanesOf_zero : lanesOf 0 = [] := by decide

/-- The lanes of a mask are listed in ascending order. -/
theorem lanesOf_pairwise (m : BitVec 32) : (lanesOf m).Pairwise (· < ·) :=
  List.pairwise_lt_range.filter _

/-- The lanes of a mask begin with its lowest. -/
theorem isLowest.lanesOf_eq {m : BitVec 32} {l : Nat} (h : isLowest m l) : ∃ r, lanesOf m = l :: r := by
  obtain ⟨hlt, hset, hbelow⟩ := h
  have hl : l ∈ lanesOf m := (lanesOf_mem m l).2 ⟨hlt, hset⟩
  cases hlanes : lanesOf m with
  | nil => rw [hlanes] at hl; cases hl
  | cons a r =>
    have ha : bitAt m.toNat a = true := ((lanesOf_mem m a).1 (hlanes ▸ List.mem_cons_self)).2
    have hasc : (a :: r).Pairwise (· < ·) := hlanes ▸ lanesOf_pairwise m
    obtain rfl | hr := List.mem_cons.1 (hlanes ▸ hl)
    · exact ⟨r, rfl⟩
    · have hal : a < l := List.rel_of_pairwise_cons hasc hr
      exact absurd ha (by simp [hbelow a hal])

/-! ### MWAIT -/

/-- A wait is over when the token is 0 or the last token completed has reached it (R200). -/
theorem tokDone_iff (last t : Word) : tokDone last t = true ↔ t = 0 ∨ (last - t).toNat < 2 ^ 31 := by
  unfold tokDone
  rw [Bool.or_eq_true, decide_eq_true_iff, decide_eq_true_iff]

theorem tokDone_eq_false {last t : Word} (hne : t ≠ 0) (hlate : 2 ^ 31 ≤ (last - t).toNat) : tokDone last t = false :=
  Bool.eq_false_iff.2 fun h => ((tokDone_iff last t).1 h).elim hne (Nat.not_lt.2 hlate)

/-- Settles O13: MWAIT by whether a lane takes part and, for the token of the lowest, whether its wait is over. -/
theorem matrixWaitHoldsUntilItsToken : Obligations.MatrixWaitHoldsUntilItsToken := by
  intro s g f x hacts
  refine ⟨fun hnone => State.issue_advance hacts ?_, fun l hl => ?_⟩
  · rw [hnone, lanesOf_zero]
  · obtain ⟨r, hlanes⟩ := hl.lanesOf_eq
    refine ⟨fun hdone => State.issue_advance hacts ?_, fun hne hlate => State.issue_groupNext hacts ?_ ?_ ?_ ?_⟩
    · rw [hlanes]
      exact congrArg (s.putGrp x) (if_pos ((tokDone_iff _ _).2 hdone))
    · rw [hlanes]
      exact congrArg (s.putGrp x) (if_neg (by rw [tokDone_eq_false hne hlate]; exact Bool.false_ne_true))
    all_goals rw [Grp.advance_frame x.grp]

end Sys2Proof.Machine
end
